-- ==== Sys2Proof/Word.lean ====
section
/-!
DEFINITION. The word types of the E64 and their plainest arithmetic (R12: little-endian, bit 0 least significant).
-/
namespace Sys2Proof

/-- One byte of memory. -/
abbrev Byte := BitVec 8
/-- A register of 8 bytes (R9). -/
abbrev Word64 := BitVec 64
/-- A 48-bit module-physical or CSR address (R7, R8). -/
abbrev Addr := BitVec 48
/-- A vector register or accumulator tile (R83). -/
abbrev Vec := BitVec 512
/-- A 128-bit bundle (R85). -/
abbrev Bundle := BitVec 128

/-- Two's-complement reading of the low `w` bits of `n`. -/
def sext (w n : Nat) : Int :=
  if n % 2 ^ w < 2 ^ (w - 1) then (n % 2 ^ w : Nat) else (n % 2 ^ w : Nat) - (2 ^ w : Nat)

/-- The low `w` bits of an integer. -/
def wrapInt (w : Nat) (i : Int) : Nat := (i % (2 ^ w : Nat)).toNat

/-- Bits `[hi:lo]` of a number. -/
def bitsOf (n hi lo : Nat) : Nat := (n >>> lo) % 2 ^ (hi + 1 - lo)

end Sys2Proof
end

