-- ==== Sys2Proof/Config.lean ====
section
/-!
DEFINITION. What the spec leaves to an implementation, to the configuration image or to nobody: opaque constants with no
body, so that nothing can be proved of their values (assumption log: 2, 3, 4, 5, 6). `img` is the TABLE_HASH of the booted image:
what the image carries is a function of it (R543, R621).
-/
namespace Sys2Proof.Config

/-- A value the spec does not state, drawn by a counter of State (log 2). -/
opaque freeValue : Nat → BitVec 64

/-- CODE of the log entry that a rule asks for (R568 names no codes): rule number of the event. -/
opaque logCode : Nat → BitVec 16
/-- Physical stack that the configuration image names as spare (R17, section 0x02). -/
opaque imageSpare (img : Nat) : Nat
/-- LOG_k of DIE_BENCH_SPARE of a physical die as the image gives them (R482, section 0x02). -/
opaque imageBenchSpare (img : Nat) : Nat → BitVec 32
/-- CLK_DROOP_CFG as the image gives it: THRESH and FLOOR in mV (R507, section 0x08). -/
opaque imageDroop (img : Nat) : Nat → BitVec 64
/-- MGT_ROLE.ROLE of the image (R448, section 0x07). -/
opaque imageRole (img : Nat) : BitVec 2
/-- The module's own number, from the link map of the image (R5, R432). -/
opaque moduleNumber (img : Nat) : BitVec 12
/-- Module numbers of the system's manager and standby (R439, section 0x07). -/
opaque managerNumber (img : Nat) : BitVec 12
opaque standbyNumber (img : Nat) : BitVec 12
/-- The system role table (R439, section 0x07): job positions with module numbers; and its system spare modules with the takeover variant
that each takeover uses (R477, R478). -/
opaque roleTable (img : Nat) : List (Nat × Nat)
opaque roleSpares (img : Nat) : List (Nat × Nat)
/-- Torus dimensions of the link map (R430, R432): X / 2 - 1, Y / 2 - 1, Z - 2. -/
opaque torus (img : Nat) : Fin 8 × Fin 8 × Fin 15
/-- Recomputed bound of one energy bin in units of 10 W (R72): a function of the power model, of the bytes of the tab, and of the job
position and takeover variant whose streams and slot tables they are. -/
opaque powerBound (img : Nat) : List (Nat × BitVec 8) → Nat → Nat → Nat → Nat
/-- Part of one stack in the bound of a bin (R501). -/
opaque stackPart (img : Nat) : Nat → Nat → Nat
/-- Data of a package in ns: t_PB, t_RA, t_ZQ, and t_ZQI, at most 256 ms (R343, R621). -/
opaque dramTiming (img : Nat) : Nat → Nat × Nat × Nat × Fin 256000001
/-- Storage-to-bank mapping aside, LPDDR6 base of the replica bank of a parity (R453). -/
opaque replicaBase (img : Nat) : Nat → Nat
/-- LPDDR6 address of copy `i` of the record of a kind in a parity slot (R458). -/
opaque recordAddr (img : Nat) : Nat → Nat → Nat → Nat
/-- LPDDR6 address at which a parity of the replica area keeps its manifest (R453, R459). -/
opaque replicaManifest (img : Nat) : Nat → Nat
/-- The vault slot that a drive serves (R456, R574). -/
opaque vaultSlotOf (img : Nat) : Nat → Fin 2

/-- Macro index and row of a store's word in the image's die map (R519, section 0x02): store code, unit, address. -/
opaque macroOf (img : Nat) : Nat → Nat → Nat → Nat × Nat
/-- The repair map of the image (R519, section 0x02): die, macro, entry, row. -/
opaque imageRepairs (img : Nat) : List (Nat × Nat × Nat × Nat)
/-- The bench that a macro of a die serves, and whether it is of its cluster store, in the image's die map (R519). -/
opaque macroHome (img : Nat) : Nat → Nat × Bool

/-- Word `i` of the factory program image (R249, R254, R255, section 0x0A). -/
opaque factoryProgram : Nat → BitVec 32
/-- Word `i` of the factory seed image. -/
opaque factorySeed : Nat → BitVec 32
/-- The factory tag. -/
opaque factoryTag : BitVec 16

/-- The 64-bit job seed, key of CBG-64 (R143). -/
opaque jobSeed : BitVec 64

/-- PUF secret S of a management die (R541). -/
opaque pufSecret : Nat → List (BitVec 8)
/-- Does a management die reconstruct its PUF secret (R541, R542)? -/
opaque pufOk : Nat → Bool
/-- Trims area of the record block, and its repair, retire, spare and service records from their entries (R536). -/
opaque trims : List (BitVec 8)
opaque recordTail : List Nat → List (BitVec 8)
/-- Access list of the image (R544, section 0x0D): public keys with their permission masks. -/
opaque accessKeys (img : Nat) : List (List (BitVec 8) × BitVec 16)
/-- ML-DSA-44 public key generated from a seed (FIPS 204). -/
opaque mldsaPublic : List (BitVec 8) → List (BitVec 8)
/-- ML-DSA-44 signature by the key pair of a seed over a message. -/
opaque mldsaSign : List (BitVec 8) → List (BitVec 8) → List (BitVec 8)
/-- ML-DSA-44 verification: public key, message, signature. -/
opaque mldsaVerify : List (BitVec 8) → List (BitVec 8) → List (BitVec 8) → Bool
/-- ML-KEM-768 encapsulation against a key, with fresh randomness: shared secret and ciphertext (FIPS 203). -/
opaque mlkemEncaps : List (BitVec 8) → Nat → List (BitVec 8) × List (BitVec 8)
/-- AES-256-GCM tag: key, nonce number, header and payload bytes (R575). -/
opaque gcmTag : List (BitVec 8) → Nat → List (BitVec 8) → BitVec 128
/-- Nonce bytes the module draws (R556). -/
opaque nonce : Nat → List (BitVec 8)
/-- SHA3-256 of the vendor root public key held in mask ROM (R540). -/
opaque romVendorHash : List (BitVec 8)
/-- ROM version, item 1 of the boot measurement (R550). -/
opaque romVersion : BitVec 32

end Sys2Proof.Config
end

