-- ==== Sys2Proof/Syntax.lean ====
section
/-!
DEFINITION. The commands of the E64 block: one constructor of `Instr` per row of spec/opcode_table.json, with its operands.
Units are named by their PHYSICAL numbers, as the CSR window names them (R8, R18).
-/
namespace Sys2Proof

/-- Compute die CD0 to CD27 (R4, R15). -/
abbrev Die := Fin 28
/-- Hub HB0 to HB5. -/
abbrev Hub := Fin 6
/-- Management die MD0 or MD1. -/
abbrev Md := Fin 2

/-- Physical bench 0 to 179 of a compute die (R4). -/
structure BenchId where
  die : Die
  bench : Fin 180
  deriving DecidableEq, Repr

/-- Core 0 to 63 of a physical bench (R4). -/
structure CoreId where
  die : Die
  bench : Fin 180
  core : Fin 64
  deriving DecidableEq, Repr

/-- Asvex port `p` of a hub; module-wide it is port 8h + p (R420). -/
structure PortId where
  hub : Hub
  port : Fin 8
  deriving DecidableEq, Repr

/-- Local LPDDR6 channel of a hub (R305). -/
structure ChanId where
  hub : Hub
  chan : Fin 56
  deriving DecidableEq, Repr

/-- A management-protocol datagram as the die receives it (R575): session, sequence number, tag and ciphertext. -/
structure Rq where
  md : Md
  session : BitVec 32
  seq : BitVec 64
  tag : BitVec 128
  cipher : List Byte
  deriving DecidableEq, Repr

/-- Who makes a CSR access: firmware, host cores or the debug path of a management die, or an operator's session (R577, R585); and whether
it falls in the fabric cycle of the commands before it (R14, R518, R583) or, as every other access, in a cycle of its own (log 56). -/
inductive Origin where
  | host (md : Md)
  | session (rq : Rq)
  | same (o : Origin)
  deriving DecidableEq, Repr

/-- A step descriptor (R441). -/
structure StepDesc where
  step : BitVec 40
  bank : Bool
  thin : BitVec 4
  replay : Bool
  start : BitVec 64
  seedEpoch : BitVec 64
  tab : BitVec 64
  term : BitVec 32
  deriving DecidableEq, Repr

/-- The bytes of a tab image that arrived for this module (R34 to R36, R613): offset and byte, every byte not listed 0. -/
structure TabImage where
  bytes : List (Nat × Byte)
  length : Nat
  deriving DecidableEq, Repr

/-- Where a data flit stands (R421): header fields and body. -/
structure Flit where
  seq : BitVec 32
  vc : BitVec 2
  last : Bool
  xfer : BitVec 24
  fidx : BitVec 24
  valid : BitVec 8
  body : List Byte
  crc : BitVec 32
  deriving DecidableEq, Repr

/-- The body of a control flit (R422); `ts` holds the four timestamps of R444 in ns. -/
structure CtrlFlit where
  cred : List (BitVec 32)
  ack : List (BitVec 32)
  nakSeq : BitVec 32
  nak : BitVec 4
  ts : List (BitVec 64)
  term : BitVec 32
  hb : BitVec 32
  deriving DecidableEq, Repr

/-- What a maintenance atom does in its window (R75, R77, R342 to R345, R502, R524, R578), with what it observed. -/
inductive Atom where
  /-- Per-bank refresh of a sub-channel. -/
  | refresh (c : ChanId) (sub : Fin 2)
  /-- ZQ latch command. -/
  | zqLatch (c : ChanId)
  /-- Mode-register read: the package of the channel needs this rate (codes of HUB_DRAM_TREF). -/
  | rateRead (c : ChanId) (rate : BitVec 2)
  /-- Retraining of an LPDDR6 channel or of every UCIe connection. -/
  | phyRetrain (c : ChanId)
  | ucieRetrain
  /-- Sensor sweep of a die (CSR die code): its 16 thermal readings in 1/16 degree Celsius, then rail voltages and currents. -/
  | sensorSweep (die : Fin 64) (thermal volts amps : List (BitVec 16))
  /-- Scrub progress: `words` words of a store read in the window. -/
  | scrub (b : BenchId) (words : Nat)
  /-- Self-test of a bench with its result: 0 passed, 1 SRAM failed, 2 array failed, 3 vector lanes failed. -/
  | selfTest (b : BenchId) (result : Fin 4)
  /-- Event-counter and log service of a management die. -/
  | service (md : Md)
  deriving DecidableEq, Repr

/-- The stores a scrubber and the checkers work on (R509, R530). -/
inductive StoreRef where
  | localStore (c : CoreId)
  | l1 (c : CoreId)
  | tabBuffer (c : CoreId)
  | accFile (c : CoreId)
  | registers (c : CoreId)
  | clusterStore (b : BenchId)
  | hubSram (h : Hub)
  | lpddr (c : ChanId)
  deriving DecidableEq, Repr

/-- A unit that reports a fault, as CSR die, bench and core fields (R8), in the module of a job position. -/
structure UnitRef where
  pos : Nat
  die : Fin 64
  bench : BitVec 8
  core : BitVec 7
  deriving DecidableEq, Repr

/-- A sample that the data order presents to the loader (R67): its number, its length in tokens, and the bytes of its tokens. -/
structure Sample where
  id : Nat
  tokens : Nat
  data : List Byte
  deriving DecidableEq, Repr

/-- A configuration-image slot as its bytes in flash stand (R543): the 4 KiB header, the section table, and the sections in its order.
`readable`: flash reads complete without device error (R545). -/
structure ImageSlot where
  readable : Bool
  header : List Byte
  table : List Byte
  sections : List (List Byte)
  deriving DecidableEq, Repr

/-- An owner delegation record (R539): bytes 0x000 to 0x55F, and SIG. -/
structure Delegation where
  body : List Byte
  sig : List Byte
  deriving DecidableEq, Repr

/-- A path of the translation caches (R311). -/
inductive XPath where
  | slot (c : CoreId)
  | elastic (b : BenchId)
  | hub (h : Hub)
  deriving DecidableEq, Repr

/-- A unit that runs descriptors (R270). -/
inductive DescUnit where
  | core (c : CoreId) (slot : Nat)
  | engine (h : Hub) (e : Fin 16)
  deriving DecidableEq, Repr

/-- A use of an LPDDR6 channel start (R336, R616). -/
inductive StartUse where
  | copy (engine : Fin 16)
  | haul
  | miss (die : Die)
  | free
  deriving DecidableEq, Repr

/-- A source a restore may draw on, with what the search found for it (R464). -/
structure RestoreRegion where
  region : Nat
  bytes : List (Nat × Byte)
  source : Nat
  deriving DecidableEq, Repr

/-- One candidate epoch of a restart with the verdict for every job position (R463). -/
structure RestoreCandidate where
  epoch : BitVec 40
  tabId : BitVec 256
  intact : Bool
  cursor : BitVec 64
  /-- The samples that the loader held back when the epoch's next step was packed: CURSOR is past them (R68, R69) (log 46). -/
  held : List Sample
  regions : List RestoreRegion
  deriving DecidableEq, Repr

/-- One transfer of a bucket as its two ends hashed it (R413, R416): job positions of sender and receiver, bucket, hashes. -/
structure DigestPair where
  sender : Nat
  receiver : Nat
  bucket : BitVec 32
  sent : BitVec 64
  recv : BitVec 64
  deriving DecidableEq, Repr

/-- What a module reported of one run of a step: its step digest and its records of port, bucket, sent hash, received hash. -/
structure DigestRun where
  pos : Nat
  digest : BitVec 256
  recs : List (Nat × Nat × BitVec 64 × BitVec 64)
  deriving DecidableEq, Repr

/-- A message as its receiver finds it: what an inbound entry of the link slot table has landed (R406, R435), or its bytes as they came, late
or poisoned (R54). -/
inductive MsgIn where
  | landed (entry : BitVec 24)
  | bytes (bs : List Byte) (late poison : Bool)
  deriving DecidableEq, Repr

/-- A message, with the outbound link entries by which the messages that follow from it leave, in the order in which they are sent. -/
structure MsgHop where
  msg : MsgIn
  out : List (BitVec 24)
  deriving DecidableEq, Repr

/-- A bucket, with the outbound link entries by which its messages leave, in the order in which they are sent. -/
structure BucketOut where
  bucket : BitVec 32
  out : List (BitVec 24)
  deriving DecidableEq, Repr

/-- A reported fault of a step. `applied`: some dresser of the system had started its apply pass of the step (R360); `skew`: the report is a
step-skew fault (R361). -/
structure StepFault where
  step : BitVec 40
  applied : Bool
  skew : Bool
  deriving DecidableEq, Repr

/-- Order 6 of R468: whether a dresser of the system has started the step's apply pass, as the manager says (R469), and the regions that
arrived. -/
structure AbsorbIn where
  applied : Bool
  regions : List RestoreRegion
  deriving DecidableEq, Repr

/-- What the data order presents for a step: samples (R66 to R70), and the trainable-block maps with their LPDDR6 addresses (R191). -/
structure StepData where
  samples : List Sample
  maps : List (Addr × List Byte)
  deriving DecidableEq, Repr

/-- What the message that a flit of VC 1 or VC 2 completes says to a manager or a standby. The spec lays out no bytes for it (log 53). -/
inductive Report where
  /-- The outcome of a load at a job position: the TAB_ID it reports LOADED for, or none for a refusal (R39). -/
  | tabOutcome (pos : Nat) (got : Option (BitVec 256))
  /-- A module's step digest, of the first run or of a replay (R413, R414). -/
  | stepDigest (pos : Nat) (step : BitVec 40) (digest : BitVec 256) (replay : Bool)
  /-- A port of a job position has come UP again (R434). -/
  | portUp (pos : Nat) (port : Fin 48)
  /-- The manager's copy to the standby: role table, and digests by step and position (R439). -/
  | standbyCopy (roles : List (Nat × Nat)) (digests : List (BitVec 40 × Nat × BitVec 256))
  /-- The epoch that the manager has committed, to the standby (R439). -/
  | commitIdentity (epoch : BitVec 64)
  deriving DecidableEq, Repr

/-- What a receiver's decoder makes of a data flit: whether its codewords were correct, and what the message it completes says. -/
structure FlitIn where
  codewordOk : Bool
  report : Option Report
  deriving DecidableEq, Repr

/-- A row of R459 that completes. Row 4 has two sides: the check that this module makes as the buddy of its -z neighbour (job position,
CURSOR and manifest as they arrived), and the acknowledgement that this module's own commit waits for. -/
inductive CommitRow where
  | copyOut
  | replica
  | manifest
  | buddyCheck (pos : Nat) (cursor : Word64) (manifest : List Byte)
  | acknowledged
  | ownRecord
  | report
  deriving DecidableEq, Repr

/-- The commands, in the order of spec/opcode_table.json. -/
inductive Instr where
  /-- A single-mode write (R13). -/
  | csrWrite (o : Origin) (addr : Addr) (v : Word64)
  | chordWrite (o : Origin) (addr : Addr) (v : Word64)
  | strumWrite (o : Origin) (addr : Addr) (v : Word64)
  | broadcastWriteComplete
  | csrRead (o : Origin) (addr : Addr)
  /-- `die` is a CSR die code. -/
  | counterSnapshotRead (rq : Rq) (die : Fin 64)
  /-- The manager's load request, with the module's job position and the count of positions in the role table (R35, R37). -/
  | tabLoadRequest (pos positions : Nat)
  | tabSectionsReceived (img : TabImage)
  | tabTransferAborted
  | tabReceiveTimeout
  | tabChecksComplete
  | tabDiscard
  | jobStart
  /-- `byFault`: a fault that ends the job rather than the manager's stop. -/
  | jobStop (byFault : Bool)
  | stoppingIdle
  | stepDescriptorSend (d : StepDesc)
  | stepDescriptor (d : StepDesc)
  | descriptorDeadline
  | segmentStart
  | deadlineFault (u : UnitRef) (fault : StepFault)
  | tuningWindowOpen (entry : Nat)
  | maintenanceAtom (entry : Nat) (a : Atom)
  | tuningWindowEnd (entry : Nat)
  /-- A self-test or calibration request for units, by their codes of R617, and a class of R75, with a deadline in ns. -/
  | selftestRequest (rq : Rq) (units : List (BitVec 32)) (cls : Fin 6) (deadline : BitVec 64)
  /-- Slot operations: core `c` issues, in this slot of bundle `b`, the row's operation (R85). -/
  | snop (c : CoreId) (b : Bundle)
  | salu (c : CoreId) (b : Bundle)
  | addi (c : CoreId) (b : Bundle)
  | andi (c : CoreId) (b : Bundle)
  | ori (c : CoreId) (b : Bundle)
  | xori (c : CoreId) (b : Bundle)
  | shi (c : CoreId) (b : Bundle)
  | lim (c : CoreId) (b : Bundle)
  | br (c : CoreId) (b : Bundle)
  | loop (c : CoreId) (b : Bundle)
  | rdsr (c : CoreId) (b : Bundle)
  | mnop (c : CoreId) (b : Bundle)
  | mwld (c : CoreId) (b : Bundle)
  | mscl (c : CoreId) (b : Bundle)
  | mstep (c : CoreId) (b : Bundle)
  | arrayResultWrite (b : BenchId)
  | mmask (c : CoreId) (b : Bundle)
  | vnop (c : CoreId) (b : Bundle)
  | varith (c : CoreId) (b : Bundle)
  | vfma (c : CoreId) (b : Bundle)
  | vfms (c : CoreId) (b : Bundle)
  | vfnma (c : CoreId) (b : Bundle)
  | vcmp (c : CoreId) (b : Bundle)
  | vsel (c : CoreId) (b : Bundle)
  | vcvt (c : CoreId) (b : Bundle)
  | vbit (c : CoreId) (b : Bundle)
  | vshuf (c : CoreId) (b : Bundle)
  | vred (c : CoreId) (b : Bundle)
  | vscan (c : CoreId) (b : Bundle)
  | vbfly (c : CoreId) (b : Bundle)
  | vgact (c : CoreId) (b : Bundle)
  | vbcast (c : CoreId) (b : Bundle)
  | vsfn (c : CoreId) (b : Bundle)
  | vmvdot (c : CoreId) (b : Bundle)
  | registerWriteback (c : CoreId)
  | msnop (c : CoreId) (b : Bundle)
  | ldv (c : CoreId) (b : Bundle)
  | stv (c : CoreId) (b : Bundle)
  | lds (c : CoreId) (b : Bundle)
  | sts (c : CoreId) (b : Bundle)
  | diss (c : CoreId) (b : Bundle)
  | ldc (c : CoreId) (b : Bundle)
  | stc (c : CoreId) (b : Bundle)
  | gstr (c : CoreId) (b : Bundle)
  | gwait (c : CoreId) (b : Bundle)
  | tfill (c : CoreId) (b : Bundle)
  | waitu (c : CoreId) (b : Bundle)
  | deadline (c : CoreId) (b : Bundle)
  | eclose (c : CoreId) (b : Bundle)
  | segend (c : CoreId) (b : Bundle)
  | pluck (c : CoreId) (b : Bundle)
  | park (c : CoreId) (b : Bundle)
  | waituTargetReached (c : CoreId)
  | regionDeadline (c : CoreId)
  | tfillComplete (c : CoreId) (half : Fin 2)
  | cacheAccessComplete (c : CoreId)
  | missSlotService (c : ChanId) (die : Die)
  | prefetchIssue (b : BenchId) (line : BitVec 48) (up : Bool)
  | gatherLineIssue (c : CoreId)
  /-- The `i`-th outstanding request completes; lines complete in any order (R333). -/
  | gatherLineComplete (c : CoreId) (k : Nat)
  | descriptorComplete (u : DescUnit)
  | translationWalkComplete (p : XPath) (addr : Addr)
  /-- An arriving line, when one arrives: line number, 64 bytes, deadline in core cycles from the segment start, poisoned. -/
  | landingWrite (c : CoreId) (arr : Option (Fin 1024 × Vec × BitVec 26 × Bool))
  | landingDeadline (c : CoreId) (line : Fin 1024)
  /-- Copy-start record `entry` of the hub slot table (R616) on a named engine, with its 192-byte descriptor. -/
  | copyStart (h : Hub) (e : Fin 16) (entry : BitVec 32) (d : BitVec 1536)
  | channelStart (c : ChanId) (use : StartUse)
  | channelRequestComplete (h : Hub) (tag : Fin 4096)
  | refreshDebtTick (c : ChanId) (sub : Fin 2)
  | xlatRootWrite (o : Origin) (n : Fin 2) (v : Word64)
  | xlatSwapRequest (o : Origin)
  | xlatSwap
  | dresserNorm (b : BenchId)
  | dresserApply (b : BenchId)
  | dresserSched (b : BenchId)
  | dresserPassEnd (b : BenchId)
  | dresserPassDeadline (b : BenchId)
  | drsStepWrite (o : Origin) (b : BenchId) (v : Word64)
  | drsStepReset (n : BitVec 40)
  | schedBankLoad (o : Origin) (b : BenchId) (v : Word64)
  | schedBankLoadDone (b : BenchId)
  /-- The reduction bench of a bucket starts it (R392). -/
  | reductionStart (b : BenchId) (bucket : BucketOut)
  /-- A gradient message of a sender job position lands at the bench of a bucket's node. -/
  | reductionMessage (b : BenchId) (bucket : BitVec 32) (src : Nat) (msg : MsgHop)
  /-- A norm-record message from a job position; `down` when it carries the global record. -/
  | normRecordMessage (src : Nat) (down : Bool) (msg : MsgHop)
  | paramDistribution (bucket : BitVec 32) (src : Nat) (msg : MsgHop)
  | digestRecordsWrite (h : Hub)
  | stepDigest
  /-- The manager compares digests of step `n`: the transfers of the first run, and what the modules reported of the first run and of the
  replay, which is empty when there was none. -/
  | digestCompare (n : BitVec 40) (pairs : List DigestPair) (first replay : List DigestRun)
  | flitSend (p : PortId) (entry : BitVec 24) (vc : BitVec 2) (last : Bool) (body : List Byte)
  | controlFlitSend (p : PortId)
  /-- `codewordOk` is false when the FEC could not correct the codeword. -/
  | flitReceive (p : PortId) (f : Flit) (rx : FlitIn)
  | controlFlitReceive (p : PortId) (f : CtrlFlit) (ok : Bool)
  | portTrainingStart (p : PortId) (request : Bool)
  | portLanesLocked (p : PortId)
  | portTrainingTimeout (p : PortId)
  /-- Module number, hub and port that the neighbour sent (R432). -/
  | portIdentityResult (p : PortId) (mod : BitVec 12) (hub : Hub) (port : Fin 8)
  | laneLost (p : PortId) (lane : Fin 8)
  | spareLaneSwitch (p : PortId)
  /-- The port, whether it carries a slot of the running tab, and the neighbour seen at CHECK. -/
  | portFenceFault (u : UnitRef) (p : PortId) (carries : Bool) (neighbour : BitVec 12)
  | portRetrainTimeout (a b : BitVec 12) (aLocked bLocked : Bool)
  /-- A hub or compute die code and the connection. -/
  | ucieLinkFault (die : Fin 64)
  | heartbeatSend
  | managerTakeover
  | timebaseHoldTimeout
  /-- The hub slot table starts a 64-byte haul descriptor. -/
  | haulStart (h : Hub) (d : BitVec 512)
  /-- One row of R459 completes. -/
  | commitEpoch (row : CommitRow)
  | commitDeadline
  | commitReport (pos : Nat) (epoch : BitVec 40)
  | jobCommitNotice (epoch : BitVec 40)
  | vaultDrain
  /-- `exported`: the epoch's export has finished. -/
  | vaultDrainCommit (exported : Bool)
  /-- The candidates in the order of R463, and the takeover variant that the role table names (0 for the job as started). -/
  | restart (variant : Nat) (cands : List RestoreCandidate)
  /-- The unit polled (a compute die or a bench of it) and whether it answered. -/
  | statusPoll (die : Die) (bench : Option (Fin 180)) (answered : Bool)
  /-- One order of R468 for a failed stack. -/
  | stackAbsorption (die : Die) (order : Fin 9) (restore : AbsorbIn)
  | benchAbsorption (b : BenchId) (order : Fin 9) (restore : AbsorbIn)
  /-- A failed package; the new translation root with the words of the new tables, as they stood in the old ones; and the package's
  contents as recovered, by their old addresses. -/
  | packageRetirement (pkg : Fin 84) (root : Word64) (tables : List (Nat × Word64)) (rebuilt : List (Nat × Byte))
  | spareRecordCommit
  | beyondModuleFault (u : UnitRef)
  | pluckTableFire (entry : Nat)
  /-- `bridge`: the request is one at a bridge into the bench, not a pluck. -/
  | pluckArrival (b : BenchId) (bridge : Bool)
  | benchParkComplete (b : BenchId)
  | benchWakeComplete (b : BenchId)
  | benchReentry (b : BenchId)
  | wakeTimeout (b : BenchId)
  | domainResetRequest (o : Origin) (die : Die) (v : Word64)
  | domainResetComplete (die : Die)
  /-- A PLL of a die (CSR die code): LOCK0, LOCK1 or LOCK2. -/
  | pllLockLoss (die : Fin 64) (pll : Fin 3)
  | droopStretch (die : Die)
  | droopFault (die : Die)
  /-- A 1 µs window: mean draw of the module in units of 10 W and the energy of each stack in units of 10 W times 125 ns. -/
  | powerWindow (draw : Nat) (perStack : List Nat)
  | thermalFault (u : UnitRef)
  | thermalTrip
  /-- The next word of a store is read; `strike` is the damage its codeword carries beyond what the model stored. -/
  | scrubAccess (st : StoreRef) (addr : Nat) (strike : BitVec 288) (claimed : Bool) (overwritten : Bool)
  | scrubLapEnd (st : StoreRef) (seconds : BitVec 32)
  /-- A triple of a register (CSR address) is read with these three copies. -/
  | voteRepair (addr : Addr) (c0 c1 c2 : Word64)
  | pageRetireCopy (c : ChanId) (k : Fin 8)
  | flipArm (o : Origin) (addr : Addr) (v : Word64)
  /-- The next write to the armed block, to the word at this address. -/
  | flipCorruptWrite (st : StoreRef) (addr : Nat)
  | coreSfsLoadWrite (o : Origin) (c : CoreId) (v : Word64)
  | benchChordWrite (o : Origin) (b : BenchId) (v : Word64)
  | hubCopyTagsClr (o : Origin) (h : Hub) (v : Word64)
  | coreFaultClear (o : Origin) (c : CoreId) (v : Word64)
  | benchArrayFaultClear (o : Origin) (b : BenchId) (v : Word64)
  | benchRingFaultClear (o : Origin) (b : BenchId) (v : Word64)
  | coreDescStatusClear (o : Origin) (c : CoreId) (v : Word64)
  | hubCopyStatusClear (o : Origin) (h : Hub) (v : Word64)
  | hubDramFaultClear (o : Origin) (h : Hub) (v : Word64)
  | drsFaultClear (o : Origin) (b : BenchId) (v : Word64)
  | benchRedFaultClear (o : Origin) (b : BenchId) (v : Word64)
  | lnkFaultClear (o : Origin) (p : PortId) (v : Word64)
  | haulFaultClear (o : Origin) (h : Hub) (v : Word64)
  | pwrBenchFaultClear (o : Origin) (b : BenchId) (v : Word64)
  | pwrThermClear (o : Origin) (v : Word64)
  | mgtAccessErrClear (o : Origin) (md : Md) (v : Word64)
  /-- `unit`: a bench (inl) or a hub (inr), whose ECC_ADDR register is written. -/
  | eccAddrClear (o : Origin) (u : BenchId ⊕ Hub) (v : Word64)
  | evselWrite (o : Origin) (addr : Addr) (v : Word64)
  | evcntWrite (o : Origin) (addr : Addr) (v : Word64)
  /-- A counter (its EVCNT's CSR address) adds `n` units of its source and passes 2^48 - 1. -/
  | counterWrap (addr : Addr) (n : BitVec 24)
  | wdogKick (o : Origin) (md : Md) (v : Word64)
  | watchdogExpiry (md : Md)
  | sensorSelect (o : Origin) (md : Md) (v : Word64)
  | i3cPoll (dev : Fin 32) (answer : Option (BitVec 16))
  | i3cInBandInterrupt (dev : Fin 32) (data : BitVec 16)
  /-- An entry for a die's logger (R568). -/
  | logEntry (md : Md) (severity : Fin 4) (pinned : Bool) (code : BitVec 16) (loc : BitVec 21) (data : BitVec 224)
  | hostRestart (md : Md)
  | driveRemoval (drive : Nat)
  | loaderPack (step : BitVec 40) (data : StepData)
  | porstAssert
  | wrstAssert
  | pwrokFall
  | refClkLoss
  | powerUp
  /-- The last order of R546 that is reached (9: READY), and the LPDDR6 channels whose training failed at order 6. -/
  | boot (reached : Fin 10) (failed : List ChanId)
  /-- The controller writes new contents to the record block: spare, repair, retire or service records are those of State. -/
  | recordUpdate
  | recoveryStatus (md : Md)
  | recoveryUpload (slot : Fin 2) (img : ImageSlot)
  | recoveryReset
  | imageUpload (rq : Rq) (slot : Fin 2) (img : ImageSlot)
  | imageVerifyComplete
  | pendingCancel (rq : Rq)
  | attestation (rq : Rq) (nonce : List Byte)
  | sessionOpenRequest (md : Md) (session : BitVec 32) (ek nonce : List Byte)
  | sessionOpenConfirm (md : Md) (session : BitVec 32) (sig : List Byte)
  | sessionIdleTimeout (md : Md) (session : BitVec 32)
  /-- Entries of the die's ring, or of the flash partition. -/
  | logRead (rq : Rq) (ring : Bool) (first count : Nat)
  | logErase (rq : Rq)
  | resetRequest (rq : Rq)
  | vaonLoss
  | driveReplacement (drive : Nat)
  deriving DecidableEq, Repr

end Sys2Proof
end

