-- ==== Sys2Proof/Machine/Float.lean ====
section
/-!
DEFINITION. Number formats, exact reals and rounding (04_number_formats_and_rounding.md, R120 to R132). A finite value is
a dyadic `(-1)^s * m * 2^e`; every operation forms its exact result and rounds once (R126).
-/
namespace Sys2Proof.Machine

/-- A decoded floating-point value; a zero keeps its sign (R128). -/
inductive FV where
  | nan
  | inf (neg : Bool)
  | fin (neg : Bool) (m : Nat) (e : Int)
  deriving DecidableEq, Repr

/-- An exact dyadic number `m * 2^e`. -/
structure Dy where
  m : Int
  e : Int
  deriving DecidableEq, Repr

/-- A floating-point format (R121): exponent and mantissa bits, bias, infinities, and whether the only NaN is all ones. -/
structure Fmt where
  eb : Nat
  mb : Nat
  bias : Nat
  hasInf : Bool
  allOnesNan : Bool
  deriving DecidableEq, Repr

/-- Rounding of R132. -/
inductive Rnd where
  | rne
  | rtz
  deriving DecidableEq, Repr

def fp64 : Fmt := ⟨11, 52, 1023, true, false⟩
def fp32 : Fmt := ⟨8, 23, 127, true, false⟩
def bf16 : Fmt := ⟨8, 7, 127, true, false⟩
def fp16 : Fmt := ⟨5, 10, 15, true, false⟩
def e4m3 : Fmt := ⟨4, 3, 7, false, true⟩
def e5m2 : Fmt := ⟨5, 2, 15, true, false⟩
def e3m2 : Fmt := ⟨3, 2, 3, false, false⟩
def e2m3 : Fmt := ⟨2, 3, 1, false, false⟩
def e2m1 : Fmt := ⟨2, 1, 1, false, false⟩

/-- Width in bits. -/
def Fmt.width (f : Fmt) : Nat := 1 + f.eb + f.mb

/-- The value of a code (R122, R124: any NaN encoding counts). -/
def Fmt.dec (f : Fmt) (n : Nat) : FV :=
  let s := n.testBit (f.eb + f.mb)
  let ex := (n >>> f.mb) % 2 ^ f.eb
  let mt := n % 2 ^ f.mb
  if f.hasInf && ex == 2 ^ f.eb - 1 then
    if mt == 0 then .inf s else .nan
  else if f.allOnesNan && ex == 2 ^ f.eb - 1 && mt == 2 ^ f.mb - 1 then .nan
  else if ex == 0 then .fin s mt (1 - (f.bias : Int) - f.mb)
  else .fin s (mt + 2 ^ f.mb) ((ex : Int) - f.bias - f.mb)

/-- The code of the largest finite magnitude. -/
def Fmt.maxCode (f : Fmt) : Nat :=
  if f.hasInf then (2 ^ f.eb - 1) * 2 ^ f.mb - 1
  else if f.allOnesNan then 2 ^ (f.eb + f.mb) - 2
  else 2 ^ (f.eb + f.mb) - 1

/-- The canonical NaN (R124); formats without NaN have none and give zero. -/
def Fmt.nanCode (f : Fmt) : Nat :=
  if f.hasInf then (2 ^ f.eb - 1) * 2 ^ f.mb + 2 ^ (f.mb - 1)
  else if f.allOnesNan then 2 ^ (f.eb + f.mb) - 1
  else 0

def Fmt.infCode (f : Fmt) : Nat := (2 ^ f.eb - 1) * 2 ^ f.mb

def Fmt.signBit (f : Fmt) (neg : Bool) : Nat := if neg then 2 ^ (f.eb + f.mb) else 0

/-- Bits in a natural number. -/
def bitLen (n : Nat) : Nat := if n = 0 then 0 else n.log2 + 1

/-- `m / 2^k` rounded to an integer (R132). -/
def shiftRound (md : Rnd) (m k : Nat) : Nat :=
  let q := m >>> k
  let r := m % 2 ^ k
  match md with
  | .rtz => q
  | .rne =>
    if k = 0 then q
    else if r > 2 ^ (k - 1) || (r == 2 ^ (k - 1) && q % 2 == 1) then q + 1 else q

/-- Magnitude `m * 2^e` rounded to the precision of `f` with unbounded exponent, as a code that may pass `maxCode`. -/
def Fmt.roundMag (f : Fmt) (md : Rnd) (m : Nat) (e : Int) : Nat :=
  if m = 0 then 0 else
  let emin : Int := 1 - (f.bias : Int) - f.mb
  let top : Int := e + (bitLen m : Int) - (f.mb + 1 : Nat)
  let q : Int := if top < emin then emin else top
  let n := if q ≤ e then m <<< (e - q).toNat else shiftRound md m (q - e).toNat
  ((q - emin).toNat <<< f.mb) + n

/-- What a conversion gives above the largest finite magnitude (R130). -/
inductive Over where
  /-- IEEE: infinity under RNE, the largest finite under RTZ. -/
  | ieee
  /-- Saturation at the largest finite in every mode. -/
  | saturate
  deriving DecidableEq, Repr

/-- A finite value rounded once to `f`. -/
def Fmt.encFin (f : Fmt) (md : Rnd) (ov : Over) (neg : Bool) (m : Nat) (e : Int) : Nat :=
  let c := f.roundMag md m e
  if c > f.maxCode then
    match ov, md with
    | .ieee, .rne => f.signBit neg + (if f.hasInf then f.infCode else f.maxCode)
    | _, _ => f.signBit neg + f.maxCode
  else f.signBit neg + c

/-- Any value rounded once to `f`, with the NaN and infinity rules of R124 and R130. -/
def Fmt.enc (f : Fmt) (md : Rnd) (ov : Over) : FV → Nat
  | .nan => f.nanCode
  | .inf neg => if f.hasInf then f.signBit neg + f.infCode else if f.allOnesNan then f.nanCode else f.signBit neg + f.maxCode
  | .fin neg m e => f.encFin md ov neg m e

/-- IEEE result in `f` by RNE (R126, R127). -/
def Fmt.rne (f : Fmt) (v : FV) : Nat := f.enc .rne .ieee v

/-! Exact dyadic arithmetic. -/

def Dy.zero : Dy := ⟨0, 0⟩
def Dy.ofNat (n : Nat) : Dy := ⟨n, 0⟩

def Dy.add (a b : Dy) : Dy :=
  if a.e ≤ b.e then ⟨a.m + b.m * 2 ^ (b.e - a.e).toNat, a.e⟩
  else ⟨a.m * 2 ^ (a.e - b.e).toNat + b.m, b.e⟩

def Dy.mul (a b : Dy) : Dy := ⟨a.m * b.m, a.e + b.e⟩
def Dy.neg (a : Dy) : Dy := ⟨-a.m, a.e⟩
def Dy.sub (a b : Dy) : Dy := a.add b.neg
def Dy.scale (a : Dy) (k : Int) : Dy := ⟨a.m, a.e + k⟩
/-- Sign of `a - b`. -/
def Dy.cmp (a b : Dy) : Ordering := compare (a.sub b).m 0
def Dy.lt (a b : Dy) : Bool := (a.sub b).m < 0
def Dy.le (a b : Dy) : Bool := (a.sub b).m ≤ 0

/-- The signed dyadic of a finite value; zero for the others. -/
def FV.dy : FV → Dy
  | .fin neg m e => ⟨if neg then -(m : Int) else m, e⟩
  | _ => Dy.zero

def FV.isNan : FV → Bool
  | .nan => true
  | _ => false
def FV.isInf : FV → Bool
  | .inf _ => true
  | _ => false
def FV.isZero : FV → Bool
  | .fin _ m _ => m == 0
  | _ => false
def FV.neg? : FV → Bool
  | .nan => false
  | .inf n => n
  | .fin n _ _ => n
def FV.negate : FV → FV
  | .nan => .nan
  | .inf n => .inf (!n)
  | .fin n m e => .fin (!n) m e
def FV.abs : FV → FV
  | .nan => .nan
  | .inf _ => .inf false
  | .fin _ m e => .fin false m e

/-- A dyadic as a value; an exact zero takes the sign given. -/
def Dy.fv (d : Dy) (zeroNeg : Bool) : FV :=
  if d.m = 0 then .fin zeroNeg 0 0 else .fin (d.m < 0) d.m.natAbs d.e

/-- One exact term of a sum: a product of two values (R156, R209). -/
def FV.mul : FV → FV → FV
  | .nan, _ | _, .nan => .nan
  | .inf a, .inf b => .inf (a != b)
  | .inf a, .fin b m _ => if m = 0 then .nan else .inf (a != b)
  | .fin a m _, .inf b => if m = 0 then .nan else .inf (a != b)
  | .fin a m e, .fin b n k => .fin (a != b) (m * n) (e + k)

/-- The exact sum of a list of values under the special-value and zero-sign rules of column_sum (R156): NaN when any term is NaN or
infinities of both signs are present; -0 only when there is a term and every term is a zero of negative sign. -/
def FV.sum (ts : List FV) : FV :=
  if ts.any FV.isNan then .nan
  else
    let pos := ts.any fun t => t.isInf && !t.neg?
    let ng := ts.any fun t => t.isInf && t.neg?
    if pos && ng then .nan
    else if pos then .inf false
    else if ng then .inf true
    else
      let d := ts.foldl (fun acc t => acc.add t.dy) Dy.zero
      d.fv (!ts.isEmpty && ts.all fun t => t.isZero && t.neg?)

def FV.add (a b : FV) : FV := FV.sum [a, b]
def FV.sub (a b : FV) : FV := FV.sum [a, b.negate]
/-- `a * b + c`, exact (R209). -/
def FV.fma (a b c : FV) : FV := FV.sum [a.mul b, c]

/-- Order of two values that are not NaN, with -0 equal to +0; infinities at the ends. -/
def FV.cmpNum (a b : FV) : Ordering :=
  match a, b with
  | .inf x, .inf y => if x == y then .eq else if x then .lt else .gt
  | .inf x, _ => if x then .lt else .gt
  | _, .inf y => if y then .gt else .lt
  | _, _ => a.dy.cmp b.dy

/-- Total order used by minimum and maximum: -0 below +0 (R208). -/
def FV.leNum (a b : FV) : Bool :=
  match a.cmpNum b with
  | .lt => true
  | .gt => false
  | .eq => a.neg? || !b.neg?

/-- MIN and MAX: NaN when either is NaN (R207). -/
def FV.min (a b : FV) : FV := if a.isNan || b.isNan then .nan else if a.leNum b then a else b
def FV.max (a b : FV) : FV := if a.isNan || b.isNan then .nan else if a.leNum b then b else a
/-- MINNUM and MAXNUM: the number when one is NaN. -/
def FV.minNum (a b : FV) : FV := if a.isNan then b else if b.isNan then a else a.min b
def FV.maxNum (a b : FV) : FV := if a.isNan then b else if b.isNan then a else a.max b

/-- A quotient of naturals to `k` fractional bits, with the remainder folded into a sticky bit below them. -/
def divSticky (a b k : Nat) : Nat :=
  let n := a <<< k
  2 * (n / b) + (if n % b = 0 then 0 else 1)

/-- A value whose rounding to at most 53 bits is that of the exact quotient; IEEE special values (R126, R240). -/
def FV.div : FV → FV → FV
  | .nan, _ | _, .nan => .nan
  | .inf _, .inf _ => .nan
  | .inf a, .fin b _ _ => .inf (a != b)
  | .fin a _ _, .inf b => .fin (a != b) 0 0
  | .fin a m e, .fin b n k =>
    if n = 0 then (if m = 0 then .nan else .inf (a != b))
    else if m = 0 then .fin (a != b) 0 0
    else
      let s := 60 + bitLen n
      .fin (a != b) (divSticky m n s) (e - k - s - 1)

/-- Integer square root by bits, most significant first. -/
def isqrtGo (n : Nat) : Nat → Nat → Nat
  | 0, r => r
  | k + 1, r =>
    let c := r + 2 ^ k
    isqrtGo n k (if c * c ≤ n then c else r)

def isqrt (n : Nat) : Nat := isqrtGo n (bitLen n / 2 + 1) 0

/-- A value whose rounding to at most 53 bits is that of the exact square root; √-0 = -0, a negative operand gives NaN (R240). -/
def FV.sqrt : FV → FV
  | .nan => .nan
  | .inf neg => if neg then .nan else .inf false
  | .fin neg m e =>
    if m = 0 then .fin neg 0 0
    else if neg then .nan
    else
      let odd := e % 2 ≠ 0
      let m1 := if odd then 2 * m else m
      let e1 := if odd then e - 1 else e
      let n := m1 <<< 128
      let r := isqrt n
      .fin false (2 * r + (if r * r = n then 0 else 1)) (e1 / 2 - 64 - 1)

/-! Bits to bits in one format, rounded once by RNE (the plain IEEE operations). -/

def f32 (b : Nat) : FV := fp32.dec b
def fadd (a b : Nat) : Nat := fp32.rne ((f32 a).add (f32 b))
def fsub (a b : Nat) : Nat := fp32.rne ((f32 a).sub (f32 b))
def fmul (a b : Nat) : Nat := fp32.rne ((f32 a).mul (f32 b))
def ffma (a b c : Nat) : Nat := fp32.rne ((f32 a).fma (f32 b) (f32 c))
def fdiv (a b : Nat) : Nat := fp32.rne ((f32 a).div (f32 b))
def fsqrt (a : Nat) : Nat := fp32.rne (f32 a).sqrt
def fneg (a : Nat) : Nat := fp32.rne (f32 a).negate
/-- An integer rounded to FP32. -/
def fofInt (i : Int) : Nat := fp32.rne (.fin (i < 0) i.natAbs 0)

def f64 (b : Nat) : FV := fp64.dec b
def dadd (a b : Nat) : Nat := fp64.rne ((f64 a).add (f64 b))
def dmul (a b : Nat) : Nat := fp64.rne ((f64 a).mul (f64 b))
def dsqrt (a : Nat) : Nat := fp64.rne (f64 a).sqrt

/-- Value rounded to an integer by R132 and saturated to a signed width; NaN gives 0 (R130, R217). -/
def FV.toIntSat (md : Rnd) (w : Nat) : FV → Int
  | .nan => 0
  | .inf neg => if neg then -(2 ^ (w - 1) : Nat) else (2 ^ (w - 1) : Nat) - 1
  | .fin neg m e =>
    let a := if 0 ≤ e then m <<< e.toNat else shiftRound md m (-e).toNat
    if neg then (if a > 2 ^ (w - 1) then -(2 ^ (w - 1) : Nat) else -(a : Int))
    else (if a ≥ 2 ^ (w - 1) then (2 ^ (w - 1) : Nat) - 1 else a)

/-- Floor of log2 of a nonzero magnitude `m * 2^e`. -/
def floorLog2 (m : Nat) (e : Int) : Int := (m.log2 : Int) + e

/-! E8M0 (R123). -/

/-- Exponent of an E8M0 scale; 0xFF is NaN and is tested apart. -/
def scaleExp (x : Nat) : Int := (x : Int) - 127

/-! CBG-64 (R142 to R145). -/

def rotl64 (x : BitVec 64) (n : Nat) : BitVec 64 := x.rotateLeft n

def cbgRot : List Nat := [13, 29, 41, 7, 23, 53, 17, 37, 11, 47]

def cbgRounds (key : BitVec 64) : Nat → List Nat → BitVec 64 → BitVec 64 → BitVec 64 × BitVec 64
  | _, [], x0, x1 => (x0, x1)
  | r, n :: ns, x0, x1 =>
    let kr := key + BitVec.ofNat 64 (r + 1) * 0x9e3779b97f4a7c15#64
    let x0 := x0 + x1 + kr
    let x1 := rotl64 x1 n ^^^ x0
    cbgRounds key (r + 1) ns (rotl64 x0 32) x1

/-- The generator of R142. -/
def cbg64 (key c0 c1 : BitVec 64) : BitVec 64 :=
  let (x0, x1) := cbgRounds key 0 cbgRot c0 c1
  let y := x0 ^^^ x1
  let y := y ^^^ (y >>> 31)
  let y := y * 0xbf58476d1ce4e5b9#64
  y ^^^ (y >>> 29)

/-- The u16 that SR draws for an element (R143, R144). -/
def srDraw (seed : BitVec 64) (step domain : Nat) (idx : Nat) : Nat :=
  (cbg64 seed (BitVec.ofNat 64 (step % 2 ^ 40 + 2 ^ 40 * (domain % 256))) (BitVec.ofNat 64 (idx % 2 ^ 48))).toNat % 2 ^ 16

/-- SR from FP32 to BF16 (R145). -/
def srBf16 (b u : Nat) : Nat :=
  let s := if b.testBit 31 then 0x8000 else 0
  let m := b % 2 ^ 31
  if m > 0x7f800000 then 0x7fc0
  else if m = 0x7f800000 then 0x7f80 + s
  else
    let t := (m + u) >>> 16
    s + (if t = 0x7f80 then 0x7f7f else t)

/-! Block conversions (R135, R137). -/

/-- Element format and emax of an MX code 0x4 to 0x8 (R98, R135). -/
def mxElem : Nat → Fmt × Int
  | 4 => (e4m3, 8)
  | 5 => (e5m2, 15)
  | 6 => (e3m2, 4)
  | 7 => (e2m3, 2)
  | _ => (e2m1, 2)

def clampInt (x lo hi : Int) : Int := if x < lo then lo else if x > hi then hi else x

/-- The largest finite magnitude of a list as an exact dyadic. -/
def amaxOf (xs : List FV) : Dy :=
  xs.foldl (fun a x => match x with
    | .fin _ m e => if a.lt ⟨m, e⟩ then ⟨m, e⟩ else a
    | _ => a) Dy.zero

/-- 32 FP32 codes to an MX block: scale and element codes (R135). -/
def toMx (code : Nat) (md : Rnd) (xs : List Nat) : Nat × List Nat :=
  let (f, emax) := mxElem code
  let vs := xs.map f32
  if vs.any fun v => v.isNan || v.isInf then (0xff, xs.map fun _ => 0)
  else
    let am := amaxOf vs
    if am.m = 0 then (0, vs.map fun v => f.signBit v.neg?)
    else
      let e := floorLog2 am.m.natAbs am.e
      let sc := clampInt (e - emax + 127) 0 254
      (sc.toNat, vs.map fun v => match v with
        | .fin neg m k => f.encFin md .saturate neg m (k + 127 - sc)
        | _ => 0)

/-- Significand of a BS16 element `i` of magnitude m·2^k before it saturates (R137); `us` are the draws of SR. -/
def bs16Mag (md : Rnd) (us : Option (List Nat)) (sc : Int) (i m : Nat) (k : Int) : Nat :=
  let e := k + 14 - (sc - 127)
  match us with
  | some l =>
    let a := if 0 ≤ e + 16 then m <<< (e + 16).toNat else m >>> (-(e + 16)).toNat
    (a + l.getD i 0) >>> 16
  | none => if 0 ≤ e then m <<< e.toNat else shiftRound md m (-e).toNat

/-- 32 FP32 codes to a BS16 block: scale and significands (R137); `us` are the draws of SR, empty when the mode is not SR. -/
def toBs16 (md : Rnd) (us : Option (List Nat)) (xs : List Nat) : Nat × List Nat :=
  let vs := xs.map f32
  let am := amaxOf vs
  let sc : Int :=
    if am.m = 0 then 0
    else
      let e := clampInt (floorLog2 am.m.natAbs am.e) (-127) 127
      let k := am.e + 14 - e
      let chk := if 0 ≤ k then am.m.natAbs <<< k.toNat else shiftRound .rne am.m.natAbs (-k).toNat
      (if e < 127 && chk == 32768 then e + 1 else e) + 127
  let q (i : Nat) (v : FV) : Nat := match v with
    | .fin neg m k =>
      let mag := min (bs16Mag md us sc i m k) 32767
      if neg then (65536 - mag) % 65536 else mag
    | _ => 0x8000
  (sc.toNat, (vs.zipIdx.map fun p => q p.2 p.1))

/-- Value of a BS16 element (R136). -/
def bs16Val (scale q : Nat) : FV :=
  if scale = 0xff || q = 0x8000 then .nan
  else
    let i := sext 16 q
    .fin (i < 0) i.natAbs (scaleExp scale - 14)

/-- Value of an MX element of a block (R133). -/
def mxVal (code scale el : Nat) : FV :=
  if scale = 0xff then .nan
  else match (mxElem code).1.dec el with
    | .fin n m e => .fin n m (e + scaleExp scale)
    | v => v

end Sys2Proof.Machine
end

