-- ==== Sys2Proof/Machine/Accuracy.lean ====
section
/-!
DEFINITION. The exact values of the shipped functions, and the accuracy that R255 claims of their results. A real number is an `Int`
in units of 2^-320, wide enough for every FP32 input and for the smallest result that is not flushed (log 3).
-/
namespace Sys2Proof.Machine

/-- 1.0. -/
def fxOne : Int := ((2 ^ 320 : Nat) : Int)
def fxMul (a b : Int) : Int := a * b / fxOne
def fxDiv (a b : Int) : Int := a * fxOne / b
/-- The nearest integer to a quotient. -/
def nearest (a b : Int) : Int := (2 * a + b) / (2 * b)

/-- `n` terms of a series from term `k` on, which is `t`; `next` gives the term after one. -/
def sumTerms (next : Nat → Int → Int) : Nat → Nat → Int → Int
  | 0, _, _ => 0
  | n + 1, k, t => t + sumTerms next n (k + 1) (next k t)

/-- Inverse hyperbolic tangent for arguments of magnitude up to 1/3. -/
def fxAtanh (z : Int) : Int :=
  let q := fxMul z z
  sumTerms (fun k t => fxMul t q * (2 * k + 1) / (2 * k + 3)) 104 0 z
def fxLn2 : Int := 2 * fxAtanh (fxOne / 3)
/-- Inverse tangent of 1 / n. -/
def fxAtanInv (n : Int) : Int := sumTerms (fun k t => -(t / (n * n)) * (2 * k + 1) / (2 * k + 3)) 72 0 (fxOne / n)
def fxPi : Int := 16 * fxAtanInv 5 - 4 * fxAtanInv 239

def fxExp (x : Int) : Int :=
  let k := nearest x fxLn2
  let r := x - k * fxLn2
  let y := sumTerms (fun k t => fxMul t r / ((k : Int) + 1)) 72 0 fxOne
  if 0 ≤ k then y * ((2 ^ k.toNat : Nat) : Int) else y / ((2 ^ (-k).toNat : Nat) : Int)
/-- Natural logarithm of a positive number. -/
def fxLog (x : Int) : Int :=
  let n := x.toNat.log2
  let m : Int := if n ≤ 320 then x * ((2 ^ (320 - n) : Nat) : Int) else x / ((2 ^ (n - 320) : Nat) : Int)
  ((n : Int) - 320) * fxLn2 + 2 * fxAtanh (fxDiv (m - fxOne) (m + fxOne))
def fxSqrt (x : Int) : Int := (isqrt (x.toNat * 2 ^ 320) : Int)
/-- 1 / (1 + exp(-x)). -/
def fxSigmoid (x : Int) : Int :=
  let e := fxExp (-(x.natAbs : Int))
  if 0 ≤ x then fxDiv fxOne (fxOne + e) else fxDiv e (fxOne + e)
def fxTanh (x : Int) : Int :=
  let q := fxMul x x
  fxDiv (sumTerms (fun k t => fxMul t q / ((2 * (k : Int) + 2) * (2 * k + 3))) 80 0 x)
    (sumTerms (fun k t => fxMul t q / ((2 * (k : Int) + 1) * (2 * k + 2))) 80 0 fxOne)
/-- The error function of x / √2, for magnitudes of x up to 13.15. -/
def fxErfHalf (x : Int) : Int :=
  let q := fxMul x x
  let sum := sumTerms (fun k t => fxMul t q / (2 * (k : Int) + 3)) 480 0 fxOne
  fxMul (fxMul (fxSqrt (fxDiv (2 * fxOne) fxPi)) x) (fxMul (fxExp (-q / 2)) sum)
def fxSin (x : Int) : Int :=
  let k := nearest x fxPi
  let r := x - k * fxPi
  let q := fxMul r r
  let y := sumTerms (fun k t => -(fxMul t q / ((2 * (k : Int) + 2) * (2 * k + 3)))) 48 0 r
  if k % 2 = 0 then y else -y

/-- The exact value of a finite FP32 code. -/
def fxOf : FV → Option Int
  | .fin n m e => let a : Int := ((m * 2 ^ (e + 320).toNat : Nat) : Int); some (if n then -a else a)
  | _ => none

/-- The function that a shipped program computes, at a finite input (R254): the coefficient of GELU's tanh form is the family's (log 3). -/
def exactFn (p : Nat) (x : Int) : Option Int :=
  match p with
  | 0 => some (fxExp x)
  | 10 => some (fxExp (fxMul x fxLn2))
  | 19 => some (fxLog x)
  | 31 => some (fxDiv (fxLog x) fxLn2)
  | 43 => some (fxDiv fxOne x)
  | 50 => some (fxSqrt (fxDiv fxOne x))
  | 59 => some (fxSqrt x)
  | 64 => some (fxTanh x)
  | 76 => some (fxSigmoid x)
  | 87 => some (fxErfHalf (fxMul x (fxSqrt (2 * fxOne))))
  | 101 => some (fxMul x (fxOne + fxErfHalf x) / 2)
  | 116 =>
    let u := fxMul (fxSqrt (fxDiv (2 * fxOne) fxPi)) (x + fxMul (fxMul x x) x * 44715 / 1000000)
    some (fxMul x (fxSigmoid (2 * u)))
  | 131 => some (fxMul x (fxSigmoid x))
  | 143 =>
    let e := fxExp (-(x.natAbs : Int))
    some (max x 0 + 2 * fxAtanh (fxDiv e (2 * fxOne + e)))
  | 156 => some (fxSin x)
  | 168 => some (fxSin (x + fxPi / 2))
  | _ => none

/-- The bound B of R254. -/
def accuracyOf (p : Nat) : Int := if p < 64 then 1 else if p = 101 || p = 116 then 3 else 2
/-- The largest difference from exact value `y` at input `x` (R255). -/
def tolerance (p : Nat) (x y : Int) : Int :=
  if (p = 156 || p = 168) && 65536 * fxOne ≤ (x.natAbs : Int) then fxOne / 4096
  else accuracyOf p * (((2 ^ y.natAbs.log2 : Nat) : Int) / 8388608)

/-- The result that the factory words give, held to R255: it stands when it lies within the bound of the exact value, or when it is
flushed and the exact value is too; else the nearest FP32 value does (log 3). -/
def confine (p b raw : Nat) : Nat :=
  match fxOf (f32 b) with
  | none => raw
  | some x => match exactFn p x with
    | none => raw
    | some y =>
      let tol := tolerance p x y
      let near := fp32.rne (.fin (y < 0) y.natAbs (-320))
      match fxOf (f32 raw) with
      | some z =>
        let flush := z != 0 && raw % 2 ^ 31 < 0x00800000 && (y < 0) == (z < 0) && (y.natAbs : Int) < fxOne / ((2 ^ 126 : Nat) : Int) + tol
        if ((z - y).natAbs : Int) ≤ tol || flush then raw else near
      | none => near

end Sys2Proof.Machine
end

