-- ==== Sys2Proof/Machine/State.lean ====
section
/-!
DEFINITION. The state of the E64 as plain data, the reasons a step may stop, and the state right after reset. Registers of the
CSR window live in `csr` under their single-mode address bits [37:0] (R8), at the reset value of their table until written;
what the spec gives a unit beside its registers lives in the unit's record. Unlisted units hold the record's defaults.
-/
namespace Sys2Proof.Machine

/-- Sparse data by number, keys rising. -/
abbrev NMap (β : Type) := List (Nat × β)

/-- What the module sends out or reports (to the manager, to an operator, on a port), oldest first in `State.out`. -/
inductive MsgKind where
  /-- Deadline fault report (R54): unit, segment, step. -/
  | deadlineFault
  /-- Descriptor fault, descriptor-deadline fault (R442, R394, R49): cause. -/
  | descriptorFault
  | descriptorDeadline
  /-- Step-skew fault (R361). -/
  | stepSkew
  /-- Non-finite step event (R378). -/
  | nonFiniteStep
  /-- Tab outcome: LOADED, or refused with a code (R37, R41). -/
  | tabLoaded
  | tabRefused
  | ack
  /-- The manager's discard and job start to every module (R39). -/
  | discardTab
  | startJob
  /-- Reply to a management request (R577): status, detail, values. -/
  | reply
  /-- Completion of a broadcast write (R581). -/
  | completion
  /-- Value of a CSR read by firmware. -/
  | csrValue
  /-- Port-fence, timebase, envelope, thermal, critical-state, beyond-module faults. -/
  | portFence
  | timebaseFault
  | envelopeFault
  | thermalFault
  | criticalFault
  | beyondModule
  /-- A unit is failed under R467: it is to be absorbed. -/
  | unitFailed
  | warning
  /-- Service message (R476). -/
  | service
  /-- Commit report, commit notice, step digest, heartbeat, descriptor, new term, stop request, run again, restore, move of a position. -/
  | commitReport
  | commitNotice
  | commitIdentity
  /-- The manager's copy to the standby every step: role table and the step's digests (R439). -/
  | standbyCopy
  | commitAck
  | manifest
  | stepDigest
  | heartbeat
  | descriptor
  | newTerm
  | stopJob
  | stopStep
  | rerunStep
  | retrainPort
  | restartJob
  | restoreFrom
  | restoreRefused
  | movePosition
  | linkPath
  | suspect
  | notComparable
  | noModuleMarked
  /-- A flit or message on a port. -/
  | dataFlit
  | controlFlit
  | idleFlit
  /-- Identity that an end of a port sends at CHECK: module number, hub, port (R432). -/
  | identity
  | redMessage
  | normMessage
  | paramMessage
  | sessionReply
  | recoveryReply
  deriving DecidableEq, Repr

structure Msg where
  kind : MsgKind
  data : List Nat
  deriving DecidableEq, Repr

/-- Destination of a pending result (R87): a scalar register, a vector register, CORE_SCARRY in a segment, or bytes of local store. -/
inductive Dst where
  | s (n : Nat)
  | v (n : Nat)
  | carry (seg : Nat)
  /-- The second unit of a two-unit MWLD, read in the cycle after its issue (R151). -/
  | wide (addr : Nat)
  | store (addr width : Nat)
  /-- The class-1 fault of a special-function program: index of its VSFN bundle (R86, R245). -/
  | fault (idx : Nat)
  deriving DecidableEq, Repr

/-- A result issued and not yet written: written at the end of cycle `due`. -/
structure Result where
  due : Nat
  slot : Nat
  dst : Dst
  val : Vec
  poison : Bool
  /-- Issued in the open elastic region. -/
  rgn : Bool
  deriving DecidableEq, Repr

/-- An open counted loop (R94): body from `first` to `last`, iterations left after the current one. -/
structure LoopRec where
  first : BitVec 9
  last : BitVec 9
  left : Nat
  deriving DecidableEq, Repr

/-- An open elastic region (R57 to R60). -/
structure Region where
  deadline : Nat
  cyc : Nat
  tb : Nat
  closed : Bool
  bad : Bool
  /-- Registers and memory units written in the region: its results (R59). -/
  regs : List Nat := []
  mem : List Nat := []
  deriving DecidableEq, Repr

/-- Why a core does not issue (R89, R115, R117). -/
inductive Hold where
  | none
  | waitu (target : Nat)
  | segend
  /-- ECLOSE issued: the next bundle issues in the cycle after the deadline (R114). -/
  | closed (next : Nat)
  | gwait (stream : Nat)
  | cache
  | halted
  deriving DecidableEq, Repr

/-- A weight tile with its format code (R151). -/
structure Tile where
  fmt : Nat
  wide : Bool
  bits : BitVec 1024
  bad : Bool
  deriving DecidableEq, Repr

/-- A gather stream (R332, R333): parameters and the next line to request. -/
structure GStream where
  u16idx : Bool
  rowl : Nat
  table : Nat
  stride : Nat
  rows : Nat
  idx : Nat
  dst : Nat
  count : Nat
  next : Nat
  landed : Nat
  deriving DecidableEq, Repr

/-- An LDC or STC that waits on L1 (R320, R322). -/
structure CacheWait where
  load : Bool
  /-- Module-physical line. -/
  line : Nat
  addr : Nat
  reg : Nat
  data : Vec
  poison : Bool
  /-- A load whose line is there. -/
  ready : Bool
  deriving DecidableEq, Repr

/-- An outstanding gather line (R333, R612): stream and line number, the line it reads by its module-physical address and by its storage,
and its data once read. -/
structure GReq where
  stream : Nat
  num : Nat
  line : Nat
  key : Nat
  ready : Bool
  data : Vec
  poison : Bool
  deriving DecidableEq, Repr

/-- A miss register in use (R326): a line by its module-physical address and by its storage, and who waits: core `n` for an LDC, 64 for a
prefetch of the partition, 128 + `n` for a gather line, 192 + `n` for a prefetch of an L1. -/
structure MissReg where
  line : Nat
  key : Nat
  who : Nat
  deriving DecidableEq, Repr

/-- A translation-cache entry: virtual page base, size, and the table entry (R309, R311). -/
structure Tlb where
  base : Nat
  size : Nat
  entry : Word64
  deriving DecidableEq, Repr

/-- A line that waits in the landing queue (R313). -/
structure LandLine where
  /-- Core cycle of its arrival. -/
  came : Nat
  line : Nat
  data : Vec
  deadline : Nat
  poison : Bool
  deriving DecidableEq, Repr

/-- One core (R83) beside its registers in the CSR window. -/
structure CoreState where
  sregs : NMap Word64 := []
  vregs : NMap Vec := []
  accs : NMap Vec := []
  /-- Poisoned registers (R610): s as 0-31, v as 64-127, a as 128-191. -/
  bad : List Nat := []
  tb : NMap Bundle := []
  valid0 : Bool := false
  valid1 : Bool := false
  fill0 : Option Nat := none
  fill1 : Option Nat := none
  nextIdx : BitVec 9 := 0
  lastIdx : BitVec 9 := 0
  lastCycle : Option Nat := none
  /-- The bundle that issues in `lastCycle`, and the slots of it that were commanded. -/
  cur : Option Bundle := none
  done : List Nat := []
  branch : Option (BitVec 9) := none
  loops : List LoopRec := []
  hold : Hold := .none
  running : Bool := false
  region : Option Region := none
  results : List Result := []
  active : Option Tile := none
  staged : Option (Nat × Tile) := none
  scales : BitVec 32 := 0x7f7f7f7f#32
  scalesBad : Bool := false
  stagedScales : Option (Nat × BitVec 32 × Bool) := none
  lastLoad : Option Nat := none
  lastWide : Option Nat := none
  /-- Mask words loaded, latest first: cycle, word, poison (R169). -/
  masks : List (Nat × BitVec 17 × Bool) := []
  /-- The vector slot of the next bundle must hold VNOP (R103). -/
  vnopNext : Bool := false
  /-- PARK issued in this segment and no later operation (R109). -/
  parked : Bool := false
  /-- Running program: program bank, seed bank, cycle at whose end its results are written (R246). -/
  sfs : Option (Nat × Nat × Nat) := none
  /-- Program and seed words loaded by software: store * 512 + bank * 256 + word (R247); every other word is the factory's. -/
  sfsWords : NMap (BitVec 32) := []
  /-- Descriptors in flight, each with whether its segment has ended with it in flight, so that it is late (R51). -/
  descs : List (BitVec 1536 × Bool) := []
  streams : NMap GStream := []
  greqs : List GReq := []
  grot : Nat := 0
  l1 : NMap (List (Nat × Vec)) := []
  wait : Option CacheWait := none
  /-- Run-ahead of L1: requested line of its last demand miss, and pairs of adjacent misses (R329). -/
  lastMiss : Option Nat := none
  runAhead : List (Nat × Bool) := []
  landQ : List LandLine := []
  /-- First core cycle in which the landing queue may drain its next line (R313). -/
  landFrom : Nat := 0
  /-- Pending marks: line and deadline cycle of the segment (R313). -/
  marks : NMap Nat := []
  /-- Lines poisoned by a landing collision (R314). -/
  lineBad : List Nat := []
  tlb : List Tlb := []
  faulted : Bool := false
  descFaulted : Bool := false
  /-- Registers and local-store words written in the segment: the outputs a halt poisons (R117). -/
  touched : List Nat := []
  touchedMem : List Nat := []
  deriving DecidableEq, Repr

/-- What one core's MSTEP latched in its issue cycle (R167). -/
structure MVote where
  core : Nat
  tile : Nat
  fmt : Nat
  t : Bool
  z : Bool
  m : Bool
  feed : Vec
  feedBad : Bool
  active : Option Tile
  scales : BitVec 32
  scalesBad : Bool
  mask : BitVec 17
  maskBad : Bool
  deriving DecidableEq, Repr

/-- An array step between its issue and its write (R167): rotation count, mode, what the cores latched (core 0 first), the
accumulator tiles the receiving cores named with their poison once read at the start of cycle c + 4 (R168), by core. -/
structure StepRec where
  issue : Nat
  rot : Nat
  mode : Nat
  feed : Nat
  votes : List MVote
  fault : Bool
  /-- Cores that halted with the step in flight: what it writes in them is poisoned (R117). -/
  bad : List Nat
  partials : Option (NMap (Vec × Bool))
  deriving DecidableEq, Repr

/-- What one core contributes to a ring operation (R225). -/
structure RVote where
  core : Nat
  op : Nat
  func : Nat
  ty : Nat
  vd : Nat
  late : Nat
  va : Vec
  vb : Vec
  poison : Bool
  carry : BitVec 32
  deriving DecidableEq, Repr

/-- Where a bench stands between power states (R489). -/
inductive Transit where
  | none
  | entering (target : Nat)
  | waking
  deriving DecidableEq, Repr

/-- A value held at a node of a bucket's tree (R404): sparse entries or dense, in element order. -/
structure RedVal where
  bucket : Nat
  lo : Nat
  hi : Nat
  sparse : Bool
  elems : List (Nat × Nat)
  poison : Bool
  deriving DecidableEq, Repr

/-- What a range of scratch held before a pass wrote it: offset, bytes, poisoned units. -/
structure OldRange where
  off : Nat
  bytes : List Byte
  bad : List Nat
  deriving DecidableEq, Repr

/-- A dresser pass that runs (R355): code, core cycle at which its DEADLINE cycle ends, step, what it writes (scratch offset and length), and
of an apply pass the blocks that it writes, in order, as they stood before (R318, R359). -/
structure PassRec where
  pass : Nat
  deadline : Nat
  step : Nat
  outs : List (Nat × Nat)
  blocks : List (List OldRange) := []
  deriving DecidableEq, Repr

/-- One bench beside its registers. -/
structure BenchState where
  power : Nat := 0
  transit : Transit := .none
  wokenBy : Option Bool := none
  /-- Core cycle in which the wake in progress was asked for (R493). -/
  wakeFrom : Nat := 0
  /-- What the last wake of this segment added to CYC (R492). -/
  cycAdj : Int := 0
  /-- Fabric cycle of the last pluck that met the bench in RUN (R489). -/
  lastPluck : Option Nat := none
  mvotes : List MVote := []
  mcycle : Nat := 0
  steps : List StepRec := []
  rvotes : List RVote := []
  rcycle : Nat := 0
  ringHeld : Nat := 0
  arrFaulted : Bool := false
  ringFaulted : Bool := false
  redFaulted : Bool := false
  drsFaulted : Bool := false
  pwrFaulted : Bool := false
  /-- Cache partition: set and ways, most recent first: line number and data (R316). -/
  part : NMap (List (Nat × Vec)) := []
  missRegs : List MissReg := []
  tlb : List Tlb := []
  /-- Requested line of the last demand miss, and the pairs of adjacent misses that may start a run-ahead: line and direction (R329). -/
  lastMiss : Option Nat := none
  runAhead : List (Nat × Bool) := []
  pass : Option PassRec := none
  /-- Start of the segment in which the last pass started. -/
  passSeg : Option Nat := none
  /-- Step and NOUT_OFF of the last norm pass (R408). -/
  normOut : Option (Nat × Nat) := none
  /-- Schedule banks that lost a write of their load (R318). -/
  schedBad : List Nat := []
  /-- Schedule-bank load in progress: bank, source, whether a write was lost (R371, R318). -/
  schedLoad : Option (Nat × Nat × Bool) := none
  nodes : List RedVal := []
  deriving DecidableEq, Repr

/-- One compute die beside its registers. -/
structure DieState where
  fenced : Bool := false
  /-- Core cycles by which the die's cores lag the timebase in this segment, and the last stretch (R499). -/
  lag : Nat := 0
  lastStretch : Option Nat := none
  missedPolls : NMap Nat := []
  failedBenches : List Nat := []
  /-- The spare bench that took over from a failed one (R471). -/
  replacedBy : NMap Nat := []
  /-- A domain reset in progress: target (R498). -/
  domReset : Option Nat := none
  spareUnfit : List Nat := []
  /-- Plucks issued and not arrived: physical benches (R106). -/
  plucks : List Nat := []
  deriving DecidableEq, Repr

/-- A running copy engine (R335, R337): descriptor, requests still to issue (channel, 400 for none), requests in flight. -/
structure Engine where
  desc : BitVec 1536
  todo : List Nat
  inflight : Nat
  /-- Its segment has ended with it running, so that it is late (R51). -/
  late : Bool
  deriving DecidableEq, Repr

/-- One hub beside its registers. -/
structure HubState where
  engines : NMap Engine := []
  /-- Tags held: tag, engine (R337). -/
  tags : NMap Nat := []
  copyFaulted : Bool := false
  dramFaulted : Bool := false
  haulFaulted : Bool := false
  /-- Refresh debt of local channel * 2 + sub-channel (R345). -/
  debt : NMap Int := []
  /-- Core cycle of each local channel's last start (R336). -/
  lastStart : NMap Nat := []
  /-- Queued misses of a channel, oldest first: die, bench, line (R326). -/
  misses : NMap (List (Nat × Nat × Nat)) := []
  /-- Retirements whose copy is done: local channel * 8 + entry (R522, R523). -/
  retired : List Nat := []
  /-- Last complete lap of each channel's scrubber in seconds (R530). -/
  laps : NMap Nat := []
  /-- Running haul descriptor, and the link entries whose haul descriptors have started in the step (R452). -/
  haul : Option (BitVec 512) := none
  haulLinks : List Nat := []
  /-- Step whose commit fence was judged, and whether it stopped the hub (R461); vault epoch skipped last (R456). -/
  fence : Option (Nat × Bool) := none
  skipped : Option Nat := none
  tlb : List Tlb := []
  selfRefresh : Bool := false
  deriving DecidableEq, Repr

/-- Progress of a transfer at a port (R421, R412): flits, bytes, bucket and bytes of the message still to hash. -/
structure XferProg where
  flits : Nat
  bytes : Nat
  bucket : Nat
  left : Nat
  deriving DecidableEq, Repr

/-- One Asvex port beside its registers (R420 to R433). -/
structure PortState where
  /-- Flits sent since link-up, of every type (R422). -/
  flits : Nat := 0
  /-- Data flits sent and the last CRED seen, by VC (R424). -/
  sent : NMap Nat := []
  credSeen : NMap Nat := []
  /-- Flits not acknowledged, and those resent once: VC and SEQ (R425, R427). -/
  replay : List Flit := []
  resent : List (Nat × Nat) := []
  /-- SEQ expected, flits held in the receive buffer, flits freed, and SEQ whose resend is asked, by VC (R424, R426). -/
  expect : NMap Nat := []
  buffered : NMap Nat := []
  freed : NMap Nat := []
  nak : NMap Nat := []
  /-- Retries failed in the step (R433). -/
  retryFails : Nat := 0
  /-- A lost lane that the spare is to replace, and whether a segment boundary has come since (R433). -/
  sparePending : Option Nat := none
  spareDue : Bool := false
  /-- Core cycle at which training started. -/
  trainSince : Nat := 0
  /-- The first fault of the segment is recorded (R447). -/
  faulted : Bool := false
  /-- Transfers under way, by XFER: out and in. -/
  outXfer : NMap XferProg := []
  inXfer : NMap XferProg := []
  /-- Flits sent in the control slots of the link slot table, by entry (R423). -/
  ctrlUsed : NMap Nat := []
  /-- Flits that wait to leave by this port (R429, R440): arrival port and flit. -/
  onward : List (Nat × Flit) := []
  /-- Hashes of the step by bucket (R412). -/
  sentHash : NMap Word64 := []
  recvHash : NMap Word64 := []
  /-- The exchange of timestamps with the other end so far: t1, t2, and at the parent's end t3 and t4 (R444). -/
  ts : List Nat := []
  deriving DecidableEq, Repr

/-- The tab images a module holds (R41, R42). -/
structure TabState where
  loaded : Option TabImage := none
  earlier : Option TabImage := none
  received : Option TabImage := none
  prev : Nat := 0
  pos : Nat := 0
  /-- Job position and count of positions of the load in progress (R35, R37), and position of the earlier tab. -/
  rxPos : Nat := 0
  rxPositions : Nat := 0
  earlierPos : Nat := 0
  /-- Timebase, in ns, of the last data of a load (R41). -/
  rxSince : Nat := 0
  /-- The tab was newly checked and no job has started under it (R42). -/
  newly : Bool := false
  /-- Takeover variant in force, 0 for the job as started (R35, R478). -/
  variant : Nat := 0
  /-- The module booted with its second package lost: every load is refused with 0x06 (R549). -/
  refuseAll : Bool := false
  deriving DecidableEq, Repr

/-- The job's place in its step (R46, R49, R442). -/
structure JobState where
  cur : Option StepDesc := none
  next : Option StepDesc := none
  last : Option StepDesc := none
  inStep : Bool := false
  /-- `cur` has run and no descriptor has become current since. -/
  stepDone : Bool := false
  /-- No segment of the job has started (R248). -/
  fresh : Bool := true
  seg : Nat := 0
  segStart : Nat := 0
  /-- The step or the job is to be abandoned at the next segment boundary (R41, R56). -/
  abandon : Bool := false
  /-- The job stops for a thermal fault: its benches are then held in SLEEP (R503). -/
  thermal : Bool := false
  applyStarted : Bool := false
  /-- Step of the last apply pass that a dresser of this module started, in a run that no other has replaced (R360). -/
  lastApply : Option Nat := none
  /-- Step whose descriptor did not come in time, so that it is not started (R49). -/
  missed : Option Nat := none
  /-- Step that was stopped last, to be run again (R56, R364). -/
  stoppedStep : Option Nat := none
  /-- Inbound link entries of the step whose deadline came before their last byte (R51, R427). -/
  lateIn : List Nat := []
  /-- An epoch was restored while no job ran: the next job start resumes from it (R363, R465). -/
  restored : Bool := false
  routeWant : Option Nat := none
  route : Nat := 0
  windows : List Nat := []
  /-- Maintenance requests queued to a window: entry, its begin in ns, unit codes still to serve, class (R78). -/
  queued : List (Nat × Nat × List Nat × Nat) := []
  /-- Steps whose inputs stay in LPDDR6 (R32). -/
  heldInputs : List Nat := []
  /-- Hubs that have written their digest records of the step (R413). -/
  digested : List Nat := []
  /-- Rows of R459 completed for the step, and whether this module has acknowledged as the buddy. -/
  commitRow : Nat := 0
  buddyDone : Bool := false
  /-- Norm records held at this module's nodes (R409): leaves covered, NG and the UN and WN of the groups as FP64 codes, poison. -/
  normNodes : List (Nat × Nat × List Nat × Bool) := []
  pluckFired : List Nat := []
  deriving DecidableEq, Repr

/-- The loader of the host cores (R67 to R70). -/
structure LoaderState where
  held : List Sample := []
  oversize : Nat := 0
  cursor : Nat := 0
  /-- Loader position, and the samples held back, at the start of packing a step (R69, R457). -/
  marks : NMap (Nat × List Sample) := []
  /-- Placements of the last packing: sample, bucket, slot, token offset. -/
  placed : List (Nat × Nat × Nat × Nat) := []
  /-- Attention spans carried across a split in that packing: sample, bucket, its two slots (R67, R619). -/
  spans : List (Nat × Nat × Nat × Nat) := []
  step : Nat := 0
  deriving DecidableEq, Repr

/-- What the manager holds (R439), used when MGT_ROLE.ROLE is manager. -/
structure MgrState where
  /-- Job position and module number. -/
  roles : List (Nat × Nat) := []
  spares : List (Nat × Nat) := []
  /-- Outcomes of the load in progress: job position and the TAB_ID it reports LOADED for, none for a refusal (R39). -/
  loads : List (Nat × Option (BitVec 256)) := []
  /-- Faults received: step, unit, run of the step, and 1 when a restore was ordered (R56, R360). -/
  faults : List (Nat × Nat × Nat × Nat) := []
  /-- Runs of a step ordered after its first (R56). -/
  runs : NMap Nat := []
  stopping : List Nat := []
  lastSent : Option StepDesc := none
  descLog : List StepDesc := []
  /-- Commit reports: epoch and position. -/
  reports : List (Nat × Nat) := []
  committed : Option Nat := none
  /-- Step digests of the last 64 steps: step, position, digest; first run and replay (R414). -/
  archive : List (Nat × Nat × Nat) := []
  replayArchive : List (Nat × Nat × Nat) := []
  heartbeats : Nat := 0
  /-- Core cycle before which the manager sends no further heartbeat (R439). -/
  hbNext : Nat := 0
  /-- Ports whose retrain the manager asked for: job position or module, port, core cycle of the request (R434). -/
  retrains : List (Nat × Nat × Nat) := []
  silenced : Bool := false
  deriving DecidableEq, Repr

/-- What one vault slot holds (R456, R457, R465): epoch, manifest, regions with their bytes, the record copies, and the descriptor log. -/
structure VaultSlot where
  epoch : Nat
  manifest : List Byte
  regions : List (Nat × List Byte)
  records : List (List Byte)
  log : List StepDesc
  deriving DecidableEq, Repr

/-- An open or opening management session (R556, R576). -/
structure Session where
  md : Nat
  id : Nat
  transcript : List Byte
  secret : List Byte
  opened : Bool
  rxKey : List Byte
  txKey : List Byte
  perms : BitVec 16
  highest : Option Nat
  answered : List (Nat × Msg)
  requests : Nat
  lastUse : Nat
  /-- Entries of the flash partition that this session's LOG_READs returned from its start on (R570). -/
  logReadTo : Option Nat
  deriving DecidableEq, Repr

/-- A log entry (R568). -/
structure LogRec where
  time : Nat
  seq : Nat
  md : Nat
  severity : Nat
  pinned : Bool
  code : Nat
  step : Nat
  loc : Nat
  data : Nat
  deriving DecidableEq, Repr

/-- The record block in force (R536): what its body holds. -/
structure RecordBody where
  vendorKey : List Byte := []
  delegation : Option Delegation := none
  active : Nat := 0
  pending : Nat := 0xff
  tried : Nat := 0
  minSvn : BitVec 32 := 0
  minDseq : BitVec 32 := 0
  /-- Spare records: failed stack; benches (die, k, logical); service bits; retired package. -/
  failedStack : Option Nat := none
  spareBenches : List (Nat × Nat × Nat) := []
  service : BitVec 4 := 0
  retiredPkg : Nat := 0x7f
  /-- Row-remap entries: die, macro, entry, row; page-retire entries: hub, channel, k, block. -/
  repairs : List (Nat × Nat × Nat × Nat) := []
  retires : List (Nat × Nat × Nat × Nat) := []
  deriving DecidableEq, Repr

/-- One copy of the record block (R536, R537). -/
structure RecordCopy where
  magicOk : Bool := true
  tagOk : Bool := true
  seq : Nat := 0
  body : RecordBody := {}
  deriving DecidableEq, Repr

/-- The xSPI flash (R535). -/
structure FlashState where
  copies : List RecordCopy := [{}, {}, {}]
  slots : List (Option ImageSlot) := [none, none]
  log : List LogRec := []
  deriving DecidableEq, Repr

/-- Boot and security beside the SEC_ registers (R541, R546, R550). -/
structure SecState where
  record : RecordBody := {}
  bootedSlot : Option Nat := none
  imageHash : Nat := 0
  held : Bool := false
  bootPending : Bool := false
  /-- The factory special-function images stand in the cores (R249). -/
  sfsLoaded : Bool := false
  /-- Row-remap entries that have taken effect: die, macro, entry, row (R519). -/
  loadedRepairs : List (Nat × Nat × Nat × Nat) := []
  runMeas : List Byte := []
  meas : List Byte := []
  /-- Image upload that waits for its verification (R553): its request and slot. -/
  upload : Option (Rq × Nat) := none
  /-- Attestations answered by a die in its current second: second, count (R551). -/
  attests : NMap (Nat × Nat) := []
  draws : Nat := 0
  deriving DecidableEq, Repr

/-- The management subsystem beside its registers (R559 to R577). -/
structure MgtState where
  sessions : List Session := []
  ring : List LogRec := []
  nextSeq : NMap Nat := []
  /-- Readings: kind * 16384 + die * 256 + index; value, valid, time of the sweep (R565). -/
  sensors : NMap (BitVec 16 × Bool × Nat) := []
  i3cMisses : NMap Nat := []
  wdogKicked : NMap Nat := []
  wdogExpired : NMap Nat := []
  ctrlRestart : NMap Nat := []
  hostRestarts : List (Nat × Nat) := []
  hostDown : List Nat := []
  drivesOut : List Nat := []
  /-- Broadcast writes accepted and not complete, oldest first: origin, address, instances that discarded (R581, R582). -/
  broadcasts : List (Origin × Nat × Nat) := []
  /-- Windows above 24 kW in the last millisecond, and their excess by stack (R74, R501). -/
  overs : List Nat := []
  excess : NMap Nat := []
  envRaised : Bool := false
  /-- End of the last measurement window, in ns of the timebase (R501). -/
  windowEnd : Nat := 0
  /-- Epoch in the staging area and epoch whose drain runs (R456). -/
  staged : Option Nat := none
  /-- Regions that stand in the staging area: number, address there, bytes; and the SEED_EPOCH of their step (R456, R457). -/
  stagedRegions : List (Nat × Nat × Nat) := []
  stagedSeed : Nat := 0
  /-- Digest tables of the last 64 steps (R413, R414): step, then port, bucket, sent and received hash. -/
  digests : List (Nat × List (Nat × Nat × Word64 × Word64)) := []
  draining : Option Nat := none
  exporting : Option Nat := none
  /-- The vault slots on the NVMe drives. -/
  vault : NMap VaultSlot := []
  /-- Absorptions under way: unit (die * 256 + bench, 0xf0 for the stack), last order done (R468, R475). -/
  absorbing : NMap Nat := []
  /-- Core cycle of the last heartbeat seen (R443), last measured offset in 1/16 ns (R444). -/
  lastHb : Nat := 0
  tbOff : Int := 0
  /-- Core cycle since which no port to the parent is UP (R446). -/
  tbHold : Option Nat := none
  deriving DecidableEq, Repr

/-- Supplies, resets and outputs (R594 to R597). -/
structure Pins where
  vaon : Bool := true
  vin48 : Bool := true
  pwrok : Bool := true
  porstL : Bool := true
  wrstL : Bool := true
  refClk : Bool := true
  railsUp : Bool := true
  svcReq : Bool := false
  thermTrip : Bool := false
  deriving DecidableEq, Repr

/-- The fabric cycle in progress: the registers as they stood at its start, those that MD1 has written in it, those that software has, and the
run measurement before a tab's extension in it (R14, R518, R528, R552, R583) (log 56). -/
structure CycleRec where
  csr : NMap Word64 := []
  ctr : NMap Word64 := []
  writes : List Nat := []
  soft : List Nat := []
  measWas : Option (List Byte) := none
  deriving DecidableEq, Repr

/-- The whole machine. -/
structure State where
  /-- Commands that wait, first in, first out. -/
  pending : List Instr := []
  /-- Core cycles (0.25 ns) since reset, and the timebase's distance from it in quarter ns (R12, R444). -/
  now : Nat := 0
  tbBase : Int := 0
  lastSync : Nat := 0
  /-- The model's own counter of free values drawn. -/
  draws : Nat := 0
  csr : NMap Word64 := []
  /-- Event counters EVSEL, EVCNT, EVSNAP (R586 to R590), under the same keys. -/
  ctr : NMap Word64 := []
  cycle : CycleRec := {}
  /-- Memory (R304) in canonical form. Keys have the form of R304 with PHYSICAL die and bench numbers in the windows of scratch and
  local stores, so a spare substitution moves no byte; logical addresses are mapped at each access. -/
  mem : List Host.Cell := []
  /-- Poisoned units (R610): base address of the 8-byte word or 32-byte LPDDR6 codeword, rising. -/
  poison : List Nat := []
  /-- Stored errors: the bits by which a stored codeword differs from its code (R509, R527). -/
  errs : List (StoreRef × Nat × BitVec 288) := []
  /-- Words, and symbols of LPDDR6 codewords, whose last correctable error was written back in this lap (R515). -/
  seenCe : List (StoreRef × Nat) := []
  /-- Locations where an uncorrectable error was found, and whether they were written whole since (R515). -/
  seenUe : List (StoreRef × Nat × Bool) := []
  /-- Write-backs that reads have queued, oldest first (R512). -/
  writeBacks : List (StoreRef × Nat) := []
  /-- First word of the lap that each scrubber has not passed (R524). -/
  scrubPos : List (StoreRef × Nat) := []
  cores : NMap CoreState := []
  benches : NMap BenchState := []
  dies : NMap DieState := []
  hubs : NMap HubState := []
  ports : NMap PortState := []
  tab : TabState := {}
  job : JobState := {}
  loader : LoaderState := {}
  mgr : MgrState := {}
  mgt : MgtState := {}
  sec : SecState := {}
  flash : FlashState := {}
  pins : Pins := {}
  out : List Msg := []
  deriving DecidableEq, Repr

/-- A step of this model never faults: every fault of the spec is a record in a register and a report (R54, R117). -/
inductive Fault where
  /-- No command raises it; kept because the interface asks for a type of faults. Safe. -/
  | none
  deriving DecidableEq, Repr

/-- Why a command has no meaning. -/
inductive Refusal where
  /-- A command not modelled, by its row's mnemonic; raised only by an arm of `exec`. Safe: a run stops. -/
  | notModelled (mnemonic : String)
  deriving DecidableEq, Repr

/-- The machine right after the release of reset, before BOOT: every register at the reset value its table gives (a key absent
from `csr`), no unit record listed, memory with nothing listed, an empty queue. -/
def State.reset : State := {}

end Sys2Proof.Machine
end

