-- ==== Sys2Proof/Machine/Maps.lean ====
section
/-!
DEFINITION. Sparse maps by number, and memory in its canonical form: addresses strictly rising, no byte equal to what an
unlisted address reads as, which is zero (log 1).
-/
namespace Sys2Proof.Machine

def nget? {β : Type} : NMap β → Nat → Option β
  | [], _ => none
  | (k, v) :: m, i => if i = k then some v else if i < k then none else nget? m i

def nget {β : Type} (m : NMap β) (i : Nat) (d : β) : β := (nget? m i).getD d

def nset {β : Type} : NMap β → Nat → β → NMap β
  | [], i, x => [(i, x)]
  | (k, v) :: m, i, x =>
    if i < k then (i, x) :: (k, v) :: m
    else if i = k then (k, x) :: m
    else (k, v) :: nset m i x

def nerase {β : Type} : NMap β → Nat → NMap β
  | [], _ => []
  | (k, v) :: m, i => if i = k then m else if i < k then (k, v) :: m else (k, v) :: nerase m i

/-- Updates the entries of a rising list of keys, with a datum each, in one pass. -/
def nover {α β : Type} (d : β) (f : α → β → β) : List (Nat × α) → NMap β → NMap β
  | [], m => m
  | (k, a) :: ks, m =>
    let r := m.span fun e => e.1 < k
    match r.2 with
    | (k', v) :: t => if k' = k then r.1 ++ (k, f a v) :: nover d f ks t else r.1 ++ (k, f a d) :: nover d f ks ((k', v) :: t)
    | [] => r.1 ++ (k, f a d) :: nover d f ks []

/-- What an address nothing has written reads as: the spec gives no contents (log 1, DESIGN CHOICE). -/
def memDefault : Byte := 0

def memGet : List Host.Cell → Nat → Byte
  | [], _ => memDefault
  | (k, v) :: m, a => if a = k then v else if a < k then memDefault else memGet m a

/-- Drops the entry of an address. -/
def memErase : List Host.Cell → Nat → List Host.Cell
  | [], _ => []
  | (k, v) :: m, a => if a = k then m else if a < k then (k, v) :: m else (k, v) :: memErase m a

/-- Lists a byte that differs from `memDefault`. -/
def memInsert : List Host.Cell → Nat → Byte → List Host.Cell
  | [], a, x => [(a, x)]
  | (k, v) :: m, a, x =>
    if a < k then (a, x) :: (k, v) :: m
    else if a = k then (k, x) :: m
    else (k, v) :: memInsert m a x

def memSet (m : List Host.Cell) (a : Nat) (x : Byte) : List Host.Cell :=
  if x = memDefault then memErase m a else memInsert m a x

/-- Keys strictly above `lo` (when given) and rising, no default byte listed. -/
def memWfFrom : Option Nat → List Host.Cell → Bool
  | _, [] => true
  | lo, (k, v) :: m => (match lo with | none => true | some l => decide (l < k)) && v != memDefault && memWfFrom (some k) m

/-- The canonical form of memory. -/
def Memory.wf (m : List Host.Cell) : Bool := memWfFrom none m

/-- Inserts into a strictly rising list of numbers. -/
def sinsert : List Nat → Nat → List Nat
  | [], i => [i]
  | k :: m, i => if i < k then i :: k :: m else if i = k then k :: m else k :: sinsert m i

def smem : List Nat → Nat → Bool
  | [], _ => false
  | k :: m, i => if i = k then true else if i < k then false else smem m i

def serase : List Nat → Nat → List Nat
  | [], _ => []
  | k :: m, i => if i = k then serase m i else k :: serase m i

/-- Little-endian number of a byte list (R12). -/
def leNat : List Byte → Nat
  | [] => 0
  | b :: bs => b.toNat + 256 * leNat bs

/-- `n` bytes of a number, least significant first. -/
def leBytes : Nat → Nat → List Byte
  | 0, _ => []
  | n + 1, x => BitVec.ofNat 8 x :: leBytes n (x / 256)

/-- Lanes of width `w` of a vector register (R200): a list of `n` numbers. -/
def lanesOf (w n : Nat) (v : Nat) : List Nat := (List.range n).map fun i => (v >>> (w * i)) % 2 ^ w

/-- Lanes packed at width `w`, lane 0 lowest. -/
def packLanes (w : Nat) : List Nat → Nat
  | [] => 0
  | x :: xs => x % 2 ^ w + 2 ^ w * packLanes w xs

def vecOf (w : Nat) (xs : List Nat) : Vec := BitVec.ofNat 512 (packLanes w xs)

/-- List update by index. -/
def lset {β : Type} : List β → Nat → β → List β
  | [], _, _ => []
  | _ :: xs, 0, y => y :: xs
  | x :: xs, n + 1, y => x :: lset xs n y

end Sys2Proof.Machine
end

