-- ==== Sys2Proof/Machine/Regs.lean ====
section
/-!
DEFINITION. The CSR window: addresses (R8 to R11), the table of registers with field types and reset values (R13, R591 and the
register tables of each chapter), and the stored registers. A register's key is its single-mode address bits [37:0].
-/
namespace Sys2Proof.Machine

/-- A block of registers (R591). -/
inductive Block where
  | core
  | bench
  | compute
  | hub
  | mgmt
  deriving DecidableEq, Repr

/-- Key of a register from die, bench, core fields and offset (R8). -/
def regKey (die bench core off : Nat) : Nat := off + 2 ^ 17 * core + 2 ^ 24 * bench + 2 ^ 32 * die

def keyDie (k : Nat) : Nat := k / 2 ^ 32 % 64
def keyBench (k : Nat) : Nat := k / 2 ^ 24 % 256
def keyCore (k : Nat) : Nat := k / 2 ^ 17 % 128
def keyOff (k : Nat) : Nat := k % 2 ^ 17

/-- Key of a register of a unit with bench field 0xF0 and core field 0 (R8). -/
def unitKey (die off : Nat) : Nat := 0xf0 * 2 ^ 24 + off + 2 ^ 32 * die
def coreKey (c : CoreId) (off : Nat) : Nat := regKey c.die c.bench c.core off
def benchKey (b : BenchId) (off : Nat) : Nat := regKey b.die b.bench 64 off
def dieKey (d : Die) (off : Nat) : Nat := unitKey d off
def hubKey (h : Hub) (off : Nat) : Nat := unitKey (32 + h) off
def mdKey (m : Md) (off : Nat) : Nat := unitKey (40 + m) off
/-- Registers that both management dies hold alike stand under MD0's key (R22, R40, R310, R419, R448, R481, R508). -/
def mgtKey (off : Nat) : Nat := 40 * 2 ^ 32 + 0xf0 * 2 ^ 24 + off
def portOff (p : Fin 8) : Nat := 0x800 + 0x40 * p

/-- Offsets whose register both management dies hold alike. -/
def mgtShared (off : Nat) : Bool :=
  off < 0x1f0 || off == 0x200 || off == 0x208 || off == 0x230 || off == 0x238 || off == 0x308

/-- The key under which a register is stored. -/
def storeKey (k : Nat) : Nat :=
  if keyDie k = 41 && mgtShared (keyOff k) then 40 * 2 ^ 32 + k % 2 ^ 32 else k

/-- The block a unit address names, when the unit exists (R4, R10, R11). -/
def blockOf (die bench core : Nat) : Option Block :=
  if die < 28 then
    if bench < 180 then (if core < 64 then some .core else if core = 64 then some .bench else none)
    else if bench = 0xf0 && core = 0 then some .compute else none
  else if 32 ≤ die && die < 38 then (if bench = 0xf0 && core = 0 then some .hub else none)
  else if die = 40 || die = 41 then (if bench = 0xf0 && core = 0 then some .mgmt else none)
  else none

/-- Writable bits, bits that 1 clears, bits that 1 sets, bits that read (R13), and the reset value. -/
structure RegSpec where
  rw : Nat := 0
  w1c : Nat := 0
  w1s : Nat := 0
  rd : Nat := 0
  reset : Nat := 0
  deriving DecidableEq, Repr

def ro (rd : Nat) (reset : Nat := 0) : RegSpec := { rd := rd, reset := reset }
def w1c (rd bits : Nat) (reset : Nat := 0) : RegSpec := { rd := rd, w1c := bits, reset := reset }

def m64 : Nat := 2 ^ 64 - 1
/-- A fault record with STEP in [55:16] and the low bits given. -/
def stepRec (low pend : Nat) : RegSpec := w1c (0x00ffffffffff0000 + low) pend

/-- EVSEL, EVCNT, EVSNAP of a bank of `n` counters at `a`, `b`, `c` (R587, R588, R590). -/
def ctrSpec (off n a b c : Nat) : Option RegSpec :=
  if off % 8 ≠ 0 then none
  else if a ≤ off && off < a + 8 * n then some { rw := 0x1ffff, w1c := 2 ^ 32, rd := 0x10001ffff, reset := 0x1fc00 }
  else if b ≤ off && off < b + 8 * n then some { rw := m64, rd := m64 }
  else if c ≤ off && off < c + 8 * n then some (ro m64)
  else none

/-- The register tables. -/
def regSpec : Block → Nat → Option RegSpec
  | .core, 0x00 => some (ro 0xffff0003ffff)
  | .core, 0x08 => some (stepRec 0x7fff 8)
  | .core, 0x10 => some (ro 0x1ffff)
  | .core, 0x18 => some (ro 0xffffffff)
  | .core, 0x20 => some (ro 0)
  | .core, 0x28 => some (w1c 0xffff001f 0xc)
  | .core, 0x30 => some (ro m64)
  | .core, 0x38 => some (stepRec 0xff 8)
  | .core, 0x40 => some (ro 0xffffffffffff)
  | .core, 0x48 => some { rw := m64, rd := m64 }
  | .core, 0x50 => some { rw := 0x3ff, w1s := 0x400, rd := 0x7ff }
  | .core, _ => none
  | .bench, 0x200 => some (ro 0x71f 2)
  | .bench, 0x208 => some (stepRec 0x3ff 8)
  | .bench, 0x210 => some (ro m64)
  | .bench, 0x218 => some (stepRec 0x3ff 8)
  | .bench, 0x220 => some (ro 0xffffffff0007)
  | .bench, 0x228 => some (ro 0x3f 0x10)
  | .bench, 0x230 => some (stepRec 0xf 8)
  | .bench, 0x238 => some (ro 0xfffffffffff)
  | .bench, 0x240 => some (ro 1)
  | .bench, 0x248 => some (ro 0xffffffff00000007)
  | .bench, 0x250 => some (stepRec 0xf 8)
  | .bench, 0x260 => some (ro m64)
  | .bench, 0x268 => some (w1c 0x3fffffffffffff 0x20000000000000)
  | .bench, 0x270 => some (w1c 0x7fffffffffffff 0x40000000000000)
  | .bench, 0x278 => some { rw := m64, rd := m64 }
  | .bench, 0x280 => some { rw := 0x3ff, w1s := 0x400, rd := 0x7ff }
  | .bench, 0x288 => some { rw := 0xfffffffff, rd := 0xfffffffff }
  | .bench, 0x290 => some (ro 0xffff000f)
  | .bench, 0x300 => some (ro 0x0000ffffffffff03)
  | .bench, 0x308 => some (ro 0x03ffffff03ffffff)
  | .bench, 0x310 => some { rw := 0xffffffffff, rd := 0xffffffffff }
  | .bench, 0x318 => some (ro 0xffffff07)
  | .bench, 0x320 => some { rw := 0xffffffffffff, rd := 0xffffffffffff }
  | .bench, 0x328 => some (ro 0x3c)
  | .bench, 0x330 => some (ro 0x0000ffffffff001f)
  | .bench, 0x338 => some (stepRec 0xf 8)
  | .bench, 0x340 => some (ro m64)
  | .bench, off => ctrSpec off 8 0x400 0x440 0x480
  | .compute, 0x100 => some (ro 0xffffffffff 0xffffffffff)
  | .compute, 0x140 => some { rw := 0x3fffff, rd := 0x3fffff }
  | .compute, 0x148 => some (ro 0x3fff)
  | .compute, 0x188 => some (ro 0x03ff03ff)
  | .compute, 0x190 => some (w1c 0x1ffffffff 0x100000000)
  | .compute, 0x198 => some (w1c 0xe00 0xc00)
  | .compute, 0x1f0 => some (ro 0xff07)
  | .compute, off => ctrSpec off 16 0x800 0x880 0x900
  | .hub, 0x1f0 => some (ro 0xff07)
  | .hub, 0x400 => some (stepRec 0x1ff 8)
  | .hub, 0x408 => some (ro 0xffffffffffff)
  | .hub, 0x410 => some (ro 0x1fff1fff)
  | .hub, 0x420 => some (ro 3 2)
  | .hub, 0x428 => some (ro 0xffffffffffffff 0xffffffffffffff)
  | .hub, 0x430 => some (ro 0xffffffffffffff 0xffffffffffffff)
  | .hub, 0x438 => some (stepRec 0x3ff 4)
  | .hub, 0x500 => some (ro 0x1ffff)
  | .hub, 0x508 => some (ro 0xffffffff0000000f)
  | .hub, 0x510 => some (ro 0x1ffffffffff)
  | .hub, 0x518 => some (ro 0x1ffffffffff)
  | .hub, 0x520 => some (ro 0xffff03ffffffffff)
  | .hub, 0x528 => some (stepRec 0xf 8)
  | .hub, 0x600 => some (ro m64)
  | .hub, 0x608 => some (w1c 0x3fffffffffffff 0x20000000000000)
  | .hub, 0x610 => some (w1c 0x7fffffffffffff 0x40000000000000)
  | .hub, 0x618 => some { rw := m64, rd := m64 }
  | .hub, 0x620 => some { rw := 0x1fbff, w1s := 0x400, rd := 0x1ffff }
  | .hub, off =>
    if 0x800 ≤ off && off < 0xa00 then
      match off % 0x40 with
      | 0x00 => some (ro 0xfff7f)
      | 0x08 => some (ro m64)
      | 0x10 => some (stepRec 0xf 8)
      | _ => none
    else if 0x1000 ≤ off && off < 0x1e00 && off % 8 == 0 then some (ro 0x1ffffff)
    else ctrSpec off 32 0x2000 0x2100 0x2200
  | .mgmt, 0x00 => some (ro 0xffffffff 0x4011e064)
  | .mgmt, 0x40 => some (ro 0x3f3f3f3f3f3f3f3f)
  | .mgmt, 0x48 => some (ro 0x3f3f3f3f3f3f3f3f)
  | .mgmt, 0x50 => some (ro 0x3f3f3f3f3f3f3f3f)
  | .mgmt, 0x58 => some (ro 0x3f3f3f3f3f3f3f3f)
  | .mgmt, 0x60 => some (ro 0x3fff)
  | .mgmt, 0x100 => some (ro 0xffffffff0000ff07)
  | .mgmt, 0x108 => some (ro m64)
  | .mgmt, 0x110 => some (ro m64)
  | .mgmt, 0x118 => some (ro m64)
  | .mgmt, 0x120 => some (ro m64)
  | .mgmt, 0x140 => some { rw := 0xfffffffff000, rd := 0xfffffffff000 }
  | .mgmt, 0x148 => some { rw := 0xfffffffff000, rd := 0xfffffffff000 }
  | .mgmt, 0x150 => some { w1s := 2, rd := 7 }
  | .mgmt, 0x180 => some (ro m64)
  | .mgmt, 0x188 => some (ro m64)
  | .mgmt, 0x190 => some (ro m64)
  | .mgmt, 0x198 => some (ro m64)
  | .mgmt, 0x1a0 => some (ro 0x1ffffffffff)
  | .mgmt, 0x1c0 => some (ro 0xffffffff00000003)
  | .mgmt, 0x1c8 => some (ro 0xffff001f)
  | .mgmt, 0x1e0 => some (ro 0x7f001f 0x7f0000)
  | .mgmt, 0x1f0 => some (ro 0xff07)
  | .mgmt, 0x200 => some (w1c 0x7fffffffff 0x100000000 0x7e00000000)
  | .mgmt, 0x208 => some (w1c 0x3f3fff 0x280000)
  | .mgmt, 0x230 => some { rw := 0xffff, rd := 0xffff, reset := 0x18 }
  | .mgmt, 0x238 => some (w1c 0x7fffffffff 0x100000000)
  | .mgmt, 0x300 => some (ro 0xffff0007ff1f 0x8818)
  | .mgmt, 0x308 => some (ro m64)
  | .mgmt, 0x370 => some (ro 0xf77)
  | .mgmt, 0x400 => some { rw := 0xffff, rd := 0xffff0000ffff, reset := 0x3e8 }
  | .mgmt, 0x410 => some { rw := 0xffff, rd := 0xffff }
  | .mgmt, 0x418 => some (ro 0x1ffff)
  | .mgmt, 0x420 => some (ro 0xffffffff0001ffff)
  | .mgmt, 0x428 => some (w1c 0xffffffff0000000f 8)
  | .mgmt, 0x430 => some (ro 0x1ffffffffffff)
  | .mgmt, off =>
    if 0x310 ≤ off && off < 0x370 && off % 8 == 0 then some (ro m64)
    else ctrSpec off 16 0x800 0x880 0x900

/-- Physical die that holds logical die `l` before any take-over (R17). -/
def imageDie (spare l : Nat) : Nat := if l = 27 then spare else if l < spare then l else if l < 27 then l + 1 else 0x3f

/-- MGT_DIE_MAPi as the image gives it (R22). -/
def imageDieMap (spare i : Nat) : Nat :=
  packLanes 8 ((List.range 8).map fun k => imageDie spare (8 * i + k))

def imageSpareOf (img : Nat) : Nat := Config.imageSpare img % 28

/-- Reset value of a register: the table's, or what the booted image gives where the table says 'From image'. -/
def regReset (img : Nat) (k : Nat) : Word64 :=
  let off := keyOff k
  match blockOf (keyDie k) (keyBench k) (keyCore k) with
  | some .mgmt =>
    if off = 0x40 then BitVec.ofNat 64 (imageDieMap (imageSpareOf img) 0)
    else if off = 0x48 then BitVec.ofNat 64 (imageDieMap (imageSpareOf img) 1)
    else if off = 0x50 then BitVec.ofNat 64 (imageDieMap (imageSpareOf img) 2)
    else if off = 0x58 then BitVec.ofNat 64 (imageDieMap (imageSpareOf img) 3)
    else if off = 0x60 then BitVec.ofNat 64 (0x3f00 + imageSpareOf img)
    else if off = 0x1c0 then (Config.imageRole img).setWidth 64
    else BitVec.ofNat 64 (((regSpec .mgmt off).map RegSpec.reset).getD 0)
  | some .compute =>
    if off = 0x100 then 0xff00000000#64 ||| (Config.imageBenchSpare img (keyDie k)).setWidth 64
    else if off = 0x188 then Config.imageDroop img (keyDie k) &&& 0x03ff03ff#64
    else BitVec.ofNat 64 (((regSpec .compute off).map RegSpec.reset).getD 0)
  | some .core =>
    -- the boot loads the factory tag into every bank (R249)
    if off = 0x30 && img != 0 then BitVec.ofNat 64 (packLanes 16 (List.replicate 4 Config.factoryTag.toNat))
    else BitVec.ofNat 64 (((regSpec .core off).map RegSpec.reset).getD 0)
  | some b => BitVec.ofNat 64 (((regSpec b off).map RegSpec.reset).getD 0)
  | none => 0

/-- Is the offset one of the event-counter registers? -/
def isCtr (k : Nat) : Bool :=
  let off := keyOff k
  match blockOf (keyDie k) (keyBench k) (keyCore k) with
  | some .bench => (ctrSpec off 8 0x400 0x440 0x480).isSome
  | some .compute => (ctrSpec off 16 0x800 0x880 0x900).isSome
  | some .mgmt => (ctrSpec off 16 0x800 0x880 0x900).isSome
  | some .hub => (ctrSpec off 32 0x2000 0x2100 0x2200).isSome
  | _ => false

/-- The stored value of a register. -/
def State.reg (s : State) (k : Nat) : Word64 :=
  nget (if isCtr k then s.ctr else s.csr) (storeKey k) (regReset s.sec.imageHash k)

/-- Stores a register. -/
def State.setReg (s : State) (k : Nat) (v : Word64) : State :=
  { s with
    csr := if isCtr k then s.csr else nset s.csr (storeKey k) v
    ctr := if isCtr k then nset s.ctr (storeKey k) v else s.ctr }

/-- A register as it stood at the start of the fabric cycle in progress. -/
def State.regWas (s : State) (k : Nat) : Word64 :=
  nget (if isCtr k then s.cycle.ctr else s.cycle.csr) (storeKey k) (regReset s.sec.imageHash k)
/-- Bits that were set in the cycle in progress (R14). -/
def State.freshBits (s : State) (k : Nat) : Word64 := s.reg k &&& ~~~s.regWas k

/-- Field `[hi:lo]` of a stored register. -/
def State.fld (s : State) (k hi lo : Nat) : Nat := bitsOf (s.reg k).toNat hi lo

/-- A word with field `[hi:lo]` replaced. -/
def putBits (w : Word64) (hi lo v : Nat) : Word64 :=
  let msk := BitVec.ofNat 64 ((2 ^ (hi + 1 - lo) - 1) * 2 ^ lo)
  (w &&& ~~~msk) ||| (BitVec.ofNat 64 (v * 2 ^ lo) &&& msk)

def State.setFld (s : State) (k hi lo v : Nat) : State := s.setReg k (putBits (s.reg k) hi lo v)

/-- Adds to a field and stays at its top. -/
def State.satFld (s : State) (k hi lo n : Nat) : State :=
  s.setFld k hi lo (min (s.fld k hi lo + n) (2 ^ (hi + 1 - lo) - 1))

/-- What a write of `v` leaves in a register by its field types (R13). -/
def typedWrite (sp : RegSpec) (old v : Word64) : Word64 :=
  let rw := BitVec.ofNat 64 sp.rw
  let c := BitVec.ofNat 64 sp.w1c
  let t := BitVec.ofNat 64 sp.w1s
  (((old &&& ~~~rw) ||| (v &&& rw)) &&& ~~~(v &&& c)) ||| (v &&& t)

end Sys2Proof.Machine
end

