-- ==== Sys2Proof/Machine/Ops.lean ====
section
/-!
DEFINITION. The named operations over the state that the meanings share: unit records, time, logical numbers, memory with its
codes and poison (R304, R509 to R514, R610), event counters (R586 to R589), the log (R568 to R570), reports and fault records.
-/
namespace Sys2Proof

def CoreId.key (c : CoreId) : Nat := (c.die * 180 + c.bench) * 64 + c.core
def CoreId.benchId (c : CoreId) : BenchId := ⟨c.die, c.bench⟩
def BenchId.key (b : BenchId) : Nat := b.die * 180 + b.bench
def BenchId.coreAt (b : BenchId) (i : Fin 64) : CoreId := ⟨b.die, b.bench, i⟩
/-- Module-wide port number (R420). -/
def PortId.key (p : PortId) : Nat := 8 * p.hub + p.port
/-- Module-wide channel number (R305). -/
def ChanId.key (c : ChanId) : Nat := 56 * c.hub + c.chan

namespace Machine

/-- What a meaning answers. -/
abbrev Out := Host.Outcome State Fault Refusal

/-- A number below a bound. -/
def finOf? (n x : Nat) : Option (Fin n) := if h : x < n then some ⟨x, h⟩ else none

/-! Unit records. -/

def State.core (s : State) (c : CoreId) : CoreState := nget s.cores c.key {}
def State.setCore (s : State) (c : CoreId) (x : CoreState) : State := { s with cores := nset s.cores c.key x }
def State.updCore (s : State) (c : CoreId) (f : CoreState → CoreState) : State := s.setCore c (f (s.core c))
def State.bench (s : State) (b : BenchId) : BenchState := nget s.benches b.key {}
def State.setBench (s : State) (b : BenchId) (x : BenchState) : State := { s with benches := nset s.benches b.key x }
def State.updBench (s : State) (b : BenchId) (f : BenchState → BenchState) : State := s.setBench b (f (s.bench b))
def State.die (s : State) (d : Die) : DieState := nget s.dies d {}
def State.setDie (s : State) (d : Die) (x : DieState) : State := { s with dies := nset s.dies d x }
def State.updDie (s : State) (d : Die) (f : DieState → DieState) : State := s.setDie d (f (s.die d))
def State.hub (s : State) (h : Hub) : HubState := nget s.hubs h {}
def State.setHub (s : State) (h : Hub) (x : HubState) : State := { s with hubs := nset s.hubs h x }
def State.updHub (s : State) (h : Hub) (f : HubState → HubState) : State := s.setHub h (f (s.hub h))
def State.port (s : State) (p : PortId) : PortState := nget s.ports p.key {}
def State.setPort (s : State) (p : PortId) (x : PortState) : State := { s with ports := nset s.ports p.key x }
def State.updPort (s : State) (p : PortId) (f : PortState → PortState) : State := s.setPort p (f (s.port p))

/-- The units that hold something, as benches. -/
def benchOfKey (k : Nat) : Option BenchId :=
  match finOf? 28 (k / 180), finOf? 180 (k % 180) with
  | some d, some b => some ⟨d, b⟩
  | _, _ => none
def coreOfNum (k : Nat) : Option CoreId :=
  match benchOfKey (k / 64), finOf? 64 (k % 64) with
  | some b, some c => some (b.coreAt c)
  | _, _ => none

/-! Time: `now` counts core cycles, four to the nanosecond; a fabric cycle is two of them (R12). -/

/-- A fabric cycle begins (log 56). -/
def State.newCycle (s : State) : State := { s with cycle := { csr := s.csr, ctr := s.ctr } }
/-- The clock reaches an instant; it never runs back. -/
def State.reach (s : State) (t : Nat) : State :=
  { s with now := max s.now t, cycle := if s.now / 2 < t / 2 then { csr := s.csr, ctr := s.ctr } else s.cycle }
/-- The timebase in ns, a count of 64 bits (R12, R96, R444). -/
def State.tbNow (s : State) : Nat := (((s.now : Int) + s.tbBase) / 4 % 18446744073709551616).toNat
/-- The core cycle at which the timebase reads `ns`. -/
def State.atTb (s : State) (ns : Nat) : Nat := ((ns : Int) * 4 - s.tbBase).toNat
/-- CYC of a bench: core cycles since the segment start, less what the droop guard stretched, plus what a wake reloaded (R46, R96,
R492, R499). -/
def State.cyc (s : State) (b : BenchId) : Nat :=
  ((s.now : Int) - s.job.segStart - (s.die b.die).lag + (s.bench b).cycAdj).toNat
/-- The clock at which CYC of a bench reaches a value. -/
def State.atCyc (s : State) (b : BenchId) (cyc : Nat) : Nat :=
  ((s.job.segStart : Int) + (s.die b.die).lag - (s.bench b).cycAdj + cyc).toNat

/-- Step number of the current descriptor (R96). -/
def State.stepNo (s : State) : Nat := match s.job.cur with | some d => d.step.toNat | none => 0

/-- A free value and the state with the counter advanced (log 2). -/
def State.free (s : State) : BitVec 64 := Config.freeValue s.draws
def State.drew (s : State) : State := { s with draws := s.draws + 1 }

/-! Logical numbers (R6, R17, R22, R482). -/

/-- Physical number that MGT_DIE_MAP gives a logical die. -/
def State.physOf (s : State) (l : Nat) : Nat := s.fld (mgtKey (0x40 + 8 * (l / 8))) (8 * (l % 8) + 5) (8 * (l % 8))
/-- Logical number of a physical die. -/
def State.dieLog (s : State) (d : Nat) : Option Nat := (List.range 28).find? fun l => s.physOf l == d
def State.diePhys (s : State) (l : Nat) : Option Die := if l < 28 then finOf? 28 (s.physOf l) else none
/-- DIE_BENCH_SPARE.LOG_k. -/
def State.spareLog (s : State) (d : Die) (k : Nat) : Nat := s.fld (dieKey d 0x100) (8 * k + 7) (8 * k)
def State.benchPhys (s : State) (d : Die) (l : Nat) : Option BenchId :=
  if l < 176 then
    match (List.range 4).find? fun k => s.spareLog d k == l with
    | some k => (finOf? 180 (176 + k)).map (BenchId.mk d)
    | none => (finOf? 180 l).map (BenchId.mk d)
  else none
/-- Logical number of a physical bench: none for a free spare and for a bench that a spare replaced. -/
def State.benchLog (s : State) (b : BenchId) : Option Nat :=
  if 176 ≤ b.bench.val then
    let l := s.spareLog b.die (b.bench - 176)
    if l < 176 then some l else none
  else if (List.range 4).any fun k => s.spareLog b.die k == b.bench.val then none else some b.bench
/-- The physical bench at logical numbers. -/
def State.benchAt (s : State) (ld lb : Nat) : Option BenchId := (s.diePhys ld).bind fun d => s.benchPhys d lb
/-- Is the stack fenced (R21)? -/
def State.dieFenced (s : State) (d : Die) : Bool := (s.die d).fenced
/-- Is the bench fenced (R471): another took its logical number, or it failed? -/
def State.benchFenced (s : State) (b : BenchId) : Bool :=
  (b.bench.val < 176 && (s.benchLog b).isNone) || (s.die b.die).failedBenches.contains b.bench.val

/-! Event counters (R586 to R589). -/

def bumpOne (s : State) (sel cnt : Nat) (hit : Nat → Bool) (n : Nat) : State :=
  let v := (s.reg sel).toNat
  if v.testBit 8 && hit v then
    let c := (s.reg cnt).toNat
    let s := s.setReg cnt (BitVec.ofNat 64 (c + n))
    if c % 2 ^ 48 + n ≥ 2 ^ 48 then s.setReg sel (s.reg sel ||| 0x100000000#64) else s
  else s

/-- Every counter of a bank at `base` whose selection hits adds `n`. -/
def bump (s : State) (base : Nat → Nat) (cnt sel evc : Nat) (hit : Nat → Bool) (n : Nat) : State :=
  (List.range cnt).foldl (fun s i => bumpOne s (base (sel + 8 * i)) (base (evc + 8 * i)) hit n) s

/-- A bench source, of one core when it is per-core (R586, R588). No counter is enabled while `ctr` lists none. -/
def State.countBench (s : State) (b : BenchId) (src : Nat) (core : Option Nat) (n : Nat) : State :=
  if s.ctr.isEmpty || n == 0 then s else
  let hit := fun v => v % 256 == src && (match core with
    | none => true
    | some c => v / 2 ^ 10 % 128 == 0x7f || v / 2 ^ 10 % 128 == c)
  let s := bump s (benchKey b) 8 0x400 0x440 hit n
  bump s (dieKey b.die) 16 0x800 0x880 (fun v => v.testBit 9 && hit v) n
def State.countCore (s : State) (c : CoreId) (src : Nat) (n : Nat := 1) : State := s.countBench c.benchId src (some c.core) n
def State.countDie (s : State) (d : Die) (src : Nat) (n : Nat := 1) : State :=
  if s.ctr.isEmpty then s else bump s (dieKey d) 16 0x800 0x880 (fun v => v % 256 == src) n
def State.countHub (s : State) (h : Hub) (src : Nat) (n : Nat := 1) : State :=
  if s.ctr.isEmpty then s else bump s (hubKey h) 32 0x2000 0x2100 (fun v => v % 256 == src) n
def State.countMd (s : State) (m : Md) (src : Nat) (n : Nat := 1) : State :=
  if s.ctr.isEmpty then s else bump s (mdKey m) 16 0x800 0x880 (fun v => v % 256 == src) n

/-! Messages, the log and fault records. -/

def State.say (s : State) (k : MsgKind) (data : List Nat) : State := { s with out := s.out ++ [⟨k, data⟩] }

/-- Appends an entry to a die's log (R568 to R570). -/
def State.addLog (s : State) (md : Md) (sev : Nat) (pinned : Bool) (code loc data : Nat) : State :=
  let q := nget s.mgt.nextSeq md 0
  let e : LogRec := ⟨s.tbNow, q % 2 ^ 32, md, sev, pinned, code, s.stepNo, loc, data⟩
  let s := { s with mgt := { s.mgt with nextSeq := nset s.mgt.nextSeq md (q + 1) } }
  let s := (s.countMd md 0xb0)
  let s := if pinned then s.countMd md 0xb1 else s
  let own : List LogRec := s.mgt.ring.filter fun r => r.md == md.val
  let ringPinned := (own.filter LogRec.pinned).length
  let flashRoom := s.flash.log.length < 262144
  let ringRoom := !pinned || ringPinned < 4096
  let s := if pinned && flashRoom then { s with flash := { s.flash with log := s.flash.log ++ [e] } } else s
  if ringRoom then
    let ring := if own.length < 65536 then s.mgt.ring
      else match s.mgt.ring.find? fun r => r.md == md.val && !r.pinned with
        | some r => s.mgt.ring.erase r
        | none => s.mgt.ring
    let s := { s with mgt := { s.mgt with ring := ring ++ [e] } }
    if pinned then s.setFld (mdKey md 0x420) 15 0 (ringPinned + 1) else s
  else if pinned && !flashRoom then s.satFld (mdKey md 0x420) 63 32 1
  else s

/-- The same, and PFULL with its warning when the entry filled the flash partition (R570). -/
def State.logEvent (s : State) (md : Md) (sev : Nat) (pinned : Bool) (code loc data : Nat) : State :=
  let s := s.addLog md sev pinned code loc data
  if s.flash.log.length ≥ 262144 && s.fld (mdKey 0 0x420) 16 16 == 0 then
    (s.setFld (mdKey 0 0x420) 16 16 1).addLog 0 1 false (Config.logCode 570).toNat (mdKey 0 0 / 2 ^ 17) 0
  else s
/-- An entry that a rule asks for. -/
def State.log (s : State) (md : Md) (sev : Nat) (pinned : Bool) (rule loc data : Nat) : State :=
  s.logEvent md sev pinned (Config.logCode rule).toNat loc data

/-- A deadline fault of a unit (R54): reported with its CSR location, logical where it has logical numbers, segment and step. -/
def State.deadlineFault (s : State) (die bench core : Nat) : State :=
  s.say .deadlineFault [die, bench, core, s.job.seg, s.stepNo]
def State.coreDeadline (s : State) (c : CoreId) : State :=
  let s := s.countDie c.die 0x7d
  s.deadlineFault ((s.dieLog c.die).getD 0x3f) ((s.benchLog c.benchId).getD 0xff) c.core
def State.benchDeadline (s : State) (b : BenchId) : State :=
  let s := s.countDie b.die 0x7d
  s.deadlineFault ((s.dieLog b.die).getD 0x3f) ((s.benchLog b).getD 0xff) 64
def State.hubDeadline (s : State) (h : Hub) : State := s.deadlineFault (32 + h) 0xf0 0

/-- Low fields with PENDING and STEP in [55:16] of a fault record (R118, R175 and their kind). -/
def faultWord (low step : Nat) : Word64 := BitVec.ofNat 64 (low % 2 ^ 16 + 2 ^ 16 * (step % 2 ^ 40))

/-! Storage (R304 to R306). Keys carry physical die and bench numbers. -/

/-- What a module-physical address names, with LOGICAL numbers (R304, R305). -/
inductive Place where
  | lpddr (chan off : Nat)
  | scratch (die bench off : Nat)
  | store (die bench core off : Nat)
  | csr
  | none
  deriving DecidableEq, Repr

def chanBytes : Nat := 24000000000

def placeOf (a : Nat) : Place :=
  if a < 0x0a8000000000 then
    if a % 2 ^ 35 < chanBytes then .lpddr (a / 2 ^ 35) (a % 2 ^ 35) else .none
  else if 0x800000000000 ≤ a && a < 0x801b00000000 then
    if a / 2 ^ 24 % 256 < 176 then .scratch (a / 2 ^ 32 % 32) (a / 2 ^ 24 % 256) (a % 2 ^ 24) else .none
  else if 0x900000000000 ≤ a && a < 0x9006c0000000 then
    if a / 2 ^ 22 % 256 < 176 then .store (a / 2 ^ 30 % 32) (a / 2 ^ 22 % 256) (a / 2 ^ 16 % 64) (a % 2 ^ 16) else .none
  else if 0xff0000000000 ≤ a && a < 2 ^ 48 then .csr
  else .none

/-- Storage of a byte of a bench's scratch. DESIGN CHOICE (log 59): each of the 180 physical benches has 16 MiB of its own, the spares 176
to 179 too; R15 totals the cluster store over the 176 that serve. -/
def scratchKey (b : BenchId) (off : Nat) : Nat := 0x800000000000 + 2 ^ 32 * b.die + 2 ^ 24 * b.bench + off
/-- Storage of a byte of a core's own local store. -/
def lsKey (c : CoreId) (off : Nat) : Nat := 0x900000000000 + 2 ^ 30 * c.die + 2 ^ 22 * c.bench + 2 ^ 16 * c.core + off
/-- First spare block of R521. -/
def retireBase : Nat := 23699963904
/-- HUB_RETIRE entry `k` of a channel. -/
def retireKey (h : Hub) (chan k : Nat) : Nat := hubKey h (0x1000 + 64 * chan + 8 * k)
/-- LPDDR6 storage of a channel offset behind the page-retire entries (R521). -/
def State.lpddrKey (s : State) (chan off : Nat) : Nat :=
  match finOf? 6 (chan / 56) with
  | some h =>
    let blk := off / 4096
    match (List.range 8).find? fun k =>
        s.fld (retireKey h (chan % 56) k) 22 0 == blk && s.fld (retireKey h (chan % 56) k) 23 23 == 1 with
    | some k => 2 ^ 35 * chan + retireBase + 4096 * k + off % 4096
    | none => 2 ^ 35 * chan + off
  | none => 2 ^ 35 * chan + off
/-- Storage behind a page that a retirement copies (R522): writes go there too while PENDING is set. -/
def State.retireTwin (s : State) (key : Nat) : Option Nat :=
  if key < 0x0a8000000000 then
    (finOf? 6 (key / 2 ^ 35 / 56)).bind fun h =>
      ((List.range 8).find? fun k =>
        s.fld (retireKey h (key / 2 ^ 35 % 56) k) 22 0 == key % 2 ^ 35 / 4096 && s.fld (retireKey h (key / 2 ^ 35 % 56) k) 24 24 == 1).map
      fun k => 2 ^ 35 * (key / 2 ^ 35) + retireBase + 4096 * k + key % 4096
  else none

/-- Key of a module-physical storage address; none where there is no storage (R304 to R306). -/
def State.keyOf (s : State) (a : Nat) : Option Nat :=
  match placeOf a with
  | .lpddr c o => some (s.lpddrKey c o)
  | .scratch d b o => (s.benchAt d b).bind fun pb =>
      if o < 2 ^ 20 * s.fld (benchKey pb 0x228) 4 0 then some (scratchKey pb o) else none
  | .store d b c o => (s.benchAt d b).bind fun pb => (finOf? 64 c).map fun pc => lsKey (pb.coreAt pc) o
  | .csr => none
  | .none => none

/-- The module-physical address of a key, with logical numbers; a unit without logical numbers gives its key. -/
def State.addrOf (s : State) (k : Nat) : Nat :=
  if k < 0x800000000000 then k
  else
    let loc := k < 0x900000000000
    let d := if loc then k / 2 ^ 32 % 32 else k / 2 ^ 30 % 32
    let b := if loc then k / 2 ^ 24 % 256 else k / 2 ^ 22 % 256
    match finOf? 28 d, finOf? 180 b with
    | some pd, some pb =>
      match s.dieLog pd, s.benchLog ⟨pd, pb⟩ with
      | some l, some m => if loc then 0x800000000000 + 2 ^ 32 * l + 2 ^ 24 * m + k % 2 ^ 24
        else 0x900000000000 + 2 ^ 30 * l + 2 ^ 22 * m + k % 2 ^ 22
      | _, _ => k
    | _, _ => k

/-- Bytes of a protected unit: an LPDDR6 codeword or an SRAM word (R509, R610). -/
def unitSize (k : Nat) : Nat := if k < 0x800000000000 then 32 else 8
def unitOf (k : Nat) : Nat := k / unitSize k * unitSize k
/-- Units that `n` bytes at `k` touch. -/
def unitsOf (k n : Nat) : List Nat :=
  let z := unitSize k
  (List.range ((k + n + z - 1) / z - k / z)).map fun i => (k / z + i) * z

/-- Who holds a key, and the STORE code of R530: local store 0, cluster store 5, LPDDR6 7. -/
def ownerOf (k : Nat) : Option (BenchId ⊕ Hub) × Nat :=
  if k < 0x800000000000 then ((finOf? 6 (k / 2 ^ 35 / 56)).map .inr, 7)
  else
    let loc := k < 0x900000000000
    let d := if loc then k / 2 ^ 32 % 32 else k / 2 ^ 30 % 32
    let b := if loc then k / 2 ^ 24 % 256 else k / 2 ^ 22 % 256
    (match finOf? 28 d, finOf? 180 b with
      | some pd, some pb => some (.inl ⟨pd, pb⟩)
      | _, _ => none, if loc then 5 else 0)

/-- The store of a key. -/
def storeOf (k : Nat) : Option StoreRef :=
  match ownerOf k with
  | (some (.inl b), 5) => some (.clusterStore b)
  | (some (.inl b), _) => (finOf? 64 (k / 2 ^ 16 % 64)).map fun c => .localStore (b.coreAt c)
  | (some (.inr h), _) => (finOf? 56 (k / 2 ^ 35 % 56)).map fun c => .lpddr ⟨h, c⟩
  | _ => none

def bitsSet (m : BitVec 288) : Nat := ((List.range 288).filter fun i => m.getLsbD i).length
/-- Damaged symbols of an LPDDR6 codeword, or damaged bits of an SRAM word (R509). -/
def damage (lp : Bool) (m : BitVec 288) : Nat :=
  if lp then ((List.range 36).filter fun i => (m >>> (8 * i)).toNat % 256 != 0).length else bitsSet m

/-- Records an error in the unit's ECC registers (R530). -/
def State.eccRecord (s : State) (own : BenchId ⊕ Hub) (addr store : Nat) (unc : Bool) : State :=
  let (k, src) := match own with
    | .inl b => (benchKey b 0x260, if unc then 0x61 else 0x60)
    | .inr h => (hubKey h 0x600, if unc then 0x8c else 0x8b)
  let s := if unc then s.satFld k 63 32 1 else s.satFld k 31 0 1
  let s := s.setReg (k + 8) (BitVec.ofNat 64 ((if unc then 2 ^ 52 else 0) + 2 ^ 53 + addr % 2 ^ 48 + 2 ^ 48 * store))
  match own with
  | .inl b => s.countBench b src none 1
  | .inr h => s.countHub h src

/-- An uncorrectable error: counted, logged, reported as a deadline fault (R513). -/
def State.uncorrectable (s : State) (own : BenchId ⊕ Hub) (addr store : Nat) : State :=
  let s := s.eccRecord own addr store true
  match own with
  | .inl b => (s.log 0 2 false 513 (benchKey b 0 / 2 ^ 17) (s.reg (benchKey b 0x268)).toNat).benchDeadline b
  | .inr h => (s.log 0 2 false 513 (hubKey h 0 / 2 ^ 17) (s.reg (hubKey h 0x608)).toNat).hubDeadline h

/-! Hard failures (R515, R519 to R523). -/

/-- The unit whose ECC registers cover a store, and its STORE code (R530). -/
def storeOwner : StoreRef → (BenchId ⊕ Hub) × Nat
  | .localStore c => (.inl c.benchId, 0)
  | .l1 c => (.inl c.benchId, 1)
  | .tabBuffer c => (.inl c.benchId, 2)
  | .accFile c => (.inl c.benchId, 3)
  | .registers c => (.inl c.benchId, 4)
  | .clusterStore b => (.inl b, 5)
  | .hubSram h => (.inr h, 6)
  | .lpddr c => (.inr c.hub, 7)

def isLpddr : StoreRef → Bool
  | .lpddr _ => true
  | _ => false

/-- Address that ECC_ADDR holds: module-physical where the store is memory, the local-store window address for what a core holds beside its
local store, else the word's number (R530). DESIGN CHOICE (log 32): word `i` of such a store stands at 8 `i` in the window. -/
def State.eccAddr (s : State) (st : StoreRef) (addr : Nat) : Nat :=
  match st with
  | .localStore _ | .clusterStore _ | .lpddr _ => s.addrOf addr
  | .l1 c => s.addrOf (lsKey c (addr % 0x10000))
  | .tabBuffer c | .accFile c | .registers c => s.addrOf (lsKey c (8 * addr % 0x10000))
  | .hubSram _ => addr

/-- An event of a store's owner: bench source or hub source. -/
def State.countStore (s : State) (st : StoreRef) (bench hub : Option Nat) : State :=
  match (storeOwner st).1, bench, hub with
  | .inl b, some n, _ => s.countBench b n none 1
  | .inr h, _, some n => s.countHub h n
  | _, _, _ => s

/-- Drops what the store between two keys holds (log 8): power loss leaves it as storage that nothing has written. -/
def State.dropRange (s : State) (lo hi : Nat) : State :=
  { s with
    mem := s.mem.filter fun e => e.1 < lo || hi ≤ e.1
    poison := s.poison.filter fun a => a < lo || hi ≤ a
    errs := s.errs.filter fun e => match e.1 with
      | .localStore _ | .clusterStore _ | .lpddr _ => e.2.1 < lo || hi ≤ e.2.1
      | _ => true }

/-- A unit failed under R467: reported for absorption, with the log entry. -/
def State.unitFailed (s : State) (die bench : Nat) (rule : Nat) : State :=
  (s.log 0 2 true rule (2 ^ 15 * die + bench * 2 ^ 7) 0).say .unitFailed [die, bench]
/-- First retire entry of a channel that is neither valid nor pending. -/
def State.freeRetire (s : State) (h : Hub) (ch : Nat) : Option Nat :=
  (List.range 8).find? fun k => s.fld (retireKey h ch k) 24 23 == 0 && !(s.hub h).retired.contains (8 * ch + k)

/-- Has an entry of the channel the block already? -/
def State.retiring (s : State) (h : Hub) (ch blk : Nat) : Bool :=
  (List.range 8).any fun k => s.fld (retireKey h ch k) 22 0 == blk % 2 ^ 23 &&
    (s.fld (retireKey h ch k) 24 23 != 0 || (s.hub h).retired.contains (8 * ch + k))
/-- Retires a 4 KiB block of a channel: with its copy to make (R522), or at once with a zeroed spare (R523). -/
def State.retireBlock (s : State) (c : ChanId) (blk : Nat) (copy : Bool) : State :=
  let h := c.hub
  if s.retiring h c.chan blk then s
  else match s.freeRetire h c.chan with
  -- all eight entries in use: the channel fails with its package
  | none => (s.log 0 2 true 523 (2 ^ 15 * (32 + h.val) + 0xf0 * 2 ^ 7) c.key).say .unitFailed [32 + h.val, 0xf0, c.key / 4]
  | some k =>
    let key := retireKey h c.chan k
    let s := s.setReg key (BitVec.ofNat 64 ((if copy then 2 ^ 24 else 0) + blk % 2 ^ 23))
    let s := { s with sec := { s.sec with record := { s.sec.record with retires := s.sec.record.retires ++ [(h.val, c.chan.val, k, blk)] } } }
    if copy then s
    else
      let lo := 2 ^ 35 * c.key + retireBase + 4096 * k
      (s.dropRange lo (4096 + lo)).updHub h fun x => { x with retired := x.retired ++ [8 * c.chan.val + k] }

/-- A row-remap entry for a hard-failed SRAM row: written to the records, in effect at the next load (R519, R520). -/
def State.remapRow (s : State) (st : StoreRef) (addr : Nat) : State :=
  let u := match (storeOwner st).1 with
    | .inr h => (32 + h.val, h.val)
    | .inl b => (b.die.val, b.key)
  let m := Config.macroOf s.sec.imageHash (storeOwner st).2 u.2 addr
  let used := (Config.imageRepairs s.sec.imageHash ++ s.sec.record.repairs).filter fun r => r.1 == u.1 && r.2.1 == m.1
  if used.any fun r => r.2.2.2 == m.2 then s
  else match (List.range 4).find? fun e => !(used.any fun r => r.2.2.1 == e) with
    | none => s
    | some e => { s with sec := { s.sec with record := { s.sec.record with repairs := s.sec.record.repairs ++ [(u.1, m.1, e, m.2)] } } }

/-- The location is hard-failed: remap or retire entry and a pinned log entry (R515). -/
def State.hardFail (s : State) (st : StoreRef) (addr : Nat) (unc : Bool) : State :=
  let s := (s.countStore st (some 0x68) none).log 0 2 true 515 0 (s.eccAddr st addr)
  match st with
  | .lpddr c => s.retireBlock c (addr % 2 ^ 35 / 4096) (!unc)
  | _ => s.remapRow st addr

/-- Where a correctable error of a store stands: its word, or the symbol of its LPDDR6 codeword (R515). -/
def cePlace (st : StoreRef) (addr : Nat) (m : BitVec 288) : StoreRef × Nat :=
  if isLpddr st then (st, 64 * addr + ((List.range 36).find? fun i => (m >>> (8 * i)).toNat % 256 != 0).getD 0) else (st, addr)
/-- A correctable error found by a read: recorded, its write-back queued as a scrub access, and the place hard-failed when it was written back in
this lap (R512, R515). -/
def State.foundCe (s : State) (own : BenchId ⊕ Hub) (st : StoreRef) (addr : Nat) (m : BitVec 288) : State :=
  let s := s.eccRecord own (s.eccAddr st addr) (storeOwner st).2 false
  let s := if s.writeBacks.contains (st, addr) then s else { s with writeBacks := s.writeBacks ++ [(st, addr)] }
  if s.seenCe.contains (cePlace st addr m) then s.hardFail st addr false else s
/-- An uncorrectable error found by a read; one that recurs after a whole write is a hard failure (R513, R515). -/
def State.foundUe (s : State) (own : BenchId ⊕ Hub) (st : StoreRef) (addr : Nat) : State :=
  let s := s.uncorrectable own (s.eccAddr st addr) (storeOwner st).2
  if s.seenUe.contains (st, addr, true) then s.hardFail st addr true
  else if s.seenUe.contains (st, addr, false) then s
  else { s with seenUe := (st, addr, false) :: s.seenUe }

/-- What a checker makes of one stored unit: data stand, poisoned, or free (beyond what the code detects; log 2). -/
inductive Read where
  | ok
  | poison
  | free
  deriving DecidableEq, Repr

/-- Passes one unit through its checker (R511 to R513, R610). -/
def State.check (s : State) (u : Nat) : Read × State :=
  let own := (ownerOf u).1
  if smem s.poison u then
    (.poison, match own with | some (.inl b) => s.countBench b 0x6a none 1 | _ => s)
  else match storeOf u, own with
    | some r, some o =>
      match s.errs.find? fun e => e.1 == r && e.2.1 == u with
      | some e =>
        let n := damage (u < 0x800000000000) e.2.2
        if n = 1 then (.ok, s.foundCe o r u e.2.2)
        else if n = 2 then (.poison, s.foundUe o r u)
        else (.free, s.drew)
      | none => (.ok, s)
    | _, _ => (.ok, s)

/-- Bytes of a free value. -/
def freeByte (d i : Nat) : Byte := BitVec.ofNat 8 ((Config.freeValue d).toNat >>> (8 * (i % 8)))

/-- Passes every unit of a list through its checker. -/
def State.checks (s : State) : List Nat → List (Nat × Read) × State
  | [] => ([], s)
  | u :: us =>
    let r := s.check u
    let t := r.2.checks us
    ((u, r.1) :: t.1, t.2)

/-- Did a checker not deliver the byte at `a` as stored? -/
def unitBad (marks : List (Nat × Read)) (a : Nat) : Bool := marks.any fun m => m.1 == unitOf a && m.2 != .ok

/-- Reads `n` bytes at a key through the checkers: bytes, poison, state. Poisoned and miscorrected bytes are free (log 2). -/
def State.load (s : State) (k n : Nat) : List Byte × Bool × State :=
  if s.poison.isEmpty && s.errs.isEmpty then ((List.range n).map fun i => memGet s.mem (k + i), false, s)
  else
    let r := s.checks (unitsOf k n)
    ((List.range n).map fun i => bif unitBad r.1 (k + i) then freeByte s.draws i else memGet s.mem (k + i),
      r.1.any fun m => m.2 == .poison, r.2.drew)

/-- Passes one word of a store that a core holds beside its local store through its checker (R509, R511 to R513): is it poisoned? A word with
more damage than the code detects counts as poisoned here, with a free value drawn (log 32). -/
def State.checkWord (s : State) (c : CoreId) (st : StoreRef) (addr : Nat) : Bool × State :=
  match s.errs.find? fun e => e.1 == st && e.2.1 == addr with
  | none => (false, s)
  | some e =>
    let n := damage false e.2.2
    if n = 1 then (false, s.foundCe (.inl c.benchId) st addr e.2.2)
    else if n = 2 then (true, s.foundUe (.inl c.benchId) st addr)
    else (true, s.drew)
def State.checkWords (s : State) (c : CoreId) (st : StoreRef) : List Nat → Bool × State
  | [] => (false, s)
  | a :: as =>
    let r := s.checkWord c st a
    let t := r.2.checkWords c st as
    (r.1 || t.1, t.2)
/-- Words of a register by the numbers of `bundleReads`: scalar registers at 0, vector registers at 32, and the accumulator file (log 32). -/
def regWords (c : CoreId) (r : Nat) : StoreRef × List Nat :=
  if r < 64 then (.registers c, [r % 32])
  else if r < 128 then (.registers c, (List.range 8).map fun i => 32 + 8 * (r - 64) + i)
  else (.accFile c, (List.range 8).map fun i => 8 * (r - 128) + i)
/-- The registers that an operation reads pass their checkers; one that is uncorrectable is poisoned whole (R513, R610). -/
def State.checkRegs (s : State) (c : CoreId) (rs : List Nat) : State :=
  if s.errs.isEmpty then s
  else rs.foldl (fun s r =>
    let w := regWords c r
    let q := s.checkWords c w.1 w.2
    if q.1 then q.2.updCore c fun x => { x with bad := sinsert x.bad r } else q.2) s
/-- A register is written whole: what damage its words held is gone. -/
def State.freshReg (s : State) (c : CoreId) (r : Nat) : State :=
  if s.errs.isEmpty then s
  else
    let w := regWords c r
    { s with
      errs := s.errs.filter fun e => !(e.1 == w.1 && w.2.contains e.2.1)
      seenUe := s.seenUe.map fun e => if e.1 == w.1 && w.2.contains e.2.1 then (e.1, e.2.1, true) else e }

/-- A little-endian number read at a key. -/
def State.loadNat (s : State) (k n : Nat) : Nat × Bool × State :=
  let (bs, p, s) := s.load k n
  (leNat bs, p, s)

/-- Plain bytes into memory, no codes. -/
def putBytes (m : List Host.Cell) (k : Nat) : List Byte → List Host.Cell
  | [] => m
  | b :: bs => putBytes (memSet m k b) (k + 1) bs

/-- Drops the stored damage of a unit. -/
def State.clearErr (s : State) (u : Nat) : State :=
  { s with
    errs := s.errs.filter fun e => !(storeOf u == some e.1 && e.2.1 == u)
    seenUe := s.seenUe.map fun e => if storeOf u == some e.1 && e.2.1 == u then (e.1, e.2.1, true) else e }

/-- SRAM words that a write of `n` bytes at a key covers in part (R514). -/
def partialWords (k n : Nat) : Nat :=
  if n = 0 then 0
  else if k / 8 = (k + n - 1) / 8 then (if n = 8 then 0 else 1)
  else (if k % 8 = 0 then 0 else 1) + (if (k + n) % 8 = 0 then 0 else 1)
/-- Counts an event of the bench that owns a key (R589). -/
def State.countAt (s : State) (k src n : Nat) : State :=
  match (ownerOf k).1 with
  | some (.inl b) => s.countBench b src none n
  | _ => s

/-- Writes to one unit the bytes of `bs` (written at `k`) that fall in it: (R514, R610). The Bool says that the destination is to be
poisoned. -/
def State.storeUnit (s : State) (k : Nat) (bs : List Byte) (poison : Bool) (u : Nat) : Bool × State :=
  let z := unitSize u
  let whole := decide (k ≤ u ∧ u + z ≤ k + bs.length)
  if poison then (false, { s with poison := sinsert s.poison u })
  else
    let lo := max k u
    let hi := min (k + bs.length) (u + z)
    let put := fun (s : State) => { s with mem := putBytes s.mem lo ((bs.drop (lo - k)).take (hi - lo)) }
    if whole then (false, put ({ s with poison := serase s.poison u }.clearErr u))
    else if smem s.poison u then (true, s)
    else match storeOf u, (ownerOf u).1 with
      | some r, some o =>
        match s.errs.find? fun e => e.1 == r && e.2.1 == u with
        | some e =>
          let n := damage (u < 0x800000000000) e.2.2
          if n = 2 then (true, (s.eccRecord o (s.addrOf u) (ownerOf u).2 true).countAt u 0x6c 1)
          else (false, (put ((if n = 1 then s.foundCe o r u e.2.2 else s).clearErr u)).countAt u 0x6b 1)
        | none => (false, (put s).countAt u 0x6b 1)
      | _, _ => (false, put s)

def State.storeUnits (s : State) (k : Nat) (bs : List Byte) (poison : Bool) (us : List Nat) : Bool × State :=
  us.foldl (fun (acc : Bool × State) u =>
    let (b, s) := acc.2.storeUnit k bs poison u
    (acc.1 || b, s)) (false, s)

/-- Writes bytes at a key, and at the spare of a block that is being retired (R522). Answers whether the destination is to be poisoned. -/
def State.store (s : State) (k : Nat) (bs : List Byte) (poison : Bool) : Bool × State :=
  if bs.isEmpty then (false, s)
  else if s.poison.isEmpty && s.errs.isEmpty && !poison && (s.retireTwin k).isNone then
    (false, ({ s with mem := putBytes s.mem k bs } : State).countAt k 0x6b (partialWords k bs.length))
  else
    let (b, s) := s.storeUnits k bs poison (unitsOf k bs.length)
    match s.retireTwin k with
    | some k2 =>
      let (b2, s) := s.storeUnits k2 bs poison (unitsOf k2 bs.length)
      (b || b2, s)
    | none => (b, s)

/-- Marks every unit that `n` bytes at a key touch as poisoned (R54, R610). -/
def State.poisonRange (s : State) (k n : Nat) : State :=
  { s with poison := (unitsOf k n).foldl sinsert s.poison }

/-- Plain bytes at a key, no checker: the model's own view. -/
def State.peek (s : State) (k n : Nat) : List Byte := (List.range n).map fun i => memGet s.mem (k + i)
def State.peekNat (s : State) (k n : Nat) : Nat := leNat (s.peek k n)

/-- The core whose local store holds a storage key. -/
def coreOfKey (k : Nat) : Option CoreId :=
  if 0x900000000000 ≤ k then
    match finOf? 28 (k / 2 ^ 30 % 32), finOf? 180 (k / 2 ^ 22 % 256), finOf? 64 (k / 2 ^ 16 % 64) with
    | some d, some b, some c => some ⟨d, b, c⟩
    | _, _, _ => none
  else none

/-- Does a landing collision of the segment cover any line of a range of a core's local store (R314, R610)? -/
def State.lineBad (s : State) (c : CoreId) (off n : Nat) : Bool :=
  let x := s.core c
  !x.lineBad.isEmpty && (List.range ((off % 64 + n + 63) / 64)).any fun i => smem x.lineBad (off / 64 + i)

/-- The same by storage key. -/
def State.keyBad (s : State) (k n : Nat) : Bool := match coreOfKey k with | some c => s.lineBad c (k % 2 ^ 16) n | none => false

/-- The same through module-physical addresses, a byte at a time: bytes of addresses without storage read as 0 here. -/
def State.peekAt (s : State) (a n : Nat) : List Byte :=
  (List.range n).map fun i => match s.keyOf (a + i) with | some k => memGet s.mem k | none => 0
def State.loadAt (s : State) (a n : Nat) : List Byte × Bool × State :=
  match s.keyOf a with
  | some k =>
    let r := s.load k n
    (r.1, r.2.1 || s.keyBad k n, r.2.2)
  | none => (List.replicate n 0, true, s)
def State.storeAt (s : State) (a : Nat) (bs : List Byte) (poison : Bool) : Bool × State :=
  match s.keyOf a with
  | some k => s.store k bs poison
  | none => (true, s)
def State.poisonAt (s : State) (a n : Nat) : State := match s.keyOf a with | some k => s.poisonRange k n | none => s

/-! Modes that several rules read. -/

def tabEmpty : Nat := 0
def tabReceiving : Nat := 1
def tabChecking : Nat := 2
def tabLoaded : Nat := 3
def tabRunning : Nat := 4
def tabStopping : Nat := 5

/-- MGT_TAB_STATUS.STATE. -/
def State.tabState (s : State) : Nat := s.fld (mgtKey 0x100) 2 0

/-- Asserts SVC_REQ_L with a service message of a class: 0 stack, 1 bench, 2 lane, 3 package (R476). -/
def State.service (s : State) (cls : Nat) : State :=
  let s := s.setFld (mgtKey 0x1e0) cls cls 1
  ({ s with pins := { s.pins with svcReq := true } }.log 0 3 true 476 0 cls).say .service [cls]

end Machine
end Sys2Proof
end

