-- ==== Sys2Proof/Machine/Operands.lean ====
section
/-!
DEFINITION. The four slots of a bundle: fields of every format (R85 to R105), which bundles are legal by their bits alone
(R86 and the field rules of R90 to R106, R203 to R233), and which registers a bundle reads (R115).
-/
namespace Sys2Proof.Machine

/-- Slot `i` of a bundle as a number (R85). -/
def slotWord (b : Bundle) (i : Nat) : Nat := (b.toNat >>> (32 * i)) % 2 ^ 32
def slotOp (w : Nat) : Nat := w / 2 ^ 26 % 64

/-! Scalar fields (R90). -/
def fSd (w : Nat) : Nat := bitsOf w 25 21
def fSa (w : Nat) : Nat := bitsOf w 20 16
def fSb (w : Nat) : Nat := bitsOf w 15 11
def fImm16 (w : Nat) : Nat := bitsOf w 15 0
def fFunc11 (w : Nat) : Nat := bitsOf w 10 0
/-- S-B: sa stands in [25:21], sb in [20:16]. -/
def fBsa (w : Nat) : Nat := bitsOf w 25 21
def fBsb (w : Nat) : Nat := bitsOf w 20 16
def fCond (w : Nat) : Nat := bitsOf w 15 13
def fTarget (w : Nat) : Nat := bitsOf w 8 0

/-! Matrix fields (R97, R100). -/
def fMsa (w : Nat) : Nat := bitsOf w 25 21
def fTile (w : Nat) : Nat := bitsOf w 20 15
def fMfmt (w : Nat) : Nat := bitsOf w 14 11
def fT (w : Nat) : Bool := w.testBit 8
def fZ (w : Nat) : Bool := w.testBit 9
def fM (w : Nat) : Bool := w.testBit 10
def fImm8 (w : Nat) : Nat := bitsOf w 7 0

/-! Vector fields (R101, R215, R220, R228, R232). -/
def fVd (w : Nat) : Nat := bitsOf w 25 20
def fVa (w : Nat) : Nat := bitsOf w 19 14
def fVb (w : Nat) : Nat := bitsOf w 13 8
def fA (w : Nat) : Bool := w.testBit 7
def fTy3 (w : Nat) : Nat := bitsOf w 6 5
def fFn (w : Nat) : Nat := bitsOf w 4 0
def fVc (w : Nat) : Nat := bitsOf w 7 2
def fTy4 (w : Nat) : Nat := bitsOf w 1 0
def fProg (w : Nat) : Nat := bitsOf w 13 6
def fTgt (w : Nat) : Nat := bitsOf w 13 10
def fRnd (w : Nat) : Nat := bitsOf w 9 8

/-! Memory and sync fields (R105, R106). -/
def fReg (w : Nat) : Nat := bitsOf w 25 20
def fMemSa (w : Nat) : Nat := bitsOf w 19 15
def fImm15 (w : Nat) : Int := sext 15 (bitsOf w 14 0)
def fImm26 (w : Nat) : Nat := bitsOf w 25 0
/-- DISS names its scalar register in [25:21], TFILL in [24:20], GSTR in [23:19]. -/
def fDissS (w : Nat) : Nat := bitsOf w 25 21
def fFillS (w : Nat) : Nat := bitsOf w 24 20
def fHalf (w : Nat) : Nat := bitsOf w 25 25
def fStream (w : Nat) : Nat := bitsOf w 25 24
def fGstrS (w : Nat) : Nat := bitsOf w 23 19
def fPluck (w : Nat) : Nat := bitsOf w 25 18

/-! Type codes of R101. -/
def tyFp32 : Nat := 0
def tyBf16 : Nat := 1
def tyFp64 : Nat := 2
def tyInt32 : Nat := 3
/-- Lane width and lane count of a type (R200). -/
def tyWidth (t : Nat) : Nat := if t = 1 then 16 else if t = 2 then 64 else 32
def tyLanes (t : Nat) : Nat := 512 / tyWidth t
/-- Format of a floating-point type. -/
def tyFmt (t : Nat) : Fmt := if t = 1 then bf16 else if t = 2 then fp64 else fp32

/-! Legality by bits alone. -/

/-- Scalar slot (R86, R90 to R96). -/
def scalarLegal (w : Nat) : Bool :=
  match slotOp w with
  | 0x00 => w == 0
  | 0x01 => fFunc11 w ≤ 0x0d || fFunc11 w == 0x10 || fFunc11 w == 0x11 || fFunc11 w == 0x12
  | 0x02 | 0x03 | 0x04 | 0x05 => true
  | 0x06 => bitsOf w 15 8 == 0 && bitsOf w 7 6 != 3
  | 0x07 => bitsOf w 20 18 == 0
  | 0x08 => bitsOf w 12 9 == 0 && fCond w != 7
  | 0x09 => bitsOf w 12 9 == 0 && fCond w == 0 && fBsb w == 0
  | 0x0a => fSa w == 0 && fImm16 w ≤ 5
  | _ => false

/-- Matrix slot (R86, R99). Fields a row of R99 does not list are unused, not reserved (log 10). -/
def matrixLegal (w : Nat) : Bool :=
  match slotOp w with
  | 0x00 => w == 0
  | 0x01 | 0x03 => fMfmt w ≤ 9
  | 0x02 | 0x04 => true
  | _ => false

/-- A V3 operation's type and A bit (R202, R203). -/
def v3Legal (w : Nat) (tys : List Nat) (aOk : Bool) : Bool :=
  tys.contains (fTy3 w) && (!fA w || (aOk && fTy3 w == tyFp32))

/-- Width of an element target of VCVT (R216); none for the others. -/
def elemWidth (code : Nat) (w32 : Bool) : Option Nat :=
  match code with
  | 0 | 1 => some 16
  | 2 | 3 => some 8
  | 9 => some (if w32 then 32 else 8)
  | 10 => some 32
  | 11 => some 64
  | _ => none

def isBlockTarget (code : Nat) : Bool := (4 ≤ code && code ≤ 8) || code == 12

/-- VCVT (R215 to R218). -/
def vcvtLegal (w : Nat) : Bool :=
  let t := fTy3 w
  let tgt := fTgt w
  let rnd := fRnd w
  let fn := fFn w
  if rnd = 3 || !v3Legal w [0, 1, 2, 3] true then false
  else if isBlockTarget tgt then
    t == 0 && fVd w % 2 == 0 && fVa w % 2 == 0 && (if rnd = 2 then tgt == 12 else fn / 8 == 0)
  else
    let w32 := tgt == 9 && fn.testBit 2
    match elemWidth tgt w32 with
    | none => false
    | some wd =>
      if rnd = 2 then tgt == 0 && t == 0
      else
        let same := (t == 0 && tgt == 10) || (t == 1 && tgt == 0) || (t == 2 && tgt == 11) || (t == 3 && w32)
        let exact := (t == 1 && (tgt == 10 || tgt == 11)) || (t == 0 && tgt == 11) || (t == 3 && tgt == 11)
        !same && fn / 8 == 0 && (!exact || rnd == 0) &&
          decide ((fn % 4) * min (tyLanes t) (512 / wd) < tyLanes t)

/-- Vector slot (R86, R101 to R104, R203 to R233). -/
def vectorLegal (w : Nat) : Bool :=
  let fn := fFn w
  match slotOp w with
  | 0x00 => w == 0
  | 0x01 => fn ≤ 8 && (fn < 7 || fVb w == 0) && v3Legal w [0, 1, 2, 3] true
  | 0x02 | 0x03 | 0x04 => fTy4 w != 3
  | 0x05 => fn ≤ 10 && (fn < 8 || fn == 10 || fTy3 w == 3) && (fn != 10 || (fVb w == 0 && fTy3 w != 3)) && v3Legal w [0, 1, 2, 3] true
  | 0x06 => true
  | 0x07 => vcvtLegal w
  | 0x08 => fn ≤ 7 && (fn != 4 || fVb w == 0) && v3Legal w [0, 1, 2, 3] false
  | 0x09 => fn ≤ 7 && (fn != 7 || fTy3 w == 0 || fTy3 w == 3) && v3Legal w [0, 1, 2, 3] false
  | 0x0a =>
    let scope := fn / 8
    scope != 3 && (fn.testBit 2 || fVb w == 0) && (fTy3 w != 1 || scope != 1) && (fTy3 w != 2 || scope == 0) &&
      v3Legal w [0, 1, 2, 3] true
  | 0x0b =>
    !fn.testBit 4 && (if fTy3 w = 3 then fn % 4 != 3 else true) && (fn % 4 == 3 || fVb w == 0) && v3Legal w [0, 3] true
  | 0x0c => (fTy4 w == 0 || fTy4 w == 2) && bitsOf w 13 9 == 0
  | 0x0d => !fn.testBit 4 && bitsOf w 3 1 ≤ 3 && v3Legal w [0, 1] true
  | 0x0e => fn % 4 != 3 && v3Legal w [0] true
  | 0x0f => bitsOf w 5 0 == 0
  | 0x10 => fTy4 w == 1
  | _ => false

/-- Memory and sync slot (R86, R105, R106). -/
def memoryLegal (w : Nat) : Bool :=
  match slotOp w with
  | 0x00 => w == 0
  | 0x01 | 0x02 | 0x06 | 0x07 => true
  | 0x03 | 0x04 => !w.testBit 25
  | 0x05 => bitsOf w 20 0 == 0
  | 0x08 => bitsOf w 18 0 == 0
  | 0x09 => bitsOf w 23 0 == 0
  | 0x0a => bitsOf w 19 0 == 0
  | 0x20 | 0x21 => true
  | 0x22 | 0x23 | 0x25 => fImm26 w == 0
  | 0x24 => bitsOf w 17 0 == 0
  | _ => false

/-- Where a memory and sync operation is legal (R106, R116): in scheduled code, in a region. -/
def placeLegal (op : Nat) (inRegion : Bool) : Bool :=
  match op with
  | 0x06 | 0x07 | 0x08 | 0x09 | 0x22 => inRegion
  | 0x0a | 0x20 | 0x21 | 0x23 | 0x25 => !inRegion
  | _ => true

/-- Registers a bundle reads: s as 0-31, v as 64-127, a as 128-191. -/
def scalarReads (w : Nat) : List Nat :=
  match slotOp w with
  | 0x01 => [fSa w, fSb w]
  | 0x02 | 0x03 | 0x04 | 0x05 | 0x06 => [fSa w]
  | 0x07 => [fSd w]
  | 0x08 => [fBsa w, fBsb w]
  | 0x09 => [fBsa w]
  | _ => []

def vReg (n : Nat) : Nat := 64 + n % 64
def aReg (n : Nat) : Nat := 128 + n % 64
/-- The va operand of a V3 operation. -/
def vaReg (w : Nat) : Nat := if fA w then aReg (fVa w) else vReg (fVa w)

/-- The second register of a block conversion's pair (R218). -/
def vaReg2 (w : Nat) : Nat := if fA w then aReg (fVa w + 1) else vReg (fVa w + 1)

def vectorReads (w : Nat) : List Nat :=
  match slotOp w with
  | 0x00 => []
  | 0x02 | 0x03 | 0x04 | 0x06 | 0x10 => [vReg (fVa w), vReg (fVb w), vReg (fVc w)]
  | 0x0c => [vReg (fVa w), vReg (fVc w)]
  | 0x0f => [vReg (fVa w)]
  | 0x07 => [vaReg w] ++ (if isBlockTarget (fTgt w) then [vaReg2 w] else []) ++ (if fRnd w = 2 then [31] else [])
  | _ => [vaReg w, vReg (fVb w)]

def memoryReads (w : Nat) : List Nat :=
  match slotOp w with
  | 0x01 | 0x03 | 0x06 => [fMemSa w]
  | 0x02 | 0x07 => [fMemSa w, vReg (fReg w)]
  | 0x04 => [fMemSa w, fReg w % 32]
  | 0x05 => [fDissS w]
  | 0x08 => [fGstrS w]
  | 0x0a => [fFillS w]
  | _ => []

def bundleReads (b : Bundle) : List Nat :=
  let m := slotWord b 1
  scalarReads (slotWord b 0) ++ (if slotOp m = 0 then [] else [fMsa m]) ++ vectorReads (slotWord b 2) ++ memoryReads (slotWord b 3)

/-- The lowest slot whose bits alone make the bundle illegal (R86). -/
def illegalSlot (b : Bundle) : List Nat :=
  (if scalarLegal (slotWord b 0) then [] else [0]) ++ (if matrixLegal (slotWord b 1) then [] else [1]) ++
  (if vectorLegal (slotWord b 2) then [] else [2]) ++ (if memoryLegal (slotWord b 3) then [] else [3])

/-! Register files (R83, R84, R610). -/

def CoreState.s (x : CoreState) (n : Nat) : Word64 := if n % 32 = 0 then 0 else nget x.sregs (n % 32) 0
def CoreState.v (x : CoreState) (n : Nat) : Vec := nget x.vregs (n % 64) 0
def CoreState.a (x : CoreState) (n : Nat) : Vec := nget x.accs (n % 64) 0
/-- Is a register poisoned? s0 never is. -/
def CoreState.pz (x : CoreState) (r : Nat) : Bool := r != 0 && smem x.bad r
def CoreState.anyPz (x : CoreState) (rs : List Nat) : Bool := rs.any x.pz
/-- The va operand of a V3 operation. -/
def CoreState.va (x : CoreState) (w : Nat) : Vec := if fA w then x.a (fVa w) else x.v (fVa w)

/-- A register by the numbers of `bundleReads`. -/
def CoreState.vec (x : CoreState) (r : Nat) : Vec := if r < 128 then x.v r else x.a r

def CoreState.markReg (x : CoreState) (r : Nat) (poison : Bool) : CoreState :=
  { x with
    bad := if poison then sinsert x.bad r else serase x.bad r
    touched := sinsert x.touched r
    region := x.region.map fun g => { g with regs := sinsert g.regs r } }
def CoreState.setS (x : CoreState) (n : Nat) (v : Word64) (poison : Bool) : CoreState :=
  if n % 32 = 0 then x else { x with sregs := nset x.sregs (n % 32) v }.markReg (n % 32) poison
def CoreState.setV (x : CoreState) (n : Nat) (v : Vec) (poison : Bool) : CoreState :=
  { x with vregs := nset x.vregs (n % 64) v }.markReg (vReg n) poison
def CoreState.setA (x : CoreState) (n : Nat) (v : Vec) (poison : Bool) : CoreState :=
  { x with accs := nset x.accs (n % 64) v }.markReg (aReg n) poison

/-- Keeps results in order of due cycle, then slot, then issue. -/
def insertResult : List Result → Result → List Result
  | [], r => [r]
  | q :: qs, r => if r.due < q.due || (r.due == q.due && r.slot < q.slot) then r :: q :: qs else q :: insertResult qs r
def CoreState.addResult (x : CoreState) (r : Result) : CoreState := { x with results := insertResult x.results r }

end Sys2Proof.Machine
end

