-- ==== Sys2Proof/Machine/VecOps.lean ====
section
/-!
DEFINITION. What each vector operation computes on register values (R200 to R235): pure functions of 512-bit operands.
-/
namespace Sys2Proof.Machine

/-- One lane's result with the exception kinds of R589. -/
structure LaneOut where
  val : Nat
  nan : Bool := false
  ovf : Bool := false
  sat : Bool := false
  inv : Bool := false
  deriving DecidableEq, Repr

/-- A result register with the lanes that met each exception kind: NaN result, overflow, saturation, invalid operation. -/
structure VOut where
  vec : Vec
  exc : List Nat := [0, 0, 0, 0]
  deriving DecidableEq, Repr

def laneCount (p : LaneOut → Bool) (ls : List LaneOut) : Nat := (ls.filter p).length
/-- Packs lanes of width `w`, lane 0 lowest; bits above are 0. -/
def packOut (w : Nat) (ls : List LaneOut) : VOut :=
  ⟨vecOf w (ls.map LaneOut.val), [laneCount LaneOut.nan ls, laneCount LaneOut.ovf ls, laneCount LaneOut.sat ls, laneCount LaneOut.inv ls]⟩

/-- An exact result rounded once to a format by RNE (R126), with its exceptions. -/
def fpOut (f : Fmt) (ops : List FV) (r : FV) : LaneOut :=
  let v := f.rne r
  let d := f.dec v
  { val := v, nan := d.isNan, ovf := d.isInf && !r.isInf, inv := d.isNan && !ops.any FV.isNan }

/-- Lanes of a register at a type. -/
def lanesTy (t : Nat) (v : Vec) : List Nat := lanesOf (tyWidth t) (tyLanes t) v.toNat

/-! VARITH (R207, R208). -/

def intArith (fn a b : Nat) : Nat :=
  let x := sext 32 a
  let y := sext 32 b
  wrapInt 32 (match fn with
    | 0 => x + y
    | 1 => x - y
    | 2 => x * y
    | 3 | 5 => if x ≤ y then x else y
    | 4 | 6 => if x ≤ y then y else x
    | 7 => if x < 0 then -x else x
    | _ => -x)

def fpArith (f : Fmt) (fn a b : Nat) : LaneOut :=
  let x := f.dec a
  let y := f.dec b
  match fn with
  | 0 => fpOut f [x, y] (x.add y)
  | 1 => fpOut f [x, y] (x.sub y)
  | 2 => fpOut f [x, y] (x.mul y)
  | 3 => fpOut f [x, y] (x.min y)
  | 4 => fpOut f [x, y] (x.max y)
  | 5 => fpOut f [x, y] (x.minNum y)
  | 6 => fpOut f [x, y] (x.maxNum y)
  | 7 => fpOut f [x] x.abs
  | _ => fpOut f [x] x.negate

def varithVal (t fn : Nat) (va vb : Vec) : VOut :=
  packOut (tyWidth t) (List.zipWith (fun a b => if t = tyInt32 then { val := intArith fn a b } else fpArith (tyFmt t) fn a b)
    (lanesTy t va) (lanesTy t vb))

/-! VFMA, VFMS, VFNMA (R209). -/

/-- Exact a·b + c with the signs of the form: 0 VFMA, 1 VFMS, 2 VFNMA. -/
def fmaForm (k : Nat) (a b c : FV) : FV :=
  match k with
  | 0 => a.fma b c
  | 1 => a.fma b c.negate
  | _ => (a.negate).fma b c

def vfmaVal (k t : Nat) (va vb vc : Vec) : VOut :=
  let f := tyFmt t
  packOut (tyWidth t) ((List.range (tyLanes t)).map fun i =>
    let x := f.dec ((lanesTy t va).getD i 0)
    let y := f.dec ((lanesTy t vb).getD i 0)
    let z := f.dec ((lanesTy t vc).getD i 0)
    fpOut f [x, y, z] (fmaForm k x y z))

/-! VCMP, VSEL, VBIT, VSHUF (R211 to R214). -/

def cmpFp (fn : Nat) (a b : FV) : Bool :=
  let u := a.isNan || b.isNan
  match fn with
  | 0 => !u && a.cmpNum b == .eq
  | 1 => u || a.cmpNum b != .eq
  | 2 => !u && a.cmpNum b == .lt
  | 3 => !u && a.cmpNum b != .gt
  | 4 => !u && a.cmpNum b == .gt
  | 5 => !u && a.cmpNum b != .lt
  | 6 => u
  | 7 => !u
  | _ => a.isInf

def cmpInt (fn a b : Nat) : Bool :=
  let x := sext 32 a
  let y := sext 32 b
  match fn with
  | 0 => x == y
  | 1 => x != y
  | 2 => x < y
  | 3 => x ≤ y
  | 4 => x > y
  | 5 => x ≥ y
  | 6 => false
  | 7 => true
  | 8 => a < b
  | _ => a ≥ b

def vcmpVal (t fn : Nat) (va vb : Vec) : VOut :=
  let w := tyWidth t
  packOut w (List.zipWith (fun a b =>
    let h := if t = tyInt32 then cmpInt fn a b else cmpFp fn ((tyFmt t).dec a) ((tyFmt t).dec b)
    { val := if h then 2 ^ w - 1 else 0 }) (lanesTy t va) (lanesTy t vb))

/-- Most significant bit of lane `i` (R212, R220). -/
def laneMsb (t : Nat) (v : Vec) (i : Nat) : Bool := v.getLsbD (tyWidth t * i + tyWidth t - 1)

def vselVal (t : Nat) (va vb vc : Vec) : VOut :=
  packOut (tyWidth t) ((List.range (tyLanes t)).map fun i =>
    { val := if laneMsb t vc i then (lanesTy t va).getD i 0 else (lanesTy t vb).getD i 0 })

/-- A lane shift; amounts at or above the width empty the lane or fill it with its sign. -/
def laneShift (w fn a amt : Nat) : Nat :=
  match fn with
  | 5 => (a <<< amt) % 2 ^ w
  | 6 => a >>> amt
  | _ => wrapInt w (sext w a / (2 ^ amt : Nat))

def vbitVal (t fn : Nat) (va vb : Vec) : VOut :=
  match fn with
  | 0 => ⟨va &&& vb, [0, 0, 0, 0]⟩
  | 1 => ⟨va ||| vb, [0, 0, 0, 0]⟩
  | 2 => ⟨va ^^^ vb, [0, 0, 0, 0]⟩
  | 3 => ⟨va &&& ~~~vb, [0, 0, 0, 0]⟩
  | 4 => ⟨~~~va, [0, 0, 0, 0]⟩
  | k => packOut (tyWidth t) (List.zipWith (fun a b => { val := laneShift (tyWidth t) k a (b % 256) }) (lanesTy t va) (lanesTy t vb))

/-- Lane of the source and its index for output lane `i` (R214): false va, true vb. -/
def shufSrc (fn l i : Nat) (b : List Nat) : Bool × Nat :=
  match fn with
  | 0 => (false, b.getD i 0 % l)
  | 1 => (false, b.getD 0 0 % l)
  | 2 => (false, (i + b.getD 0 0 % l) % l)
  | 3 => (i % 2 == 1, i / 2)
  | 4 => (i % 2 == 1, l / 2 + i / 2)
  | 5 => if i < l / 2 then (false, 2 * i) else (true, 2 * i - l)
  | 6 => if i < l / 2 then (false, 2 * i + 1) else (true, 2 * i - l + 1)
  | _ => (false, 4 * (i % 4) + i / 4)

def vshufVal (t fn : Nat) (va vb : Vec) : VOut :=
  let a := lanesTy t va
  let b := lanesTy t vb
  packOut (tyWidth t) ((List.range (tyLanes t)).map fun i =>
    let r := shufSrc fn (tyLanes t) i b
    { val := if r.1 then b.getD r.2 0 else a.getD r.2 0 })

/-! VCVT (R129, R130, R215 to R219). -/

/-- Exact value of a source element. -/
def srcVal (t n : Nat) : FV := if t = tyInt32 then (let i := sext 32 n; .fin (i < 0) i.natAbs 0) else (tyFmt t).dec n

/-- Rounding of bits [9:8]: RTZ or RNE. -/
def rndOf (r : Nat) : Rnd := if r = 1 then .rtz else .rne

def cvtFmt (tgt : Nat) : Fmt × Over :=
  match tgt with
  | 0 => (bf16, .ieee)
  | 1 => (fp16, .ieee)
  | 2 => (e4m3, .saturate)
  | 3 => (e5m2, .ieee)
  | 10 => (fp32, .ieee)
  | _ => (fp64, .ieee)

/-- One element converted (R130). -/
def cvtElem (tgt : Nat) (w32 : Bool) (rnd : Nat) (v : FV) : LaneOut :=
  if tgt = 9 then
    let w := if w32 then 32 else 8
    let r := v.toIntSat (rndOf rnd) w
    let wide := v.toIntSat (rndOf rnd) 80
    { val := wrapInt w r, sat := v.isInf || r != wide, inv := v.isNan }
  else
    let (f, ov) := cvtFmt tgt
    let c := f.enc (rndOf rnd) ov v
    let d := f.dec c
    let big := match v with
      | .fin _ m e => decide (f.roundMag (rndOf rnd) m e > f.maxCode)
      | _ => false
    { val := c, nan := d.isNan, ovf := big && d.isInf, sat := big && !d.isInf, inv := d.isNan && !v.isNan }

/-- Elements that an element conversion converts: first index and count (R217). -/
def cvtSpan (t wd g : Nat) : Nat × Nat :=
  let n := min (tyLanes t) (512 / wd)
  (g * n, n)

/-- Element conversion; `draw` gives the u16 for source element k under SR (R219). -/
def vcvtElems (t tgt rnd fn : Nat) (va : Vec) (draw : Nat → Nat) : VOut :=
  let w32 := tgt == 9 && fn.testBit 2
  let wd := (elemWidth tgt w32).getD 8
  let g := if rnd = 2 then 0 else fn % 4
  let (lo, n) := cvtSpan t wd g
  let src := lanesTy t va
  packOut wd ((List.range n).map fun k =>
    let e := src.getD (lo + k) 0
    if rnd = 2 then
      let c := srBf16 e (draw (lo + k))
      { val := c, nan := (bf16.dec c).isNan
        sat := e % 2 ^ 31 < 0x7f800000 && 0x7f80 ≤ (e % 2 ^ 31 + draw (lo + k)) / 2 ^ 16 }
    else cvtElem tgt w32 rnd (srcVal t e))

/-- Elements of an MX block that saturate (R127, R135). -/
def mxSats (code : Nat) (md : Rnd) (scale : Nat) (xs : List Nat) : Nat :=
  let f := (mxElem code).1
  if scale = 0xff then 0
  else (xs.filter fun x => match f32 x with
    | .fin _ m k => decide (f.roundMag md m (k + 127 - scale) > f.maxCode)
    | _ => false).length
/-- The same for a BS16 block (R137). -/
def bs16Sats (md : Rnd) (us : Option (List Nat)) (scale : Nat) (xs : List Nat) : Nat :=
  (xs.zipIdx.filter fun p => match f32 p.1 with
    | .fin _ m k => decide (bs16Mag md us scale p.2 m k > 32767)
    | _ => false).length

/-- Block conversion of 32 FP32 values: elements and scale register (R218). -/
def vcvtBlock (tgt rnd : Nat) (va va1 : Vec) (draw : Nat → Nat) : VOut × Vec :=
  let xs := lanesTy 0 va ++ lanesTy 0 va1
  let us := if rnd = 2 then some ((List.range 32).map draw) else none
  let r := if tgt = 12 then toBs16 (rndOf rnd) us xs
    else toMx tgt (rndOf rnd) xs
  let w := if tgt = 12 then 16 else (mxElem tgt).1.width
  let nans := if tgt = 12 then (r.2.filter fun q => q == 0x8000).length else if r.1 = 0xff then 32 else 0
  let sats := if tgt = 12 then bs16Sats (rndOf rnd) us r.1 xs else mxSats tgt (rndOf rnd) r.1 xs
  (⟨vecOf w r.2, [nans, 0, sats, 0]⟩, BitVec.ofNat 512 r.1)

/-! Reductions (R220 to R224). -/

/-- Binary tree over a list of power-of-two length, lower indexes left. -/
def treeGo {α : Type} (f : α → α → α) : Nat → List α → List α
  | 0, xs => xs
  | n + 1, xs =>
    let rec pairs : List α → List α
      | a :: b :: r => f a b :: pairs r
      | r => r
    treeGo f n (pairs xs)
def treeFold {α : Type} (f : α → α → α) (d : α) (xs : List α) : α := (treeGo f 6 xs).getD 0 d

/-- Result type of a reduction: BF16 sources give FP32 (R221). -/
def redTy (t : Nat) : Nat := if t = tyBf16 then tyFp32 else t

/-- Identity of an operation (R223): 0 SUM, 1 PROD, 2 MAX, 3 MIN, in the result format. -/
def redIdent (t op : Nat) : Nat :=
  if t = tyInt32 then (match op with | 0 => 0 | 1 => 1 | 2 => 0x80000000 | _ => 0x7fffffff)
  else
    let f := tyFmt (redTy t)
    match op with
    | 0 => 0
    | 1 => f.rne (.fin false 1 0)
    | 2 => f.rne (.inf true)
    | _ => f.rne (.inf false)

/-- One node of a tree (R224): in the result format. -/
def redNode (t op a b : Nat) : Nat :=
  if t = tyInt32 then
    let x := sext 32 a
    let y := sext 32 b
    wrapInt 32 (match op with
      | 0 => x + y
      | 1 => x * y
      | 2 => if x ≤ y then y else x
      | _ => if x ≤ y then x else y)
  else
    let f := tyFmt (redTy t)
    let x := f.dec a
    let y := f.dec b
    f.rne (match op with
      | 0 => x.add y
      | 1 => x.mul y
      | 2 => x.max y
      | _ => x.min y)

/-- A source lane in the result format. -/
def redLane (t n : Nat) : Nat := if t = tyBf16 then fp32.rne (bf16.dec n) else n

/-- Which lanes take part (R220). -/
def takesPart (t : Nat) (msk : Bool) (vb : Vec) (i : Nat) : Bool := !msk || laneMsb t vb i

/-- Reduction over the lanes of one core (R222): value, and whether no lane took part. -/
def laneRed (t op : Nat) (msk : Bool) (va vb : Vec) : Nat × Bool :=
  let ls := (lanesTy t va).zipIdx.map fun p => (redLane t p.1, takesPart t msk vb p.2)
  let on := (ls.filter Prod.snd).map Prod.fst
  if on.isEmpty then (redIdent t op, true)
  else
    let v := if t = tyInt32 then on.foldl (redNode t op) (redIdent t op)
      else
        let f := tyFmt (redTy t)
        match op with
        | 0 => f.rne (FV.sum (on.map f.dec))
        | 1 => treeFold (redNode t 1) 0 (ls.map fun p => if p.2 then p.1 else redIdent t 1)
        | k => on.tail.foldl (redNode t k) (redNode t k (on.headD 0) (on.headD 0))
    (v, false)

/-- A value in every lane at the width of the result format (R221). -/
def redSpread (t v : Nat) : Vec := vecOf (tyWidth (redTy t)) (List.replicate (tyLanes (redTy t)) v)

/-- Exceptions of a result of class 2 in the `n` lanes that hold it: NaN, overflow, invalid operation (R127, R589) (log 50). -/
def resExc (t n : Nat) (ins : List Nat) (v : Nat) : List Nat :=
  if t = tyInt32 || ins.isEmpty then [0, 0, 0, 0]
  else
    let f := tyFmt (redTy t)
    let r := f.dec v
    let anyNan := ins.any fun x => (f.dec x).isNan
    let anyInf := ins.any fun x => (f.dec x).isInf
    [if r.isNan then n else 0, if r.isInf && !anyInf then n else 0, 0, if r.isNan && !anyNan then n else 0]
def addExc (a b : List Nat) : List Nat := List.zipWith (· + ·) a b

/-- Values that take part in a reduction within a core. -/
def redIns (t : Nat) (msk : Bool) (va vb : Vec) : List Nat :=
  ((lanesTy t va).zipIdx.filter fun p => takesPart t msk vb p.2).map fun p => redLane t p.1

/-! Scans (R228 to R231): `c` is the carry in, absent or FP32/INT32 bits. -/

def scanPsum (t : Nat) (xs : List Nat) (c : Option Nat) : List Nat :=
  if t = tyInt32 then
    (List.range 16).map fun i => wrapInt 32 (((xs.take (i + 1)).map (sext 32)).foldl (· + ·) ((c.map (sext 32)).getD 0))
  else (List.range 16).map fun i => fp32.rne (FV.sum ((c.map f32).toList ++ (xs.take (i + 1)).map f32))

def scanExt (t op : Nat) (xs : List Nat) (c : Option Nat) : List Nat :=
  (List.range 16).map fun i => (xs.take (i + 1)).foldl (redNode t op) (c.getD (redIdent t op))

/-- One level of the affine tree (R229). -/
def affineLevel (d : Nat) (p : List (Nat × Nat)) : List (Nat × Nat) :=
  p.zipIdx.map fun q =>
    if q.2 < d then q.1
    else
      let l := p.getD (q.2 - d) (0, 0)
      (fmul q.1.1 l.1, ffma q.1.1 l.2 q.1.2)

def scanAffine (a b : List Nat) (h : Option Nat) : List Nat :=
  let p := affineLevel 8 (affineLevel 4 (affineLevel 2 (affineLevel 1 (a.zip b))))
  p.map fun q => ffma q.1 (h.getD 0) q.2

/-- Scan of one core: 0 PSUM, 1 PMAX, 2 PMIN, 3 AFFINE. -/
def scanVal (t op : Nat) (va vb : Vec) (c : Option Nat) : List Nat :=
  match op with
  | 0 => scanPsum t (lanesTy t va) c
  | 1 => scanExt t 2 (lanesTy t va) c
  | 2 => scanExt t 3 (lanesTy t va) c
  | _ => scanAffine (lanesTy 0 va) (lanesTy 0 vb) c

/-- Exceptions of a scan's lanes (log 50). -/
def scanExc (t op : Nat) (va vb : Vec) (c : Option Nat) (ys : List Nat) : List Nat :=
  ys.zipIdx.foldl (fun e y =>
    let ins := (lanesTy t va).take (y.2 + 1) ++ (if op = 3 then (lanesTy t vb).take (y.2 + 1) else []) ++ c.toList
    addExc e (resExc t 1 ins y.1)) [0, 0, 0, 0]

/-! VBFLY (R232). -/

def fmt2 (f : Fmt) (r : FV) : Nat := f.rne r

/-- Complex product, one rounding per component. -/
def cmul (f : Fmt) (w x : Nat × Nat) : Nat × Nat :=
  let wr := f.dec w.1
  let wi := f.dec w.2
  let xr := f.dec x.1
  let xi := f.dec x.2
  (f.rne (FV.sum [wr.mul xr, (wi.mul xi).negate]), f.rne (FV.sum [wr.mul xi, wi.mul xr]))
def cadd (f : Fmt) (a b : Nat × Nat) : Nat × Nat :=
  (f.rne ((f.dec a.1).add (f.dec b.1)), f.rne ((f.dec a.2).add (f.dec b.2)))
def csub (f : Fmt) (a b : Nat × Nat) : Nat × Nat :=
  (f.rne ((f.dec a.1).sub (f.dec b.1)), f.rne ((f.dec a.2).sub (f.dec b.2)))
/-- a - i·b and a + i·b. -/
def csubI (f : Fmt) (a b : Nat × Nat) : Nat × Nat :=
  (f.rne ((f.dec a.1).add (f.dec b.2)), f.rne ((f.dec a.2).sub (f.dec b.1)))
def caddI (f : Fmt) (a b : Nat × Nat) : Nat × Nat :=
  (f.rne ((f.dec a.1).sub (f.dec b.2)), f.rne ((f.dec a.2).add (f.dec b.1)))

def butterfly (f : Fmt) (inv : Bool) (x w : Nat → Nat × Nat) : List (Nat × Nat) :=
  let u0 := x 0
  let u1 := cmul f (w 0) (x 1)
  let u2 := cmul f (w 1) (x 2)
  let u3 := cmul f (w 2) (x 3)
  let t0 := cadd f u0 u2
  let t1 := csub f u0 u2
  let t2 := cadd f u1 u3
  let t3 := csub f u1 u3
  [cadd f t0 t2, if inv then caddI f t1 t3 else csubI f t1 t3, csub f t0 t2, if inv then csubI f t1 t3 else caddI f t1 t3]

def vbflyVal (t : Nat) (inv : Bool) (va vc : Vec) : VOut :=
  let f := tyFmt t
  let a := lanesTy t va
  let c := lanesTy t vc
  let el := fun (l : List Nat) (k : Nat) => (l.getD (2 * k) 0, l.getD (2 * k + 1) 0)
  let outs := ((List.range (tyLanes t / 8)).map fun q =>
    (butterfly f inv (fun k => el a (4 * q + k)) (fun k => el c (4 * q + k))).map fun p => [p.1, p.2]).flatten.flatten
  let anyNan := (a ++ c).any fun n => (f.dec n).isNan
  let anyInf := (a ++ c).any fun n => (f.dec n).isInf
  packOut (tyWidth t) (outs.map fun v =>
    let d := f.dec v
    { val := v, nan := d.isNan, ovf := d.isInf && !anyInf, inv := d.isNan && !anyNan })

/-! VBCAST (R205), VMVDOT (R166). -/

def vbcastVal (fn : Nat) (va vb : Vec) : VOut :=
  let g := bitsOf fn 4 3
  packOut 32 ((List.range 16).map fun e =>
    let x := f32 (tileLane va e)
    let y := f32 (tileLane vb (4 * g + (if fn.testBit 2 then e / 4 else e % 4)))
    fpOut fp32 [x, y] (match fn % 4 with | 0 => x.add y | 1 => x.sub y | _ => x.mul y))
where
  /-- FP32 lane. -/
  tileLane (v : Vec) (e : Nat) : Nat := (v.toNat >>> (32 * e)) % 2 ^ 32

def vmvdotVal (va vb vc : Vec) : VOut :=
  let a := lanesTy 1 va
  let b := lanesTy 1 vb
  let c := lanesTy 0 vc
  packOut 32 ((List.range 16).map fun i =>
    let p := fun k => (bf16.dec (a.getD k 0)).mul (bf16.dec (b.getD k 0))
    let q := f32 (c.getD i 0)
    fpOut fp32 [bf16.dec (a.getD (2 * i) 0), bf16.dec (b.getD (2 * i) 0), bf16.dec (a.getD (2 * i + 1) 0), bf16.dec (b.getD (2 * i + 1) 0), q]
      (FV.sum [p (2 * i), p (2 * i + 1), q]))

end Sys2Proof.Machine
end

