-- ==== Sys2Proof/Machine/Sfs.lean ====
section
/-!
DEFINITION. The special-function sequencer: micro-steps (R238 to R245), banks (R246, R249), shipped programs with their stated
results (R254 to R267), and the activations of VGACT (R234, R235).
-/
namespace Sys2Proof.Machine

/-! Stores. Index of a loaded word: store * 512 + bank * 256 + word (store 0 programs, 1 seeds). -/

/-- Number of the image whose factory words stand in the cores, 0 before a boot has loaded them (R249). -/
def State.sfsImage (s : State) : Nat := if s.sec.sfsLoaded then s.sec.imageHash else 0
/-- The factory word that a boot loads (R249); before it the stores hold zeros (log 3). -/
def factoryWord (img store i : Nat) : BitVec 32 :=
  if img = 0 then 0 else if store = 0 then Config.factoryProgram (i % 256) else Config.factorySeed (i % 256)
def CoreState.sfsWord (x : CoreState) (img store bank i : Nat) : BitVec 32 :=
  nget x.sfsWords (store * 512 + bank * 256 + i % 256) (factoryWord img store i)

/-- Do `n` words of a bank from `i` on hold the factory words (R249)? -/
def CoreState.factoryAt (x : CoreState) (img store bank i n : Nat) : Bool :=
  img != 0 && (List.range n).all fun k => match nget? x.sfsWords (store * 512 + bank * 256 + (i + k) % 256) with
    | none => true
    | some v => v == factoryWord img store (i + k)

/-- FP32 constants of R256. -/
def kOne : Nat := 0x3f800000
def kNan : Nat := 0x7fc00000
def kInf : Nat := 0x7f800000
def kNegInf : Nat := 0xff800000
def kNegZero : Nat := 0x80000000
def kMinNormal : FV := .fin false 1 (-126)
def kBig : FV := .fin false 1 126

def ltF (a b : FV) : Bool := !a.isNan && !b.isNan && a.cmpNum b == .lt
def geF (a b : FV) : Bool := !a.isNan && !b.isNan && a.cmpNum b != .lt
/-- A zero or one with the sign of a value. -/
def signOf (b : Nat) : Nat := if b.testBit 31 then kNegZero else 0

/-- Flush rule of END MODE 0 (R243). -/
def flush (b : Nat) : Nat := if b % 2 ^ 31 < 0x00800000 then signOf b else b
def flushed (b : Nat) : Bool := b % 2 ^ 31 < 0x00800000 && b % 2 ^ 31 != 0

/-- The integer a value is, if it is one. -/
def intOf : FV → Option Int
  | .fin n m e =>
    let i := FV.toIntSat .rne 64 (.fin n m e)
    if (FV.fin (i < 0) i.natAbs 0).cmpNum (.fin n m e) == .eq then some i else none
  | _ => none

/-- Exponent of an exact power of two. -/
def pow2Of : FV → Option Int
  | .fin false m e => if m = 2 ^ m.log2 && m != 0 then some (m.log2 + e) else none
  | _ => none

/-- Values the table of R256 fixes (with R235 for the activations): program number, FP32 bits; none where it fixes none. -/
def endOfRange (p b : Nat) : Option Nat :=
  let v := f32 b
  let a := v.abs
  if v.isNan then some kNan
  else match p with
    | 0 => if v.isZero then some kOne else if ltF v (f32 0xc2aeac4f) then some 0 else if ltF (f32 0x42b17218) v then some kInf else none
    | 10 => if geF v (f32 0x43000000) then some kInf else if ltF v (f32 0xc2fc0000) then some 0
      else (intOf v).map fun i => fp32.rne (.fin false 1 i)
    | 19 => if v.isZero then some kNegInf else if v.neg? then some kNan else if v.isInf then some kInf
      else if b = kOne then some 0 else none
    | 31 => if v.isZero then some kNegInf else if v.neg? then some kNan else if v.isInf then some kInf
      else (pow2Of v).map fun k => fofInt k
    | 43 => if v.isZero then some (signOf b + kInf) else if ltF kBig a then some (signOf b) else none
    | 50 => if v.isZero then some (signOf b + kInf) else if v.neg? then some kNan else if v.isInf then some 0 else none
    | 59 => if v.isZero then some b else if v.neg? then some kNan else some (fsqrt b)
    | 64 => if geF a (f32 0x41102cb3) then some (signOf b + kOne) else if ltF a kMinNormal then some (signOf b) else none
    | 76 => if ltF v (f32 0xc2aeac4f) then some 0 else if ltF (f32 0x41851592) v then some kOne else none
    | 87 => if geF a (f32 0x407ad445) then some (signOf b + kOne) else if ltF a kMinNormal then some (signOf b) else none
    | 101 => if ltF v (f32 0xc1526666) then some kNegZero else if geF v (f32 0x41200000) then some b else none
    | 116 => if ltF v (f32 0xc1233333) then some kNegZero else if geF v (f32 0x41200000) then some b else none
    | 131 => if ltF v (f32 0xc2b7b852) then some kNegZero else if geF v (f32 0x41880000) then some b else none
    | 143 => if ltF v (f32 0xc2aeac4f) then some 0 else if geF v (f32 0x41800000) then some b else none
    | 156 => if v.isInf then some kNan else if ltF a kMinNormal then some (signOf b) else none
    | 168 => if v.isInf then some kNan else if v.isZero then some kOne else none
    | _ => none

/-- Steps and latency of a shipped program (R254). -/
def shippedSize (p : Nat) : Option (Nat × Nat) :=
  match p with
  | 0 => some (10, 40) | 10 => some (9, 36) | 19 => some (12, 48) | 31 => some (12, 48) | 43 => some (7, 28) | 50 => some (9, 36)
  | 59 => some (5, 28) | 64 => some (12, 48) | 76 => some (11, 44) | 87 => some (14, 56) | 101 => some (15, 60) | 116 => some (15, 60)
  | 131 => some (12, 48) | 143 => some (13, 52) | 156 => some (12, 48) | 168 => some (12, 48) | 180 => some (12, 48) | 192 => some (4, 16)
  | 196 => some (5, 28) | 201 => some (7, 28) | 208 => some (11, 52) | 219 => some (6, 32) | 225 => some (4, 16) | 229 => some (7, 36)
  | 236 => some (4, 16)
  | _ => none

/-- Registers a shipped program reads from va on and writes from vd on. -/
def shippedRegs (p : Nat) : Nat × Nat :=
  match p with
  | 180 => (2, 3) | 192 => (3, 1) | 196 => (2, 1) | 201 => (2, 3) | 208 => (6, 3) | 219 => (3, 2) | 225 => (2, 2)
  | 229 => (4, 2) | 236 => (2, 1)
  | _ => (1, 1)

/-- What a program run leaves: registers written (offset from vd), flushed lanes, soft-maximum and empty-reduction events, latency, the
lanes of END before its flush rule, and whether it ends in the fault of R245 instead. -/
structure SfsRun where
  outs : List (Nat × Vec)
  flushes : Nat := 0
  masked : Nat := 0
  empties : Nat := 0
  latency : Nat
  raw : List Nat := []
  fault : Bool := false
  deriving DecidableEq, Repr

def l32 (v : Vec) : List Nat := lanesOf 32 16 v.toNat
def vec32 (xs : List Nat) : Vec := vecOf 32 xs
def splat (b : Nat) : Vec := vec32 (List.replicate 16 b)

/-- Exact maximum of FP32 codes; NaN if any is (R208). -/
def fmaxL (xs : List Nat) : Nat := xs.foldl (fun a b => fp32.rne ((f32 a).max (f32 b))) kNegInf

/-- R258. -/
def smxm (x m : List Nat) : List Nat × List Nat × List Nat :=
  let cmax := fmaxL x
  let m1 := m.map fun a => fp32.rne ((f32 a).max (f32 cmax))
  let d := List.zipWith (fun xi mi =>
    if (f32 mi).isNan then kNan
    else if mi = kInf then (if xi = kInf then 0 else kNegInf)
    else if mi = kNegInf then kNegInf
    else fsub xi mi) x m1
  let dm := List.zipWith (fun a mi =>
    if (f32 mi).isNan then kNan
    else if mi = kInf then (if a = kInf then 0 else kNegInf)
    else if mi = kNegInf then 0
    else fsub a mi) m m1
  (m1, d, dm)

def smxs (s al p : List Nat) : List Nat :=
  List.zipWith (fun a b => fp32.rne (FV.sum (f32 (fmul a b) :: p.map f32))) s al

/-- R259. -/
def smxf (m s : List Nat) : List Nat :=
  List.zipWith (fun a b =>
    if (f32 a).isNan || (f32 b).isNan then kNan else if a = kNegInf then 0 else fdiv kOne b) m s

/-- Taking-part lanes of LSTAT and the partition programs (R263, R264). -/
def partLanes (x mask : List Nat) (all : Bool) : List Nat :=
  ((x.zip mask).filter fun p => all || p.2.testBit 31).map Prod.fst

def sumF (xs : List Nat) : FV := FV.sum (xs.map f32)
def divN (v : FV) (n : Nat) : Nat := fp32.rne (v.div (.fin false n 0))

/-- LSTAT (R264): mode, taking-part lanes with their centres, lane 0 of T[C] (log 50). -/
def lstat (mode : Nat) (ls : List (Nat × Nat)) (c0 : Nat) : Nat :=
  let xs := ls.map Prod.fst
  let n := xs.length
  match mode with
  | 0 => fofInt n
  | 1 => if n = 0 then 0 else divN (sumF xs) n
  | 2 => fp32.rne (FV.sum (ls.map fun p => let d := f32 (fsub p.1 p.2); d.mul d))
  | 3 => if n = 0 then 0 else divN (FV.sum (xs.map fun x => (f32 x).mul (f32 x))) n
  | 4 => fmaxL xs
  | _ => fp32.rne (FV.sum ((if n = 0 then [] else [sumF xs]) ++ [f32 c0]))

/-- A NaN becomes the canonical NaN (R124, R256). -/
def canonNan (b : Nat) : Nat := if (f32 b).isNan then kNan else b

/-- One lane of the triple merge (R265). -/
def mergeLane (an am a2 bn bm b2 : Nat) : Nat × Nat × Nat :=
  if (f32 an).isZero then (canonNan bn, canonNan bm, canonNan b2)
  else if (f32 bn).isZero then (canonNan an, canonNan am, canonNan a2)
  else
    let n := fadd an bn
    let dl := fsub bm am
    let w := fdiv bn n
    let mean := ffma dl w am
    let r := fdiv (fmul an bn) n
    (n, mean, fp32.rne (FV.sum [f32 a2, f32 b2, (f32 (fmul dl dl)).mul (f32 r)]))

def mergeMsqLane (an aq bn bq : Nat) : Nat × Nat :=
  if (f32 an).isZero then (canonNan bn, canonNan bq)
  else if (f32 bn).isZero then (canonNan an, canonNan aq)
  else
    let n := fadd an bn
    (n, fdiv (fp32.rne (FV.sum [(f32 an).mul (f32 aq), (f32 bn).mul (f32 bq)])) n)

/-! The micro-step engine (R238 to R245). -/

/-- Operands of a step over one lane: T[D], T[A], T[B], T[C] and INT32 views. -/
def negOf (v : FV) : FV := v.negate
def intFV (i : Int) : FV := .fin (i < 0) i.natAbs 0

/-- RRED on one lane: T[D] and the INT32 n. -/
def rred (y s0 s1 s2 : Nat) : Nat × Nat :=
  let v := f32 y
  if v.isNan || v.isInf then (y, 0)
  else
    let n := clampInt (FV.toIntSat .rne 80 (v.mul (f32 s0))) (-(2 ^ 30)) (2 ^ 30)
    let r := fp32.rne ((intFV (-n)).fma (f32 s1) v)
    (fp32.rne ((intFV (-n)).fma (f32 s2) (f32 r)), wrapInt 32 n)

/-- Scaling by a power of two, rounded once. -/
def scaleBy (b : Nat) (n : Int) : Nat := match f32 b with
  | .fin s m e => fp32.rne (.fin s m (e + n))
  | v => fp32.rne v

/-- EXPI MODE 2: exponent as INT32 and significand (R241). -/
def extract (b : Nat) : Nat × Nat :=
  match f32 b with
  | .nan => (0, kNan)
  | .inf n => (256, (if n then kNegZero else 0) + kOne)
  | .fin n m e =>
    if m = 0 then (wrapInt 32 (-256), (if n then kNegZero else 0) + kOne)
    else (wrapInt 32 (floorLog2 m e), fp32.rne (.fin n m (-(m.log2 : Int))))

/-- SEL conditions (R242). -/
def selHolds (cond y k : Nat) (emptyZero : Bool) : Bool :=
  let a := f32 y
  let b := f32 k
  let ok := !a.isNan && !b.isNan
  match cond with
  | 0x0 => ok && a.cmpNum b == .lt
  | 0x1 => ok && a.cmpNum b != .lt
  | 0x2 => ok && a.cmpNum b == .eq
  | 0x3 => ok && a.cmpNum b == .gt
  | 0x4 => ok && a.cmpNum b != .gt
  | 0x5 => a.isNan
  | 0x6 => y == kInf
  | 0x7 => y == kNegInf
  | 0x8 => a.isZero
  | 0x9 => y.testBit 31 && !a.isNan
  | 0xa => ltF a.abs kMinNormal
  | _ => emptyZero

/-- Sequencer state: temporaries, results so far, events, cycles. -/
structure Seq where
  t : List (List Nat)
  run : SfsRun
  deriving DecidableEq, Repr

/-- One micro-step other than END: the next sequencer state, or none for a step that raises the fault of R245. -/
def microStep (w : Nat) (sd : Nat → Nat) (va vd : Nat) (v : Nat → Vec) (emptyZero : Bool) (q : Seq) : Option Seq :=
  let d := bitsOf w 27 25
  let a := bitsOf w 24 22
  let b := bitsOf w 21 19
  let mode := bitsOf w 18 16
  let idx := bitsOf w 15 8
  let c := bitsOf w 10 8
  let aux := bitsOf w 7 0
  let ta := q.t.getD a []
  let tb := q.t.getD b []
  let tc := q.t.getD c []
  let td := q.t.getD d []
  let at3 := fun (f : Nat → Nat → Nat → Nat) => (List.range 16).map fun i => f (td.getD i 0) (ta.getD i 0) (tb.getD i 0)
  let put := fun (x : List Nat) (cyc : Nat) => { q with t := lset q.t d x, run := { q.run with latency := q.run.latency + cyc } }
  let put2 := fun (x y : List Nat) => let r := put x 4; { r with t := lset r.t ((d + 1) % 8) y }
  match bitsOf w 31 28 with
  | 0x1 =>
    if mode ≠ 0 then none
    else
      let o := ta.map fun y => rred y (sd idx) (sd (idx + 1)) (sd (idx + 2))
      some (put2 (o.map Prod.fst) (o.map Prod.snd))
  | 0x2 =>
    let nb := aux % 8 + 1
    match mode with
    | 0 => some (put (ta.map fun y => (sd (idx + bitsOf y 22 (23 - nb)) ^^^ (signOf y))) 4)
    | 1 => some (put (ta.map fun y => sd (idx + y % 2 ^ nb)) 4)
    | _ => none
  | 0x3 =>
    match mode with
    | 0 => some (put (at3 fun d a _ => ffma d a (sd idx)) 4)
    | 1 => some (put (at3 fun d a b => ffma d a b) 4)
    | 2 => some (put (at3 fun _ a b => fmul a b) 4)
    | 3 => some (put (at3 fun _ a b => fadd a b) 4)
    | 4 => some (put (at3 fun _ a _ => fmul a (sd idx)) 4)
    | 5 => some (put (at3 fun _ a b => fsub a b) 4)
    | _ => none
  | 0x4 =>
    match mode with
    | 0 => some (put (at3 fun d a _ =>
        let e := fp32.rne ((negOf (f32 a)).fma (f32 d) (f32 kOne))
        ffma d e d) 4)
    | 1 => some (put (at3 fun d a _ =>
        let e := fp32.rne ((negOf (f32 (fmul d d))).fma (f32 a) (f32 kOne))
        ffma (fmul 0x3f000000 d) e d) 4)
    | 2 => some (put (at3 fun _ a b => fdiv a b) 12)
    | 3 => some (put (at3 fun _ a _ => fsqrt a) 12)
    | _ => none
  | 0x5 =>
    match mode with
    | 0 => some (put (at3 fun _ a b => scaleBy a (sext 32 b)) 4)
    | 1 => some (put (at3 fun _ a b => scaleBy a (-(sext 32 b))) 4)
    | 2 => let o := ta.map extract; some (put2 (o.map Prod.fst) (o.map Prod.snd))
    | 3 => some (put (ta.map fun y => fofInt (sext 32 y)) 4)
    | _ => none
  | 0x6 =>
    let cond := aux % 16
    let pick1 := aux.testBit 4
    if mode > 1 || cond > 0xb || (mode = 1 && pick1) then none
    else
      let k := fun i => if mode = 0 then sd idx else tc.getD i 0
      let h := fun i => selHolds cond (ta.getD i 0) (k i) emptyZero
      let r := put ((List.range 16).map fun i => if h i then (if pick1 then sd (idx + 1) else tb.getD i 0) else td.getD i 0) 4
      let cnt := if aux.testBit 5 && h 0 then 1 else 0
      some { r with run := { r.run with
        masked := r.run.masked + (if aux / 64 = 0 then cnt else 0), empties := r.run.empties + (if aux / 64 = 1 then cnt else 0) } }
  | 0x7 =>
    if mode > 5 then none
    else
      let ls := ((List.range 16).filter fun i => aux.testBit 0 || (tb.getD i 0).testBit 31).map fun i => (ta.getD i 0, tc.getD i 0)
      some (put (List.replicate 16 (lstat mode ls (tc.getD 0 0))) 4)
  | 0x8 => if mode ≠ 0 || va + aux % 8 > 63 then none else some (put (l32 (v (va + aux % 8))) 4)
  | 0x9 =>
    if mode ≠ 0 || vd + aux % 8 > 63 then none
    else some { q with run := { q.run with outs := q.run.outs ++ [(aux % 8, vec32 ta)], latency := q.run.latency + 4 } }
  | _ => none

/-- Runs words from `p` on until END (R238), or until the step that raises the fault of R245. -/
def microRun (word : Nat → Nat) (sd : Nat → Nat) (va vd : Nat) (v : Nat → Vec) (emptyZero : Bool) : Nat → Nat → Seq → SfsRun
  | 0, _, q => { q.run with outs := [], fault := true }
  | n + 1, p, q =>
    let w := word p
    if bitsOf w 31 28 = 0 then
      let mode := bitsOf w 18 16
      if mode > 1 then { q.run with outs := [], fault := true }
      else
        let t := q.t.getD (bitsOf w 24 22) []
        { q.run with
          outs := q.run.outs ++ [(0, vec32 (if mode = 0 then t.map flush else t))], flushes := if mode = 0 then (t.filter flushed).length else 0
          latency := q.run.latency + 4, raw := t }
    else match microStep w sd va vd v emptyZero q with
      | none => { q.run with outs := [], fault := true }
      | some q => microRun word sd va vd v emptyZero n (p + 1) q

/-- The sequencer as VSFN starts it on the value of va (R238). -/
def Seq.start (x : Vec) : Seq := ⟨l32 x :: List.replicate 7 (List.replicate 16 0), { outs := [], latency := 0 }⟩

/-- What the factory words of a one-register program give for one lane, before the flush rule: their run, held to R254 to R256, which
the words meet (log 3). -/
def factoryLane (p b : Nat) : Nat :=
  confine p b ((microRun (fun i => (Config.factoryProgram i).toNat) (fun i => (Config.factorySeed (i % 256)).toNat) 0 0
    (fun _ => splat b) false (256 - p) p (Seq.start (splat b))).raw.getD 0 0)

/-- A shipped one-register program on one lane: bits and whether the lane was flushed. -/
def shippedLane (p b : Nat) : Nat × Bool :=
  match endOfRange p b with
  | some r => (r, false)
  | none =>
    let r := factoryLane p b
    (flush r, flushed r)

/-- A shipped program on registers `r` (offset from va) with EMPTY_ZERO. -/
def runShipped (p lat : Nat) (emptyZero : Bool) (r : Nat → Vec) : SfsRun :=
  let g := fun k => l32 (r k)
  let emptyV := if emptyZero then 0 else kNan
  match p with
  | 180 => let o := smxm (g 0) (g 1); { outs := [(0, vec32 o.1), (1, vec32 o.2.1), (2, vec32 o.2.2)], latency := lat }
  | 192 => { outs := [(0, vec32 (smxs (g 0) (g 1) (g 2)))], latency := lat }
  | 196 => { outs := [(0, vec32 (smxf (g 0) (g 1)))], masked := if (g 0).getD 0 0 = kNegInf && !(f32 ((g 1).getD 0 0)).isNan then 1 else 0, latency := lat }
  | 201 =>
    let ls := partLanes (g 0) (g 1) false
    let mean := lstat 1 (ls.map fun x => (x, 0)) 0
    { outs := [(0, splat (fofInt ls.length)), (1, splat mean), (2, splat (lstat 2 (ls.map fun x => (x, mean)) 0))], latency := lat }
  | 208 =>
    let o := (List.range 16).map fun i =>
      mergeLane ((g 0).getD i 0) ((g 1).getD i 0) ((g 2).getD i 0) ((g 3).getD i 0) ((g 4).getD i 0) ((g 5).getD i 0)
    { outs := [(0, vec32 (o.map fun t => t.1)), (1, vec32 (o.map fun t => t.2.1)), (2, vec32 (o.map fun t => t.2.2))], latency := lat }
  | 219 =>
    let e := fun i => (f32 ((g 0).getD i 0)).isZero
    { outs := [(0, vec32 ((List.range 16).map fun i => if e i then emptyV else canonNan ((g 1).getD i 0))),
        (1, vec32 ((List.range 16).map fun i => if e i then emptyV else fdiv ((g 2).getD i 0) ((g 0).getD i 0)))],
      empties := if e 0 then 1 else 0, latency := lat }
  | 225 =>
    let ls := partLanes (g 0) (g 1) false
    { outs := [(0, splat (fofInt ls.length)), (1, splat (lstat 3 (ls.map fun x => (x, 0)) 0))], latency := lat }
  | 229 =>
    let o := (List.range 16).map fun i => mergeMsqLane ((g 0).getD i 0) ((g 1).getD i 0) ((g 2).getD i 0) ((g 3).getD i 0)
    { outs := [(0, vec32 (o.map Prod.fst)), (1, vec32 (o.map Prod.snd))], latency := lat }
  | 236 =>
    let e := fun i => (f32 ((g 0).getD i 0)).isZero
    { outs := [(0, vec32 ((List.range 16).map fun i => if e i then emptyV else canonNan ((g 1).getD i 0)))],
      empties := if e 0 then 1 else 0, latency := lat }
  | p =>
    let o := (g 0).map (shippedLane p)
    { outs := [(0, vec32 (o.map Prod.fst))], flushes := (o.filter Prod.snd).length, latency := lat }

/-- The steps and latency of program `p` where the bank holds its factory words and the seed bank all of its own (R249, R254). -/
def CoreState.shipped? (x : CoreState) (img pb sb p : Nat) : Option (Nat × Nat) :=
  match shippedSize p with
  | some z => if x.factoryAt img 0 pb p z.1 && x.factoryAt img 1 sb 0 256 then some z else none
  | none => none

/-- A VSFN of program `p` on a core whose active banks are given. A factory program that would need a register above v63 raises its
fault at its END (log 3). -/
def sfsRun (x : CoreState) (img pb sb : Nat) (emptyZero : Bool) (p va vd : Nat) : SfsRun :=
  match x.shipped? img pb sb p with
  | some z =>
    let n := shippedRegs p
    if va + n.1 > 64 || vd + n.2 > 64 then { outs := [], latency := z.2, fault := true }
    else runShipped p z.2 emptyZero fun k => x.v (va + k)
  | none =>
    microRun (fun i => (x.sfsWord img 0 pb i).toNat) (fun i => (x.sfsWord img 1 sb i).toNat) va vd x.v emptyZero (256 - p) p
      (Seq.start (x.v va))

/-- Registers that the VGET steps from word `p` to END read. -/
def microReads (word : Nat → Nat) (va : Nat) : Nat → Nat → List Nat
  | 0, _ => []
  | n + 1, p =>
    let w := word p
    if bitsOf w 31 28 = 0 then []
    else if bitsOf w 31 28 = 8 then vReg (va + w % 8) :: microReads word va n (p + 1)
    else microReads word va n (p + 1)

/-- Registers a VSFN reads: poison of any of them poisons its results (R610). -/
def sfsReads (x : CoreState) (img pb sb p va : Nat) : List Nat :=
  match x.shipped? img pb sb p with
  | some _ => (List.range (shippedRegs p).1).map fun k => vReg (va + k)
  | none => vReg va :: microReads (fun i => (x.sfsWord img 0 pb i).toNat) va (256 - p) p

/-! VGACT (R233 to R235). -/

/-- Program number of an activation. -/
def actProgram (a : Nat) : Nat := match a with | 0 => 131 | 1 => 101 | 2 => 116 | _ => 76

/-- One lane: the activation of an FP32 value times the other operand, rounded once to the type. -/
def vgactVal (t fn : Nat) (va vb : Vec) : VOut :=
  let f := tyFmt t
  packOut (tyWidth t) (List.zipWith (fun a b =>
    let x := f.dec (if fn.testBit 0 then b else a)
    let y := f.dec (if fn.testBit 0 then a else b)
    let act := f32 (shippedLane (actProgram (bitsOf fn 3 1)) (fp32.rne x)).1
    fpOut f [x, y] (act.mul y)) (lanesTy t va) (lanesTy t vb))

end Sys2Proof.Machine
end

