-- ==== Sys2Proof/Machine/DresserMath.lean ====
section
/-!
DEFINITION. The arithmetic of the dresser (R365 to R379, R382 to R385) on FP32 and FP64 codes: schedule curves, the apply scalars,
directions, and Kron-block matrices.
-/
namespace Sys2Proof.Machine

def k64One : Nat := 0x3ff0000000000000

/-! Schedule (R368). -/

/-- The factory cos program on one value. -/
def cosF (b : Nat) : Nat := (shippedLane 168 b).1

/-- A knot (R367). -/
structure Knot where
  step : Nat
  kind : Nat
  lr : Nat
  wd : Nat
  deriving DecidableEq, Repr

def knotOf (n : Nat) : Knot := ⟨bitsOf n 39 0, bitsOf n 41 40, bitsOf n 95 64, bitsOf n 127 96⟩

/-- One curve between knots `x0` and `x1` at fraction `f`. -/
def curveAt (kind f h x0 x1 : Nat) : Nat :=
  match kind with
  | 0 => ffma f (fsub x1 x0) x0
  | 1 => ffma h (fsub x0 x1) x1
  | _ => x0

/-- Learning rate and weight decay at `t` steps from a group's start. -/
def curve (ks : List Knot) (t : Int) : Nat × Nat :=
  match ks.head?, ks.getLast? with
  | some a, some z =>
    if t ≤ a.step then (a.lr, a.wd)
    else if (z.step : Int) ≤ t then (z.lr, z.wd)
    else match (ks.zip (ks.drop 1)).find? fun p => (p.1.step : Int) ≤ t && t < (p.2.step : Int) with
      | some (x, y) =>
        let f := fdiv (fofInt (t - x.step)) (fofInt ((y.step : Int) - x.step))
        let h := if x.kind = 1 then fmul 0x3f000000 (fadd kOne (cosF (fmul f 0x40490fdb))) else 0
        (curveAt x.kind f h x.lr y.lr, curveAt x.kind f h x.wd y.wd)
      | none => (z.lr, z.wd)
  | _, _ => (0, 0)

/-- beta^t in FP64 by squaring. -/
def powGo : Nat → Nat → Nat → Nat → Nat
  | 0, _, _, p => p
  | n + 1, t, b, p => if t = 0 then p else powGo n (t / 2) (dmul b b) (if t % 2 = 1 then dmul p b else p)
/-- 1 - beta^t, the exact difference rounded once to FP32. -/
def biasCorr (beta t : Nat) : Nat :=
  fp32.rne ((f64 k64One).sub (f64 (powGo 64 t (fp64.rne (f32 beta)) k64One)))

/-- A beta in [0, 1), a constant above 0. -/
def betaOk (b : Nat) : Bool := geF (f32 b) (f32 0) && ltF (f32 b) (f32 kOne)
def positiveF (b : Nat) : Bool := ltF (f32 0) (f32 b)

/-- Do the knots rise strictly, each of a kind that R367 gives? -/
def knotsOk : List Knot → Bool
  | [] => true
  | [a] => a.kind < 3
  | a :: b :: r => a.kind < 3 && a.step < b.step && knotsOk (b :: r)

/-- A group record that the schedule pass accepts (R366, R368): B1 and B2 are judged where the group's rule uses them, N_IT and P where it has
a range for them, EPS, EPS_K and EPS_P in every group. -/
def groupOk (rec : List Byte) : Bool :=
  let u := fun o n => leNat ((rec.drop o).take n)
  let rule := u 0 1
  let kron := rule == 3
  rule ≤ 3 && 1 ≤ u 1 1 && u 1 1 ≤ 64 && betaOk (u 0x10 4) && (rule == 2 || betaOk (u 0x14 4)) &&
  [0x18, 0x20, 0x24].all (fun o => positiveF (u o 4)) && (!kron || (1 ≤ u 3 1 && u 3 1 ≤ 32 && 1 ≤ u 4 2))

/-- Entry of the value record for a group at step `n` (R369). -/
def valueEntry (n : Nat) (rec : List Byte) (ks : List Knot) : List Byte :=
  let u := fun o k => leNat ((rec.drop o).take k)
  let t : Int := (n : Int) - bitsOf (u 8 8) 39 0
  let active := decide (1 ≤ t)
  let c := curve ks t
  let usesV := u 0 1 == 0 || u 0 1 == 3
  let ibc := fun o => if active && usesV then fdiv kOne (biasCorr (u o 4) t.toNat) else kOne
  rec.take 0x28 ++ leBytes 8 ((if active then 2 ^ 63 else 0) + wrapInt 41 t) ++ leBytes 4 c.1 ++ leBytes 4 c.2 ++
    leBytes 4 (ibc 0x10) ++ leBytes 4 (ibc 0x14)

/-! Groups of a value record and the scalars of R375. -/

structure Group where
  rule : Nat
  trust : Bool
  msr : Bool
  nit : Nat
  period : Nat
  b1 : Nat
  b2 : Nat
  eps : Nat
  phiMax : Nat
  epsK : Nat
  epsP : Nat
  t : Int
  active : Bool
  lr : Nat
  wd : Nat
  ibc1 : Nat
  ibc2 : Nat
  deriving DecidableEq, Repr

def groupOf (e : List Byte) : Group :=
  let u := fun o k => leNat ((e.drop o).take k)
  ⟨u 0 1, (u 2 1).testBit 0, (u 2 1).testBit 1, u 3 1, u 4 2, u 0x10 4, u 0x14 4, u 0x18 4, u 0x1c 4, u 0x20 4, u 0x24 4,
    sext 41 (u 0x28 8), (u 0x28 8).testBit 63, u 0x30 4, u 0x34 4, u 0x38 4, u 0x3c 4⟩

/-- c, a, k, 1 - b1, 1 - b2 of a group. -/
structure Scal where
  c : Nat
  a : Nat
  k : Nat
  omb1 : Nat
  omb2 : Nat
  deriving DecidableEq, Repr

/-- The scalars with a clip factor and a trust ratio. -/
def scalOf (g : Group) (c phi : Nat) : Scal :=
  ⟨c, fmul g.lr phi, fsub kOne (fmul g.lr g.wd), fsub kOne g.b1, fsub kOne g.b2⟩

/-- The step is skipped: NG is NaN or +infinity (R375, R378). -/
def ngSkips (ng : Nat) : Bool := (f64 ng).isNan || ((f64 ng).isInf && !(f64 ng).neg?)
/-- Clip factor from NG and TAU. -/
def clipOf (ng tau : Nat) : Nat :=
  let nrm := f64 (dsqrt ng)
  if geF (f32 tau) nrm then kOne else fp32.rne ((f32 tau).div nrm)
/-- Trust ratio of a group from UN and WN. -/
def trustOf (g : Group) (un wn : Nat) : Nat :=
  if g.trust && ltF (f64 0) (f64 wn) && ltF (f64 0) (f64 un) then
    let q := fp32.rne ((f64 (dsqrt wn)).div (f64 (dsqrt un)))
    if (f32 q).isNan || (f32 q).isInf then kOne else fp32.rne ((f32 q).min (f32 g.phiMax))
  else kOne

/-! One element (R376). -/

/-- Direction, new m, new v of an element from its clipped gradient. -/
def elemDir (g : Group) (x : Scal) (gp m v : Nat) : Nat × Nat × Nat :=
  match g.rule with
  | 1 =>
    let y := ffma g.b1 m (fmul x.omb1 gp)
    let u := if (f32 y).isNan then kNan else if (f32 y).isZero then y else if (f32 y).neg? then 0xbf800000 else kOne
    (u, ffma g.b2 m (fmul x.omb2 gp), v)
  | 2 =>
    let m := ffma g.b1 m gp
    (ffma g.b1 m gp, m, v)
  | _ =>
    let m := ffma g.b1 m (fmul x.omb1 gp)
    let v := ffma g.b2 v (fmul x.omb2 (fmul gp gp))
    (fdiv (fmul m g.ibc1) (fadd (fsqrt (fmul v g.ibc2)) g.eps), m, v)

/-- New weight of an element: BF16 in, BF16 out. -/
def newWeight (x : Scal) (u w step gidx : Nat) : Nat :=
  let w32 := fp32.rne ((f32 x.a).negate.fma (f32 u) (f32 (fp32.rne ((bf16.dec w).mul (f32 x.k)))))
  srBf16 w32 (srDraw Config.jobSeed step 0 gidx)

/-- Sum of squares of 32 values rounded once to FP64 (R373). -/
def squares (xs : List FV) : Nat := fp64.rne (FV.sum (xs.map fun x => x.mul x))

def nonfin32 (b : Nat) : Bool := (f32 b).isNan || (f32 b).isInf

/-! Kron-block matrices (R382 to R385), rows of FP32 codes. -/

abbrev Mat := List (List Nat)

def Mat.el (x : Mat) (i j : Nat) : Nat := (x.getD i []).getD j 0
def matOf (f : Nat → Nat → Nat) : Mat := (List.range 32).map fun i => (List.range 32).map fun j => f i j
/-- Exact sum of products, zero-sign and special values as R156 gives them. -/
def dotF (xs ys : List Nat) : FV := FV.sum ((xs.zip ys).map fun p => (f32 p.1).mul (f32 p.2))
def Mat.col (x : Mat) (j : Nat) : List Nat := (List.range 32).map fun i => x.el i j
def matMul (x y : Mat) : Mat :=
  let cols := (List.range 32).map y.col
  (List.range 32).map fun i => cols.map fun c => fp32.rne (dotF (x.getD i []) c)

/-- The Cholesky test: columns found so far are rows `l[·][t]` of `cols`. -/
def cholGo (a : Mat) (epsP : Nat) : Nat → Nat → List (List Nat) → Bool
  | 0, _, _ => true
  | n + 1, j, cols =>
    let row := fun i => cols.map fun c => c.getD i 0
    let d := fp32.rne ((f32 (a.el j j)).sub (dotF (row j) (row j)))
    if !geF (f32 d) (f32 epsP) then false
    else
      let e := fsqrt d
      let c := (List.range 32).map fun i =>
        if j < i then fdiv (fp32.rne ((f32 (a.el i j)).sub (dotF (row i) (row j)))) e else 0
      cholGo a epsP n (j + 1) (cols ++ [c])
def cholOk (a : Mat) (epsP : Nat) : Bool := cholGo a epsP 32 0 []

def newtonGo : Nat → Mat → Mat → Mat × Mat
  | 0, y, z => (y, z)
  | n + 1, y, z =>
    let p := matMul z y
    let t := matOf fun i j => fmul 0x3f000000 (fsub (if i = j then 0x40400000 else 0) (p.el i j))
    newtonGo n (matMul y t) (matMul t z)
/-- Square root and inverse square root by coupled Newton iterations. -/
def rootPair (nit : Nat) (a : Mat) : Mat × Mat :=
  let tr := fp32.rne (FV.sum ((List.range 32).map fun i => f32 (a.el i i)))
  let r := newtonGo nit (matOf fun i j => fdiv (a.el i j) tr) (matOf fun i j => if i = j then kOne else 0)
  let rt := fsqrt tr
  (matOf fun i j => fmul (r.1.el i j) rt, matOf fun i j => fdiv (r.2.el i j) rt)

/-- The damped factor of a refresh. -/
def damped (g : Group) (x : Mat) : Mat :=
  matOf fun i j => let v := fmul (x.el i j) g.ibc2; if i = j then fadd v g.epsK else v
def rootOf (g : Group) (x : Mat) : Mat := (rootPair g.nit (rootPair g.nit (damped g x)).1).2
/-- A refresh: both roots, or none when a factor is singular. -/
def refreshRoots (g : Group) (gl gr : Mat) : Option (Mat × Mat) :=
  if cholOk (damped g gl) g.epsP && cholOk (damped g gr) g.epsP then some (rootOf g gl, rootOf g gr) else none

/-- A Gram factor with the step's gradient folded in, one rounding an element. -/
def foldGram (b2 : Nat) (x : Mat) (rows : List (List Nat)) : Mat :=
  matOf fun i j => fp32.rne (((f32 b2).mul (f32 (x.el i j))).add (dotF (rows.getD i []) (rows.getD j [])))

/-- Is a refresh of block `kb` due (R384)? -/
def refreshDue (g : Group) (kb : Nat) : Bool := (g.t - 1 - kb) % (g.period : Int) == 0

end Sys2Proof.Machine
end

