-- ==== Sys2Proof/Machine/Access.lean ====
section
/-!
DEFINITION. Who may reach the module: management requests (R575 to R577), CSR origins, and access errors (R10, R585).
-/
namespace Sys2Proof.Machine

/-- Which management die an access enters through. -/
def Origin.md' : Origin → Md
  | .host m => m
  | .session rq => rq.md
  | .same o => Origin.md' o
/-- The request that carries an access, when a session makes it. -/
def Origin.rq? : Origin → Option Rq
  | .host _ => none
  | .session rq => some rq
  | .same o => Origin.rq? o
/-- Does the access fall in the fabric cycle of the commands before it? -/
def Origin.inCycle : Origin → Bool
  | .same _ => true
  | _ => false
/-- An access comes in a fabric cycle of its own, or in the one in progress (log 56). -/
def State.enter (s : State) (o : Origin) : State := if (Origin.inCycle o) then s else s.newCycle

/-- Order of two management dies' writes to one register in one fabric cycle: MD0's first, and MD1's stands (R583). `old`: the register
before this write. -/
def State.ordered (s : State) (o : Origin) (k : Nat) (old : Word64) : State :=
  let s := { s with cycle := { s.cycle with soft := k :: s.cycle.soft } }
  if (Origin.md' o) = 0 then
    if s.cycle.writes.contains k then
      let rw := BitVec.ofNat 64 ((((blockOf (keyDie k) (keyBench k) (keyCore k)).bind fun b => regSpec b (keyOff k)).map RegSpec.rw).getD 0)
      s.setReg k ((s.reg k &&& ~~~rw) ||| (old &&& rw))
    else s
  else { s with cycle := { s.cycle with writes := k :: s.cycle.writes } }

/-- STATUS codes of R577. -/
def stOk : Nat := 0
def stDenied : Nat := 1
def stBusy : Nat := 2
def stDeferred : Nat := 3
def stMalformed : Nat := 4
def stRefused : Nat := 5
def stNotFound : Nat := 6

/-- The header of a request as authenticated data (R575) (log 48). -/
def rqHeader (rq : Rq) (ty : Nat) : List Byte :=
  [1#8, BitVec.ofNat 8 ty, 0#8, 0#8] ++ leBytes 4 rq.session.toNat ++ leBytes 8 rq.seq.toNat

def State.session? (s : State) (md id : Nat) : Option Session := s.mgt.sessions.find? fun x => x.md == md && x.id == id
def State.putSession (s : State) (x : Session) : State :=
  { s with mgt := { s.mgt with sessions := s.mgt.sessions.map fun y => if y.md == x.md && y.id == x.id then x else y } }
def State.dropSession (s : State) (md id : Nat) : State :=
  { s with mgt := { s.mgt with sessions := s.mgt.sessions.filter fun y => !(y.md == md && y.id == id) } }

/-- Discards a datagram and counts it (R575). -/
def State.discard (s : State) (md : Md) : State := s.countMd md 0xb9

/-- Sends a response and keeps it for the last 64 SEQ values answered (R576). -/
def State.reply (s : State) (rq : Rq) (status : Nat) (data : List Nat) : State :=
  let m : Msg := ⟨.reply, [rq.md.val, rq.session.toNat, rq.seq.toNat, status] ++ data⟩
  match s.session? rq.md rq.session.toNat with
  | some x =>
    let s := s.putSession { x with
      highest := some (max rq.seq.toNat (x.highest.getD 0)), answered := ((rq.seq.toNat, m) :: x.answered).take 64, requests := x.requests + 1, lastUse := s.now }
    { s with out := s.out ++ [m] }
  | none => { s with out := s.out ++ [m] }

/-- Does the tag of a datagram hold under the session's key? -/
def tagHolds (x : Session) (rq : Rq) (ty : Nat) : Bool :=
  Config.gcmTag x.rxKey rq.seq.toNat (rqHeader rq ty ++ rq.cipher) == rq.tag

/-- Judges a request of a type that needs a permission bit (R575 to R577): true when it is to be acted on (log 48). -/
def State.permit (s : State) (rq : Rq) (ty bit : Nat) : Bool × State :=
  match s.session? rq.md rq.session.toNat with
  | none => (false, s.discard rq.md)
  | some x =>
    if !x.opened || 2 ^ 32 ≤ x.requests || !tagHolds x rq ty then (false, s.discard rq.md)
    else match x.answered.find? fun p => p.1 == rq.seq.toNat with
      | some p => (false, { s with out := s.out ++ [p.2] })
      | none =>
        if (match x.highest with | some h => decide (h < rq.seq.toNat) | none => true) then
          if x.perms.getLsbD bit then (true, s) else (false, s.reply rq stDenied [])
        else (false, s.discard rq.md)

/-- Acts on an admitted request (log 48). -/
def State.onRequest (s : State) (rq : Rq) (ty bit : Nat) (f : State → State) : State :=
  let r := s.permit rq ty bit
  if r.1 then f r.2 else r.2

/-- Records an access error of a management die (R585). -/
def State.accessError (s : State) (md : Md) (cause addr : Nat) (read : Bool) : State :=
  let k := mdKey md 0x428
  let s := s.satFld k 63 32 1
  let s := s.countMd md 0xb5
  if s.fld k 3 3 = 1 then s
  else ((s.setFld k 2 0 cause).setFld k 3 3 1).setReg (mdKey md 0x430) (BitVec.ofNat 64 ((if read then 2 ^ 48 else 0) + addr % 2 ^ 48))

/-- Is the unit of a single-mode key absent or fenced (R10, R21, R585)? -/
def State.unitAbsent (s : State) (k : Nat) : Bool :=
  let gone := match finOf? 28 (keyDie k) with | some d => s.dieFenced d | none => false
  let off := match finOf? 28 (keyDie k), finOf? 180 (keyBench k) with | some d, some b => s.benchFenced ⟨d, b⟩ | _, _ => false
  match blockOf (keyDie k) (keyBench k) (keyCore k) with
  | none => true
  | some .core => gone || off
  | some .bench => gone || off
  | some .compute => gone
  | some .hub => false
  | some .mgmt => false

/-- Access mode of a CSR address (R8). -/
def addrMode (addr : Nat) : Nat := addr / 2 ^ 38 % 4

/-- Does a chord or strum address name units at all (R11)? (log 42) -/
def State.broadcastOk (s : State) (addr : Nat) : Bool :=
  let d := keyDie addr
  let b := keyBench addr
  let c := keyCore addr
  if addrMode addr = 1 then (d < 28 || d == 0x3f) && c ≤ 64 && !(match finOf? 28 d with | some x => s.dieFenced x | none => false)
  else if d < 28 || d = 0x3f then
    if b = 0xf0 then c == 0 else (b < 180 || b == 0xff) && (c ≤ 64 || c == 0x7f)
  else (blockOf d b c).isSome

/-- CAUSE of an access error, 0 when there is none (R585); the lowest of those that hold. DESIGN CHOICE (log 42): R585 names no cause for an
address whose bits [47:40] are not 0xFF; it gets cause 3 here, ahead of mode 0b11. -/
def State.accessCause (s : State) (addr : Nat) (read : Bool) : Nat :=
  if addr % 8 != 0 then 1
  else if addr / 2 ^ 40 != 0xff then 3
  else if addrMode addr = 3 then 2
  else if addrMode addr = 0 then (if s.unitAbsent (addr % 2 ^ 38) then 3 else 0)
  else if !s.broadcastOk addr then 3
  else if read then 4 else 0

/-- A single-mode write through an origin: CAUSE of its access error, or 0; the register's own rule may discard it (R582, R585). -/
def State.tryWrite (s : State) (o : Origin) (addr : Nat) (f : State → Bool × State) : Nat × State :=
  let s := s.enter o
  let c := s.accessCause addr false
  if c != 0 then (c, s.accessError (Origin.md' o) c addr false)
  else
    let k := storeKey (addr % 274877906944)
    let r := f s
    if r.1 then (5, r.2.accessError (Origin.md' o) 5 addr false) else (0, r.2.ordered o k (s.reg k))

/-- The same, with the answer that a session's request gets (R577) (log 42). -/
def State.originWrite (s : State) (o : Origin) (addr : Nat) (f : State → Bool × State) : State :=
  match Origin.rq? o with
  | none => (s.tryWrite o addr f).2
  | some rq => s.onRequest rq 0x11 1 fun s =>
      let r := s.tryWrite o addr f
      if r.1 = 0 then r.2.reply rq stOk [] else r.2.reply rq stRefused [r.1]

/-- The single-mode address of a key (R8). -/
def keyAddr (k : Nat) : Nat := 0xff0000000000 + k

end Sys2Proof.Machine
end

