-- ==== Sys2Proof/Machine/Array.lean ====
section
/-!
DEFINITION. The bench array: operand units, step shape, the column adder and where results land (R146 to R173).
-/
namespace Sys2Proof.Machine

/-- Class of an array format code (R149): 0 16-bit, 1 FP8, 2 MXFP8, 3 MX sub-byte, 4 INT8. -/
def arrayClass (code : Nat) : Nat := if code ≤ 1 then 0 else if code ≤ 3 then 1 else if code ≤ 5 then 2 else if code ≤ 8 then 3 else 4
def isMx (code : Nat) : Bool := 4 ≤ code && code ≤ 8
/-- Activation rows of a step, M_s (R149). -/
def stepRows (code : Nat) (wide : Bool) : Nat :=
  let m := if arrayClass code = 0 then 4 else if arrayClass code = 3 then 16 else 8
  if wide then m / 4 else m
/-- Output units per sum line, U (R154). -/
def stepUnits (code : Nat) (wide : Bool) : Nat := if wide then stepRows code true else stepRows code false / 4
/-- Element width in bits (R98, R150). -/
def elemBits (code : Nat) : Nat :=
  if code ≤ 1 then 16 else if code = 6 || code = 7 then 6 else if code = 8 then 4 else 8
/-- Value of an element code of an array format; an MX element without its scale. -/
def elemVal (code n : Nat) : FV :=
  match code with
  | 0 => bf16.dec n
  | 1 => fp16.dec n
  | 2 => e4m3.dec n
  | 3 => e5m2.dec n
  | 9 => let i := sext 8 n; .fin (i < 0) i.natAbs 0
  | k => (mxElem k).1.dec n

/-- Element `e` of a unit of width `w`. -/
def unitElem (w bits e : Nat) : Nat := (bits >>> (w * e)) % 2 ^ w

/-- One scaled product (R156, R161): an integer zero has no sign; a scale of 0xFF is a NaN. -/
def arrayTerm (ca cw a w xa xw : Nat) : FV :=
  if xa = 0xff || xw = 0xff then .nan
  else match (elemVal ca a).mul (elemVal cw w) with
    | .fin n m e => if ca = 9 && m = 0 then .fin false 0 0 else .fin n m (e + scaleExp xa + scaleExp xw)
    | v => v

/-- Shape of a step from the reference MSTEP: square 0, transposed 1, wide-shallow 2. -/
def stepKind (mode : Nat) (t : Bool) : Nat := if mode = 1 then 2 else if t then 1 else 0

/-- Feeder core of broadcast line `l` (R148). -/
def feederOf (kind feed l : Nat) : Nat := if kind = 0 then 8 * l + feed else if kind = 1 then 8 * feed + l else 32 * l + feed
/-- Is a core a feeder? -/
def isFeeder (kind feed core : Nat) : Bool :=
  if kind = 0 then core % 8 == feed else if kind = 1 then core / 8 == feed else core % 8 == feed && (core / 8) % 4 == 0

/-- Number of sum lines. -/
def sumLines (kind : Nat) : Nat := if kind = 2 then 32 else 8
/-- Receiving core of a slot on a sum line (R154). -/
def receiver (kind line slot : Nat) : Nat :=
  if kind = 0 then 8 * slot + line
  else if kind = 1 then 8 * line + slot
  else 8 * (line / 8 + 4 * (slot / 4)) + line % 8

/-- Cells of a sum line with the broadcast line of each (R147, R163, R164). -/
def lineCells (kind line : Nat) : List (Nat × Nat) :=
  if kind = 0 then (List.range 8).map fun r => (8 * r + line, r)
  else if kind = 1 then (List.range 8).map fun c => (8 * line + c, c)
  else [(8 * (line / 8) + line % 8, 0), (8 * (line / 8 + 4) + line % 8, 1)]

/-- Terms per cell: 4, or 16 in wide-shallow steps. -/
def cellTerms (kind : Nat) : Nat := if kind = 2 then 16 else 4

def voteAt (vs : List MVote) (core : Nat) : Option MVote := vs.find? fun v => v.core == core

/-- Mask word a core applies: its own where its MSTEP sets M (R170). -/
def MVote.effMask (v : MVote) : Nat := if v.m then v.mask.toNat else 0
def MVote.cellMasked (v : MVote) : Bool := v.effMask.testBit 16

/-- Is row `m` fed (R170)? The line 0 feeder's mask decides. -/
def rowMasked (kind feed : Nat) (vs : List MVote) (m : Nat) : Bool :=
  match voteAt vs (feederOf kind feed 0) with
  | some v => v.effMask.testBit m
  | none => false

/-- The terms of output column `j` of row `m` on a sum line. -/
def outputTerms (kind feed code : Nat) (vs : List MVote) (line m j : Nat) : List FV :=
  let w := elemBits code
  let n := cellTerms kind
  let xa := if isMx code then match voteAt vs (feederOf kind feed 0) with
      | some v => (v.feed.toNat >>> (8 * (48 + m))) % 256
      | none => 127
    else 127
  ((lineCells kind line).map fun (cell, bl) =>
    match voteAt vs cell, voteAt vs (feederOf kind feed bl) with
    | some cv, some fv =>
      if cv.cellMasked then []
      else match cv.active with
        | none => []
        | some t =>
          (List.range n).map fun k =>
            let a := unitElem w fv.feed.toNat (n * m + k)
            let e := if kind = 1 then 4 * j + k else 4 * k + j
            let col := if kind = 1 then k else j
            let xw := if isMx code then (cv.scales.toNat >>> (8 * col)) % 256 else 127
            arrayTerm code t.fmt a (unitElem (elemBits t.fmt) t.bits.toNat e) xa xw
    | _, _ => []).flatten

/-- Is any operand of the outputs of a sum line poisoned (R610)? -/
def lineBadOps (kind feed code : Nat) (vs : List MVote) (line : Nat) : Bool :=
  (match voteAt vs (feederOf kind feed 0) with
    | some v => (v.m && v.maskBad) || (isMx code && v.feedBad)
    | none => false) ||
  (lineCells kind line).any fun (cell, bl) =>
    match voteAt vs cell, voteAt vs (feederOf kind feed bl) with
    | some cv, some fv =>
      (cv.m && cv.maskBad) || (!cv.cellMasked && (fv.feedBad || (isMx code && cv.scalesBad) ||
        (match cv.active with | some t => t.bad | none => false)))
    | _, _ => false

/-- FP32 element `e` of a tile (R155). -/
def tileElem (t : Vec) (e : Nat) : Nat := (t.toNat >>> (32 * e)) % 2 ^ 32
def tilePut (t : Vec) (e n : Nat) : Vec :=
  let m := BitVec.ofNat 512 ((2 ^ 32 - 1) <<< (32 * e))
  (t &&& ~~~m) ||| (BitVec.ofNat 512 ((n % 2 ^ 32) <<< (32 * e)))

/-- Where unit `u` of a step lands on a sum line: receiving core and slot. -/
def StepRec.slot (r : StepRec) (u : Nat) : Nat := (r.rot + u) % 8
/-- The reference MSTEP: that of the lowest-numbered core that issued. -/
def StepRec.code (r : StepRec) : Nat := match r.votes with | v :: _ => v.fmt | [] => 0
def StepRec.kind (r : StepRec) : Nat := match r.votes with | v :: _ => stepKind r.mode v.t | [] => 0
/-- Receiving cores of a step. -/
def StepRec.receivers (r : StepRec) : List Nat :=
  ((List.range (sumLines r.kind)).map fun l =>
    (List.range (stepUnits r.code (r.kind == 2))).map fun u => receiver r.kind l (r.slot u)).flatten.eraseDups

/-- MODE and FEED of BENCH_ARRAY_CFG (R174). -/
def State.arrayMode (s : State) (b : BenchId) : Nat := s.fld (benchKey b 0x200) 1 0
def State.feed (s : State) (b : BenchId) : Nat := s.fld (benchKey b 0x200) 4 2

/-- Rows of unit `u`: row of the step and row of the tile. -/
def unitRows (kind u slot : Nat) : List (Nat × Nat) :=
  if kind = 2 then [(u, slot % 4)] else (List.range 4).map fun i => (4 * u + i, i)

/-- A tile after one unit of a step: new tile, poison, NaN results and overflows; none when every row of the unit is masked. -/
def unitResult (r : StepRec) (feed line u : Nat) (z : Bool) (old : Vec) (oldBad : Bool) (q : Vec) (qBad : Bool) : Option (Vec × Bool × Nat × Nat) :=
  let kind := r.kind
  let code := r.code
  let rows := (unitRows kind u (r.slot u)).filter fun p => !rowMasked kind feed r.votes p.1
  if rows.isEmpty then none
  else
    let outs := (rows.map fun p => (List.range 4).map fun j =>
      let ts := outputTerms kind feed code r.votes line p.1 j
      let e := 4 * p.2 + j
      let qv := f32 (tileElem q e)
      let v := FV.sum (if z then ts else ts ++ [qv])
      (e, fp32.rne v, !v.isInf)).flatten
    let t := outs.foldl (fun t o => tilePut t o.1 o.2.1) old
    let whole := rows.length = 4
    some (t, lineBadOps kind feed code r.votes line || (!z && qBad) || (!whole && oldBad),
      (outs.filter fun o => o.2.1 = fp32.nanCode).length, (outs.filter fun o => o.2.2 && o.2.1 % 2 ^ 31 = fp32.infCode).length)

/-- Core `i` of a bench. -/
def coreOf (b : BenchId) (i : Nat) : CoreId := b.coreAt (Fin.ofNat 64 i)

/-- Reads the partials of a step: the tile each receiving core's MSTEP named (R168). -/
def State.readPartials (s : State) (b : BenchId) (r : StepRec) : StepRec :=
  match r.partials with
  | some _ => r
  | none => { r with partials := some (r.receivers.foldl (fun m i =>
      match voteAt r.votes i with
      | some v =>
        let x := s.core (coreOf b i)
        nset m i (x.a v.tile, x.pz (aReg v.tile))
      | none => m) []) }

/-- Writes the results of one step, or poisons the tiles of a faulted one (R167, R173); in a core that halted meanwhile they are poisoned
(R117). -/
def State.writeStep (s : State) (b : BenchId) (r : StepRec) : State :=
  let feed := r.feed
  let kind := r.kind
  if r.fault then
    r.receivers.foldl (fun s i => match voteAt r.votes i with
      | some v => s.updCore (coreOf b i) fun x => x.setA v.tile (x.a v.tile) true
      | none => s) s
  else
    ((List.range (sumLines kind)).map fun l => (List.range (stepUnits r.code (kind == 2))).map fun u => (l, u)).flatten.foldl
      (fun s (l, u) =>
        let i := receiver kind l (r.slot u)
        match voteAt r.votes i with
        | none => s
        | some v =>
          let x := s.core (coreOf b i)
          let q := nget (r.partials.getD []) i (x.a v.tile, x.pz (aReg v.tile))
          let halted := r.bad.contains i
          match unitResult r feed l u v.z (x.a v.tile) (x.pz (aReg v.tile)) q.1 q.2 with
          | none => s
          | some (t, bad, nans, ovs) =>
            let s := (s.setCore (coreOf b i) (x.setA v.tile t (bad || halted))).freshReg (coreOf b i) (aReg v.tile)
            (s.countBench b 0x26 none nans).countBench b 0x27 none ovs) s

/-- Oldest step first: writes every step whose results are due before cycle `t` (R167, R168). -/
def State.writeStepsGo (s : State) (b : BenchId) (t : Nat) : Nat → State
  | 0 => s
  | n + 1 =>
    match (s.bench b).steps with
    | [] => s
    | r :: rest =>
      if r.issue + 7 < t then
        let due := ((r :: rest).filter fun q => q.partials.isNone && decide (q.issue + 4 ≤ r.issue + 7))
        let s := due.foldl (fun s q => q.receivers.foldl (fun s i => match voteAt q.votes i with
          | some v => s.checkRegs (coreOf b i) [aReg v.tile]
          | none => s) s) s
        let upd := (r :: rest).map fun q => if q.issue + 4 ≤ r.issue + 7 then s.readPartials b q else q
        match upd with
        | r :: rest => ((s.updBench b fun x => { x with steps := rest }).writeStep b r).writeStepsGo b t n
        | [] => s
      else s
def State.writeSteps (s : State) (b : BenchId) (t : Nat) : State := s.writeStepsGo b t (s.bench b).steps.length

/-- Records the first array-step fault of a segment and reports it (R173, R175). -/
def State.arrayFault (s : State) (b : BenchId) (cause core : Nat) : State :=
  let s := s.countBench b 0x28 none 1
  let s := if (s.bench b).arrFaulted then s
    else (s.setReg (benchKey b 0x208) (faultWord (cause + 8 + core * 16) s.stepNo)).updBench b fun x => { x with arrFaulted := true }
  s.benchDeadline b

/-- Counts a step's work (R171): MACs in units of 16. -/
def State.countStep (s : State) (b : BenchId) (r : StepRec) : State :=
  let kind := r.kind
  let rows := stepRows r.code (kind == 2)
  let live := ((List.range rows).filter fun m => !rowMasked kind r.feed r.votes m).length
  let cells := (r.votes.filter fun v => !v.cellMasked).length
  let per := if kind = 2 then 4 else 1
  let done := live * cells * per
  let s := (s.countBench b 0x20 none 1).countBench b 0x21 none done
  let s := s.countBench b 0x22 none (rows * 64 * per - done)
  let s := if live = 0 then s.countBench b 0x23 none 1 else s
  let s := if kind = 1 then s.countBench b 0x24 none 1 else s
  let s := if kind = 2 then s.countBench b 0x25 none 1 else s
  if r.votes.any MVote.m then s.countBench b 0x2e none 1 else s

/-- Closes the array step of the cycle in which the votes were cast (R146, R154, R173). -/
def State.closeStep (s : State) (b : BenchId) : State :=
  let x := s.bench b
  let vs := x.mvotes
  match vs with
  | [] => s
  | ref :: _ =>
    let mode := s.arrayMode b
    let rot := s.fld (benchKey b 0x200) 10 8
    let missing := (List.range 64).find? fun i => (voteAt vs i).isNone
    let differs := vs.find? fun v => v.fmt != ref.fmt || v.t != ref.t
    let pairing := vs.find? fun v => match v.active with
      | some t => arrayClass t.fmt != arrayClass v.fmt
      | none => false
    let empty := vs.find? fun v => v.active.isNone
    let fault : Option (Nat × Nat) := match missing with
      | some i => some (1, i)
      | none => match differs with
        | some v => some (2, v.core)
        | none => match pairing with
          | some v => some (3, v.core)
          | none => empty.map fun v => (4, v.core)
    let halted := (vs.filter fun v => (s.core (coreOf b v.core)).hold == .halted).map MVote.core
    let r : StepRec := ⟨x.mcycle, rot, mode, s.feed b, vs, fault.isSome, halted, none⟩
    let s := s.setBench b { x with mvotes := [], steps := x.steps ++ [r] }
    let s := s.setFld (benchKey b 0x200) 10 8 ((rot + stepUnits r.code (r.kind == 2)) % 8)
    match fault with
    | some f => s.arrayFault b f.1 f.2
    | none => s.countStep b r

end Sys2Proof.Machine
end

