-- ==== Sys2Proof/Machine/Ring.lean ====
section
/-!
DEFINITION. Bench-ring operations: reductions in scope 1 and 2 and chained scans over the 64 cores of a bench (R224 to R226, R231).
-/
namespace Sys2Proof.Machine

/-- Counts vector exceptions of a class (R589) (log 50). -/
def State.countExc (s : State) (c : CoreId) (cls : Nat) (e : List Nat) : State :=
  (List.range 4).foldl (fun s k => s.countCore c (0x10 + 4 * cls + k) (e.getD k 0)) s

/-- Vector-slot opcodes of the ring. -/
def opVred : Nat := 0x0a

/-- Records the first ring fault of a segment and reports it (R226, R237). -/
def State.ringFault (s : State) (b : BenchId) (cause core : Nat) : State :=
  let s := s.countBench b 0x2a none 1
  let s := if (s.bench b).ringFaulted then s
    else (s.setReg (benchKey b 0x218) (faultWord (cause + 8 + core * 16) s.stepNo)).updBench b fun x => { x with ringFaulted := true }
  s.benchDeadline b

/-- The value one core gives a ring reduction at each lane, and whether it counts an empty reduction (R225). -/
def ringGive (v : RVote) : List Nat × Bool :=
  let op := v.func % 4
  let msk := v.func.testBit 2
  if v.func / 8 = 2 then
    let r := laneRed v.ty op msk v.va v.vb
    ([r.1], r.2)
  else
    let on := (List.range (tyLanes v.ty)).map fun i => takesPart v.ty msk v.vb i
    ((List.range (tyLanes v.ty)).map fun i =>
      if on.getD i false then (lanesTy v.ty v.va).getD i 0 else redIdent v.ty op, !on.any id)

/-- A ring reduction's result register (R221, R224). -/
def ringResult (vs : List RVote) (ty func : Nat) : Vec :=
  let gs := vs.map fun v => (ringGive v).1
  let op := func % 4
  let tree := fun i => treeFold (redNode ty op) 0 (gs.map fun g => g.getD i 0)
  if func / 8 = 2 then redSpread ty (tree 0)
  else vecOf (tyWidth ty) ((List.range (tyLanes ty)).map tree)

/-- Exceptions of a ring reduction in one core's destination (log 50). -/
def ringExc (vs : List RVote) (ty func : Nat) (val : Vec) : List Nat :=
  let gs := vs.map fun v => (ringGive v).1
  (lanesTy (redTy ty) val).zipIdx.foldl (fun e r =>
    addExc e (resExc ty 1 (gs.map fun g => g.getD (if func / 8 = 2 then 0 else r.2) 0) r.1)) [0, 0, 0, 0]

/-- Results of a chained scan in core order with its exceptions, each with the poison of every core up to it (R231). -/
def chainGo (ty op : Nat) : List RVote → Option Nat → Bool → List (RVote × List Nat × List Nat × Bool)
  | [], _, _ => []
  | v :: vs, c, p =>
    let y := scanVal ty op v.va v.vb c
    (v, y, scanExc ty op v.va v.vb c y, p || v.poison) :: chainGo ty op vs (some (y.getD 15 0)) (p || v.poison)

/-- Poisons the destination registers of a broken operation. -/
def State.ringPoison (s : State) (b : BenchId) (vs : List RVote) : State :=
  vs.foldl (fun s v => s.updCore (b.coreAt (Fin.ofNat 64 v.core)) fun x => x.markReg (vReg v.vd) true) s

/-- Closes the ring operation of the cycle in which its votes were cast. -/
def State.closeRing (s : State) (b : BenchId) : State :=
  let x := s.bench b
  let vs := x.rvotes
  match vs with
  | [] => s
  | ref :: _ =>
    let t := x.rcycle
    let missing := (List.range 64).find? fun i => !(vs.any fun v => v.core == i)
    let differs := vs.find? fun v => v.op != ref.op || v.func != ref.func || v.ty != ref.ty
    let fault : Option (Nat × Nat) := match missing with
      | some i => some (1, i)
      | none => match differs with
        | some v => some (2, v.core)
        | none => if t < x.ringHeld then some (3, ref.core) else none
    let s := s.setBench b { x with rvotes := [] }
    match fault with
    | some f => (s.ringPoison b vs).ringFault b f.1 f.2
    | none =>
      let s := s.countBench b 0x29 none 1
      let post := fun (s : State) (v : RVote) (dst : Dst) (val : Vec) (bad : Bool) =>
        s.updCore (b.coreAt (Fin.ofNat 64 v.core)) fun c =>
          c.addResult ⟨t + v.late - 1, 2, dst, val, bad || c.hold == .halted, c.region.isSome⟩
      if ref.op = opVred then
        let s := s.updBench b fun x => { x with ringHeld := t + 8 }
        let val := ringResult vs ref.ty ref.func
        let bad := vs.any RVote.poison
        let exc := ringExc vs ref.ty ref.func val
        vs.foldl (fun s v =>
          let s := s.countExc (b.coreAt (Fin.ofNat 64 v.core)) 2 exc
          let s := if (ringGive v).2 then s.countBench b 0x43 (some v.core) 1 else s
          post s v (.v v.vd) val bad) s
      else
        let s := (s.updBench b fun x => { x with ringHeld := t + ref.late }).countBench b 0x48 none 1
        let c0 := if ref.func.testBit 2 then some ref.carry.toNat else none
        (chainGo ref.ty (ref.func % 4) vs c0 false).foldl (fun s r =>
          let s := s.countExc (b.coreAt (Fin.ofNat 64 r.1.core)) 2 r.2.2.1
          let s := post s r.1 (.v r.1.vd) (vecOf 32 r.2.1) r.2.2.2
          post s r.1 (.carry s.job.segStart) (BitVec.ofNat 512 (r.2.1.getD 15 0)) r.2.2.2) s

/-- Adds a core's vote in core order. -/
def insertRVote : List RVote → RVote → List RVote
  | [], v => [v]
  | q :: qs, v => if v.core < q.core then v :: q :: qs else q :: insertRVote qs v
def insertMVote : List MVote → MVote → List MVote
  | [], v => [v]
  | q :: qs, v => if v.core < q.core then v :: q :: qs else q :: insertMVote qs v

end Sys2Proof.Machine
end

