-- ==== Sys2Proof/Machine/Hash.lean ====
section
/-!
DEFINITION. The hashes the spec names: SHA3-256 and SHAKE256 (FIPS 202), used for tab sections (R34, R35), measurements and keys
(R541, R550), and CRC-32 with polynomial 0x04C11DB7 (R421, R568).
-/
namespace Sys2Proof.Machine

/-- Lane rotations of the permutation, lane x + 5y. -/
def keccakRot : List Nat :=
  [0, 1, 62, 28, 27, 36, 44, 6, 55, 20, 3, 10, 43, 25, 39, 41, 45, 15, 21, 8, 18, 2, 61, 56, 14]

def keccakRc : List (BitVec 64) :=
  [0x0000000000000001, 0x0000000000008082, 0x800000000000808a, 0x8000000080008000, 0x000000000000808b, 0x0000000080000001,
   0x8000000080008081, 0x8000000000008009, 0x000000000000008a, 0x0000000000000088, 0x0000000080008009, 0x000000008000000a,
   0x000000008000808b, 0x800000000000008b, 0x8000000000008089, 0x8000000000008003, 0x8000000000008002, 0x8000000000000080,
   0x000000000000800a, 0x800000008000000a, 0x8000000080008081, 0x8000000000008080, 0x0000000080000001, 0x8000000080008008]

def lane (a : List (BitVec 64)) (i : Nat) : BitVec 64 := a.getD i 0

/-- One round of Keccak-f[1600]. -/
def keccakRound (a : List (BitVec 64)) (rc : BitVec 64) : List (BitVec 64) :=
  let c := (List.range 5).map fun x => lane a x ^^^ lane a (x + 5) ^^^ lane a (x + 10) ^^^ lane a (x + 15) ^^^ lane a (x + 20)
  let d := (List.range 5).map fun x => lane c ((x + 4) % 5) ^^^ (lane c ((x + 1) % 5)).rotateLeft 1
  let t := (List.range 25).map fun i => lane a i ^^^ lane d (i % 5)
  let b := (List.range 25).map fun j =>
    let x := (j % 5 + 3 * (j / 5)) % 5
    let i := x + 5 * (j % 5)
    (lane t i).rotateLeft (keccakRot.getD i 0)
  (List.range 25).map fun i =>
    let y := i / 5 * 5
    let v := lane b i ^^^ (~~~(lane b (y + (i + 1) % 5)) &&& lane b (y + (i + 2) % 5))
    if i = 0 then v ^^^ rc else v

def keccakF (a : List (BitVec 64)) : List (BitVec 64) := keccakRc.foldl keccakRound a

/-- Rate of SHA3-256 and SHAKE256 in bytes. -/
def spongeRate : Nat := 136

def padSponge (suffix : Byte) (m : List Byte) : List Byte :=
  let z := spongeRate - 1 - m.length % spongeRate
  if z = 0 then m ++ [suffix ||| 0x80#8] else m ++ [suffix] ++ List.replicate (z - 1) 0#8 ++ [0x80#8]

/-- Lane `i` of a block that starts at byte `o`, rest of the message in `m`. -/
def blockLanes (m : List Byte) : List (BitVec 64) :=
  (List.range 25).map fun i => if i < 17 then BitVec.ofNat 64 (leNat ((m.drop (8 * i)).take 8)) else 0

def absorbGo : Nat → List Byte → List (BitVec 64) → List (BitVec 64)
  | 0, _, a => a
  | n + 1, m, a =>
    let bl := blockLanes (m.take spongeRate)
    absorbGo n (m.drop spongeRate) (keccakF ((List.range 25).map fun i => lane a i ^^^ lane bl i))

def squeezeBlock (a : List (BitVec 64)) : List Byte := ((a.take 17).map fun l => leBytes 8 l.toNat).flatten

def squeezeGo : Nat → List (BitVec 64) → List Byte
  | 0, _ => []
  | n + 1, a => squeezeBlock a ++ squeezeGo n (keccakF a)

def sponge (suffix : Byte) (m : List Byte) (out : Nat) : List Byte :=
  let p := padSponge suffix m
  (squeezeGo ((out + spongeRate - 1) / spongeRate) (absorbGo (p.length / spongeRate) p (List.replicate 25 0))).take out

def sha3 (m : List Byte) : List Byte := sponge 0x06#8 m 32
def shake256 (m : List Byte) (out : Nat) : List Byte := sponge 0x1f#8 m out

/-- CRC-32 with polynomial 0x04C11DB7, reflected, initial value and final complement all ones (IEEE 802.3; log 11). -/
def crcByte (c : BitVec 32) (b : Byte) : BitVec 32 :=
  (List.range 8).foldl (fun c _ => if c.getLsbD 0 then (c >>> 1) ^^^ 0xedb88320#32 else c >>> 1) (c ^^^ b.setWidth 32)
def crc32 (m : List Byte) : BitVec 32 := ~~~(m.foldl crcByte 0xffffffff#32)

end Sys2Proof.Machine
end

