-- ==== Sys2Proof/Machine/TabImage.lean ====
section
/-!
DEFINITION. The tab image: header (R34), section table (R35, R613), and the layouts of its sections (R43, R71, R435, R490, R614
to R620) as records read from its bytes.
-/
namespace Sys2Proof.Machine

/-- Byte `o` of an image. -/
def tabByte (g : TabImage) (o : Nat) : Byte := nget g.bytes o 0
def tabBytes (g : TabImage) (o n : Nat) : List Byte := (List.range n).map fun i => tabByte g (o + i)
/-- Little-endian number of `n` bytes. -/
def tabU (g : TabImage) (o n : Nat) : Nat := leNat (tabBytes g o n)

def hdrModules (g : TabImage) : Nat := tabU g 0x00a 2
def hdrSegments (g : TabImage) : Nat := tabU g 0x00c 4
def hdrStepNs (g : TabImage) : Nat := tabU g 0x010 8
def hdrSections (g : TabImage) : Nat := tabU g 0x018 4
def hdrSectOff (g : TabImage) : Nat := tabU g 0x020 8
def hdrBuckets (g : TabImage) : Nat := tabU g 0x028 1
def hdrPolicy (g : TabImage) : Nat := tabU g 0x029 1
/-- TAB_ID as four u64 (R40). -/
def hdrTabId (g : TabImage) (i : Nat) : Nat := tabU g (0x060 + 8 * i) 8
def hdrTabId256 (g : TabImage) : BitVec 256 := BitVec.ofNat 256 (tabU g 0x060 32)

/-- A section-table entry (R35). -/
structure Sect where
  ty : Nat
  mod : Nat
  var : Nat
  off : Nat
  len : Nat
  pos : Nat
  deriving DecidableEq, Repr

def sectAt (g : TabImage) (i : Nat) : Sect :=
  let a := hdrSectOff g + 64 * i
  ⟨tabU g a 2, tabU g (a + 2) 2, tabU g (a + 4) 4, tabU g (a + 8) 8, tabU g (a + 16) 8, a⟩

def sects (g : TabImage) : List Sect := (List.range (hdrSections g)).map (sectAt g)

def sharedTypes : List Nat := [0x5, 0x8, 0x9, 0xb]
def ownTypes : List Nat := [0x1, 0x2, 0x3, 0x4, 0x6, 0x7, 0xa]

/-- The section a module at job position `pos` runs: that of the takeover variant in force, or else of variant 0 (R35, R478). -/
def findSect (g : TabImage) (pos var ty : Nat) : Option Sect :=
  if sharedTypes.contains ty then (sects g).find? fun x => x.ty == ty
  else match (sects g).find? fun x => x.ty == ty && x.mod == pos && x.var == var with
    | some x => some x
    | none => (sects g).find? fun x => x.ty == ty && x.mod == pos && x.var == 0

/-- Sections a module receives: shared ones and its own (R35). -/
def ownSects (g : TabImage) (pos : Nat) : List Sect :=
  (sects g).filter fun x => sharedTypes.contains x.ty || x.mod == pos

/-- A segment-table entry (R43). -/
structure Seg where
  offset : Nat
  work : Nat
  slack : Nat
  swap : Bool
  snap : Bool
  route : Bool
  stepEnd : Bool
  reserved : Nat
  deriving DecidableEq, Repr

def segAt (g : TabImage) (o : Nat) : Seg :=
  let w := tabU g o 16
  ⟨bitsOf w 39 0, bitsOf w 63 40, bitsOf w 87 64, w.testBit 88, w.testBit 89, w.testBit 90, w.testBit 91, bitsOf w 127 92⟩

def segOf (g : TabImage) (k : Nat) : Option Seg :=
  (findSect g 0 0 0x5).bind fun x => if 16 * k + 16 ≤ x.len then some (segAt g (x.off + 16 * k)) else none
def segsOf (g : TabImage) : List Seg := (List.range (hdrSegments g)).filterMap (segOf g)

/-- Register image `i` of segment `k` for a logical bench (R615). -/
def benchImage (g : TabImage) (pos var k d b i : Nat) : Option Nat :=
  (findSect g pos var 0x2).bind fun x =>
    let o := 72 * (4752 * k + 176 * d + b) + 8 * i
    if o + 8 ≤ x.len then some (tabU g (x.off + o) 8) else none

/-- Index entry of a logical core's stream: OFFSET and BUNDLES (R614). -/
def streamOf (g : TabImage) (pos var d b c : Nat) : Option (Nat × Nat × Nat) :=
  (findSect g pos var 0x1).map fun x =>
    let o := x.off + 16 + 16 * (11264 * d + 64 * b + c)
    (x.off, tabU g o 8, tabU g (o + 8) 4)
/-- LOAD of the stream section (R614). -/
def streamLoad (g : TabImage) (pos var : Nat) : Nat := ((findSect g pos var 0x1).map fun x => tabU g x.off 8).getD 0

/-- A record of the hub slot table (R616): kind, offset in the image, length. -/
def hubRecsGo (g : TabImage) : Nat → Nat → Nat → List (Nat × Nat × Nat)
  | 0, _, _ => []
  | n + 1, o, e =>
    if o < e then
      let l := tabU g (o + 4) 4
      (tabU g o 2, o, l) :: hubRecsGo g n (o + max l 8) e
    else []
def hubRecs (g : TabImage) (pos var : Nat) : List (Nat × Nat × Nat) :=
  match findSect g pos var 0x4 with
  | some x => hubRecsGo g (x.len / 8 + 1) x.off (x.off + x.len)
  | none => []
/-- Offset of the Job record. -/
def jobRec (g : TabImage) (pos var : Nat) : Option Nat := ((hubRecs g pos var).find? fun r => r.1 == 1).map fun r => r.2.1

/-- Field of the Job record at byte `off` of its body: HAUL_CFG 0, COMMIT 8, MAN0 16, MAN1 24, DIGEST 32, DSIZE 40. -/
def jobField (g : TabImage) (pos var off n : Nat) : Nat := ((jobRec g pos var).map fun o => tabU g (o + 8 + off) n).getD 0

/-- A channel-starts record: segment, channel, use, die, first, every, count. -/
structure Starts where
  seg : Nat
  chan : Nat
  use : Nat
  die : Nat
  first : Nat
  every : Nat
  count : Nat
  deriving DecidableEq, Repr
def startsAt (g : TabImage) (o : Nat) : Starts :=
  ⟨tabU g (o + 8) 4, tabU g (o + 12) 2, tabU g (o + 14) 1, tabU g (o + 15) 1, tabU g (o + 16) 4, tabU g (o + 20) 4, tabU g (o + 24) 4⟩
def startsOf (g : TabImage) (pos var : Nat) : List Starts :=
  ((hubRecs g pos var).filter fun r => r.1 == 4).map fun r => startsAt g r.2.1

/-- The descriptor of a copy-start record and the haul descriptor of a haul-start record (R616). -/
def copyDesc (g : TabImage) (o : Nat) : BitVec 1536 := BitVec.ofNat 1536 (tabU g (o + 24) 192)
def haulDesc (g : TabImage) (o : Nat) : BitVec 512 := BitVec.ofNat 512 (tabU g (o + 16) 64)

/-- A bucket placement: bucket, logical die and bench, base, stockpile banks, parameters. -/
structure BPlace where
  bucket : Nat
  die : Nat
  bench : Nat
  base : Nat
  stock0 : Nat
  stock1 : Nat
  params : Nat
  deriving DecidableEq, Repr
def placeAt (g : TabImage) (o : Nat) : BPlace :=
  ⟨tabU g (o + 8) 4, tabU g (o + 12) 1, tabU g (o + 13) 1, tabU g (o + 16) 8, tabU g (o + 24) 8, tabU g (o + 32) 8, tabU g (o + 40) 8⟩
def placesOf (g : TabImage) (pos var : Nat) : List BPlace :=
  ((hubRecs g pos var).filter fun r => r.1 == 5).map fun r => placeAt g r.2.1

/-- A region record: number, home (1 scratch), two addresses, bytes. -/
structure RegionRec where
  region : Nat
  home : Nat
  addr0 : Nat
  addr1 : Nat
  bytes : Nat
  deriving DecidableEq, Repr
def regionAt (g : TabImage) (o : Nat) : RegionRec :=
  ⟨tabU g (o + 8) 4, tabU g (o + 12) 1, tabU g (o + 16) 8, tabU g (o + 24) 8, tabU g (o + 32) 8⟩
def regionsOf (g : TabImage) (pos var : Nat) : List RegionRec :=
  ((hubRecs g pos var).filter fun r => r.1 == 6).map fun r => regionAt g r.2.1

/-- A tuning window (R617): segment, start and length in ns, class mask, unit codes; `pos` and `size` locate the entry. -/
structure Window where
  seg : Nat
  start : Nat
  length : Nat
  cls : Nat
  units : List Nat
  pos : Nat
  size : Nat
  deriving DecidableEq, Repr
def windowAt (g : TabImage) (o : Nat) : Window :=
  let n := tabU g (o + 14) 2
  ⟨tabU g o 4, tabU g (o + 4) 4, tabU g (o + 8) 4, tabU g (o + 12) 2, (List.range n).map fun i => tabU g (o + 16 + 4 * i) 4,
    o, 16 + (4 * n + 7) / 8 * 8⟩
def windowsGo (g : TabImage) : Nat → Nat → Nat → List Window
  | 0, _, _ => []
  | n + 1, o, e => if o + 16 ≤ e then let w := windowAt g o; w :: windowsGo g n (o + w.size) e else []
def windowsOf (g : TabImage) (pos var : Nat) : List Window :=
  match findSect g pos var 0x7 with
  | some x => windowsGo g (x.len / 16 + 1) (x.off + 8) (x.off + x.len)
  | none => []
/-- REF_MULT of the section's head. -/
def windowsRef (g : TabImage) (pos var : Nat) : Nat := ((findSect g pos var 0x7).map fun x => tabU g x.off 8 % 4).getD 0

/-- A pluck-table entry (R490): segment, fabric cycle, logical die and bench, reserved bits. -/
def pluckAt (g : TabImage) (o : Nat) : Nat × Nat × Nat × Nat × Nat :=
  let w := tabU g o 16
  (bitsOf w 31 0, bitsOf w 57 32, bitsOf w 62 58, bitsOf w 71 64, (w.testBit 63).toNat + bitsOf w 127 72)
def plucksOf (g : TabImage) (pos var : Nat) : List (Nat × Nat × Nat × Nat × Nat) :=
  match findSect g pos var 0xa with
  | some x => (List.range (x.len / 16)).map fun i => pluckAt g (x.off + 16 * i)
  | none => []

/-- A link slot-table entry (R435). -/
structure LinkEnt where
  seg : Nat
  start : Nat
  dir : Nat
  port : Nat
  vc : Nat
  out : Nat
  flits : Nat
  loc : Nat
  peer : Nat
  top : Nat
  xfer : Nat
  deadline : Nat
  bytes : Nat
  reserved : Nat
  deriving DecidableEq, Repr
def linkAt (g : TabImage) (o : Nat) : LinkEnt :=
  let l := tabU g (o + 0x10) 8
  ⟨tabU g o 4, tabU g (o + 4) 4, tabU g (o + 8) 1, tabU g (o + 9) 1, tabU g (o + 10) 1, tabU g (o + 11) 1, tabU g (o + 12) 4,
    l % 2 ^ 48, bitsOf l 59 48, bitsOf l 63 60, tabU g (o + 0x18) 4, tabU g (o + 0x1c) 4, tabU g (o + 0x20) 8, tabU g (o + 0x28) 8⟩
def linksOf (g : TabImage) (pos var : Nat) : List LinkEnt :=
  match findSect g pos var 0x3 with
  | some x => (List.range (x.len / 48)).map fun i => linkAt g (x.off + 48 * i)
  | none => []

/-- Bin `i` of the energy-bins section (R71). -/
def binsOf (g : TabImage) (pos var : Nat) : List Nat :=
  match findSect g pos var 0x6 with
  | some x => (List.range (x.len / 2)).map fun i => tabU g (x.off + 2 * i) 2
  | none => []

/-- A length bucket (R66, R618): LEN, SLOTS, BASE, STRIDE. -/
structure LenBucket where
  len : Nat
  slots : Nat
  base : Nat
  stride : Nat
  reserved : Nat
  deriving DecidableEq, Repr
def bucketAt (g : TabImage) (o : Nat) : LenBucket :=
  ⟨tabU g o 4, tabU g (o + 4) 2, tabU g (o + 8) 8, tabU g (o + 16) 8, tabU g (o + 6) 2 + tabU g (o + 24) 8⟩
def bucketsOf (g : TabImage) : List LenBucket :=
  match findSect g 0 0 0x8 with
  | some x => (List.range (hdrBuckets g)).map fun i => bucketAt g (x.off + 32 * i)
  | none => []

/-- A step-plan entry (R619): segment, stage, phase, micro-batch, reserved. -/
def planOf (g : TabImage) : List (Nat × Nat × Nat × Nat × Nat) :=
  match findSect g 0 0 0x9 with
  | some x => (List.range (x.len / 16)).map fun i =>
      let o := x.off + 16 * i
      (tabU g o 4, tabU g (o + 4) 2, tabU g (o + 6) 1, tabU g (o + 8) 4, tabU g (o + 7) 1 + tabU g (o + 12) 4)
  | none => []

/-- A gradient bucket of the reduction section (R389, R620). -/
structure GBucket where
  bucket : Nat
  elems : Nat
  gbase : Nat
  group : Nat
  owner : Nat
  thinnable : Bool
  flagsRest : Nat
  seg : Nat
  start : Nat
  reserved : Nat
  deriving DecidableEq, Repr
def redRanks (g : TabImage) : Nat := ((findSect g 0 0 0xb).map fun x => tabU g x.off 4).getD 0
def redGroups (g : TabImage) : Nat := ((findSect g 0 0 0xb).map fun x => tabU g (x.off + 4) 2).getD 0
def redThinWord (g : TabImage) : Nat := ((findSect g 0 0 0xb).map fun x => tabU g (x.off + 6) 2).getD 0
/-- THIN_SET (R393). -/
def redThinSet (g : TabImage) : Nat := redThinWord g % 2 ^ 11
def redNbuck (g : TabImage) : Nat := ((findSect g 0 0 0xb).map fun x => tabU g (x.off + 8) 4).getD 0
/-- Job positions of a group in rank order (R388). -/
def redGroup (g : TabImage) (i : Nat) : List Nat :=
  match findSect g 0 0 0xb with
  | some x => (List.range (redRanks g)).map fun r => tabU g (x.off + 32 + 2 * redRanks g * i + 2 * r) 2
  | none => []
def redBuckOff (g : TabImage) : Nat := 32 + (2 * redRanks g * redGroups g + 31) / 32 * 32
def gbucketAt (g : TabImage) (o : Nat) : GBucket :=
  ⟨tabU g o 4, tabU g (o + 4) 4, tabU g (o + 8) 6, tabU g (o + 16) 2, tabU g (o + 18) 2, (tabU g (o + 20) 1).testBit 0,
    tabU g (o + 20) 1 / 2, tabU g (o + 24) 4, tabU g (o + 28) 4, tabU g (o + 14) 2 + tabU g (o + 21) 3⟩
def gbucketsOf (g : TabImage) : List GBucket :=
  match findSect g 0 0 0xb with
  | some x => (List.range (redNbuck g)).map fun i => gbucketAt g (x.off + redBuckOff g + 32 * i)
  | none => []

/-! The running tab. -/

def State.theTab (s : State) : TabImage := s.tab.loaded.getD ⟨[], 0⟩
def State.segNow (s : State) : Option Seg := segOf s.theTab s.job.seg
/-- Channel starts of the running tab. -/
def State.myStarts (s : State) : List Starts := startsOf s.theTab s.tab.pos s.tab.variant
/-- WORK of the current segment in core cycles (R58). -/
def State.workCycles (s : State) : Nat := 4 * ((s.segNow.map Seg.work).getD 0)
def State.myWindows (s : State) : List Window := windowsOf s.theTab s.tab.pos s.tab.variant
def State.myLinks (s : State) : List LinkEnt := linksOf s.theTab s.tab.pos s.tab.variant
def State.myPlaces (s : State) : List BPlace := placesOf s.theTab s.tab.pos s.tab.variant
def State.myRegions (s : State) : List RegionRec := regionsOf s.theTab s.tab.pos s.tab.variant
def State.myHubRecs (s : State) : List (Nat × Nat × Nat) := hubRecs s.theTab s.tab.pos s.tab.variant
/-- Does a step of the running tab run, so that its slot tables decide? -/
def State.tabRuns (s : State) : Bool := s.job.inStep && s.tab.loaded.isSome

/-! Units that a tuning window frees (R75, R617). -/

/-- Does an entry free a unit code: by naming it, or its hub (R617)? -/
def Window.frees (w : Window) (u : Nat) : Bool :=
  w.units.any fun x => x == u ||
    (x / 2 ^ 28 == 2 && ((u / 2 ^ 28 == 3 && bitsOf u 10 8 == x % 8) || (u / 2 ^ 28 == 4 && bitsOf u 5 3 == x % 8)))
/-- Does an open window free a unit, so that it runs no scheduled operation (R75)? -/
def State.freedNow (s : State) (u : Nat) : Bool :=
  s.job.windows.any fun i => match s.myWindows[i]? with
    | some w => w.frees u
    | none => false

/-- Is the bench a spare that stands by: of the spare stack, or one that replaces no logical bench? -/
def State.isSpare (s : State) (b : BenchId) : Bool :=
  (s.dieLog b.die).any (· == 27) || (s.benchLog b).isNone
/-- Unit code of a bench. -/
def State.benchUnit (s : State) (b : BenchId) : Nat :=
  if s.isSpare b then 6 * 2 ^ 28
  else 256 * (s.dieLog b.die).getD 0 + (s.benchLog b).getD 0
def hubUnit (h : Hub) : Nat := 2 * 2 ^ 28 + h.val
def chanUnit (c : ChanId) : Nat := 3 * 2 ^ 28 + 256 * c.hub + c.chan
def portUnit (p : PortId) : Nat := 4 * 2 ^ 28 + p.key

end Sys2Proof.Machine
end

