-- ==== Sys2Proof/Machine/Issue.lean ====
section
/-!
DEFINITION. How a core issues a bundle (R85 to R94, R110, R111), writes results (R87, R88), halts on a fault (R117 to R119), ends
an elastic region (R59, R114), and reaches its own local store (R107, R314).
-/
namespace Sys2Proof.Machine

/-! The core's own local store (R107, R108, R314). -/

/-- Is any line of the range pending (R313)? -/
def State.linePending (s : State) (c : CoreId) (off n : Nat) : Bool :=
  let x := s.core c
  !x.marks.isEmpty && (List.range ((off % 64 + n + 63) / 64)).any fun i =>
    match nget? x.marks (off / 64 + i) with
    | some d => s.cyc c.benchId < d
    | none => false
/-- Reports the landing collision of an access to a pending line. -/
def State.lineTouch (s : State) (c : CoreId) (off n : Nat) : State :=
  if s.linePending c off n then (s.countCore c 0x37).coreDeadline c else s

/-- A read of the core's own slots: number, poison, state. -/
def State.lsRead (s : State) (c : CoreId) (off n : Nat) : Nat × Bool × State :=
  let r := s.loadNat (lsKey c off) n
  (r.1, r.2.1 || s.linePending c off n || s.lineBad c off n, r.2.2.lineTouch c off n)

/-- Is a local-store address in range and aligned (R107)? -/
def lsOk (a n : Nat) : Bool := a < 0x10000 && a % n == 0

/-- Effective address sa + offset, modulo 2^64. -/
def effAddr (base : Word64) (off : Int) : Nat := wrapInt 64 ((base.toNat : Int) + off)

/-! Results. -/

/-- Register number of the poison mark of CORE_SCARRY. -/
def carryReg : Nat := 192

def isRegDst : Dst → Bool
  | .s _ | .v _ => true
  | _ => false
/-- Is the result a store? -/
def isStoreDst : Dst → Bool
  | .store _ _ => true
  | _ => false

/-- A result of latency `lat` of the bundle that issues now (R87); poisoned in a halted core (R117). -/
def State.post (s : State) (c : CoreId) (slot lat : Nat) (dst : Dst) (val : Vec) (poison : Bool) : State :=
  let x := s.core c
  let r : Result := ⟨s.now + max lat 1 - 1, slot, dst, val, poison || x.hold == .halted, x.region.isSome⟩
  s.setCore c (x.addResult r)

/-- Notes memory units the core wrote, its outputs of the segment (R117). -/
def CoreState.noteMem (x : CoreState) (us : List Nat) : CoreState :=
  { x with
    touchedMem := us.foldl sinsert x.touchedMem
    region := x.region.map fun g => { g with mem := us.foldl sinsert g.mem } }

/-- A staged tile, staged scales and mask words loaded in cycle `t` or later, poisoned. -/
def CoreState.spoilLoads (x : CoreState) (t : Nat) : CoreState :=
  { x with
    active := if x.staged.isNone && (x.lastLoad.any fun l => t ≤ l) then x.active.map fun a => { a with bad := true } else x.active
    staged := x.staged.map fun p => if t ≤ p.1 then (p.1, { p.2 with bad := true }) else p
    stagedScales := x.stagedScales.map fun p => if t ≤ p.1 then (p.1, p.2.1, true) else p
    masks := x.masks.map fun m => if t ≤ m.1 then (m.1, m.2.1, true) else m }

/-- Array steps in flight, issued in cycle `t` or later, whose results in a core are to be poisoned (R117). -/
def State.spoilSteps (s : State) (c : CoreId) (t : Nat) : State :=
  s.updBench c.benchId fun y => { y with steps := y.steps.map fun r => if t ≤ r.issue then { r with bad := c.core.val :: r.bad } else r }

/-- Local-store units that the gather streams of a core have still to write. -/
def CoreState.gatherDsts (x : CoreState) (c : CoreId) : List Nat :=
  (x.streams.map fun p => unitsOf (lsKey c p.2.dst) (64 * p.2.count * p.2.rowl)).flatten

/-! Faults of a core (R117 to R119). -/

/-- The core issues nothing further in the segment, and its outputs of the segment are poisoned, those still in flight among them
(log 23). -/
def State.haltCore (s : State) (c : CoreId) : State :=
  let x := s.core c
  let s := { s with poison := (x.touchedMem ++ x.gatherDsts c).foldl sinsert s.poison }
  let x := x.spoilLoads s.job.segStart
  (s.setCore c { x with
    hold := .halted, region := none, wait := none, streams := [], greqs := []
    bad := x.touched.foldl sinsert x.bad
    results := x.results.map fun r => { r with poison := true } }).spoilSteps c s.job.segStart

/-- Event source of a class (R589) (log 23). -/
def faultSource (cls : Nat) : Nat := if cls = 1 then 0x0a else if cls = 2 then 0x0b else if cls = 3 then 0x0c else 0x05

/-- Records the first fault of a segment, reports it, and halts the core unless the class is 4 (log 23). -/
def State.coreFault (s : State) (c : CoreId) (cls slot : Nat) (idx : BitVec 9) : State :=
  let x := s.core c
  let s := if x.faulted then s
    else (s.setReg (coreKey c 0x8) (faultWord (cls + 8 + idx.toNat * 16 + 2 ^ 13 * (if cls ≤ 2 then slot else 0)) s.stepNo)).updCore c
      fun x => { x with faulted := true }
  let s := if cls = 5 then s.countDie c.die 0x7c else s.countCore c (faultSource cls)
  let s := s.coreDeadline c
  if cls = 4 then s else s.haltCore c

/-! Writing results (R87, R88). -/

/-- Writes one result. -/
def State.writeResult (s : State) (c : CoreId) (r : Result) : State :=
  match r.dst with
  | .s n => (s.updCore c fun x => x.setS n (r.val.setWidth 64) r.poison).freshReg c (n % 32)
  | .v n => (s.updCore c fun x => x.setV n r.val r.poison).freshReg c (vReg n)
  | .carry seg =>
    if seg = s.job.segStart then
      (s.setReg (coreKey c 0x18) (r.val.setWidth 32 |>.setWidth 64)).updCore c fun x => x.markReg carryReg r.poison
    else s
  | .wide off =>
    let rd := s.lsRead c off 64
    rd.2.2.updCore c fun x => { x with staged := x.staged.map fun t =>
      (t.1, { t.2 with bits := t.2.bits ||| (BitVec.ofNat 1024 rd.1 <<< 512), bad := t.2.bad || rd.2.1 || r.poison }) }
  | .fault idx => s.coreFault c 1 2 (BitVec.ofNat 9 idx)
  | .store off w =>
    let st := s.store (lsKey c off) (leBytes w r.val.toNat) r.poison
    let s := st.2.updCore c fun x => x.noteMem (unitsOf (lsKey c off) w)
    if st.1 then s.poisonRange (lsKey c off) w else s

/-- Writes results in order; of two that reach one register in one cycle the later is kept and the event counted (R88). DESIGN CHOICE
(log 22): of two results of ONE slot, which R88 does not name, the one issued later is kept and the event counted. -/
def State.writeResults (s : State) (c : CoreId) : List Result → State
  | [] => s
  | r :: rs =>
    if isRegDst r.dst && rs.any fun q => q.due == r.due && q.dst == r.dst then (s.countCore c 0x09).writeResults c rs
    else (s.writeResult c r).writeResults c rs

/-- Writes every result due before cycle `t`. -/
def State.applyBefore (s : State) (c : CoreId) (t : Nat) : State :=
  let rs := (s.core c).results
  let go := rs.filter fun r => r.due < t
  if go.isEmpty then s
  else (s.updCore c fun x => { x with results := rs.filter fun r => !(r.due < t) }).writeResults c go

/-! Control flow. -/

/-- Is a target inside a loop body? -/
def LoopRec.has (l : LoopRec) (t : BitVec 9) : Bool := (t - l.first).toNat ≤ (l.last - l.first).toNat

/-- A branch ends every loop it leaves and the loops nested in it (R94); innermost loop first. -/
def leaveLoops (ls : List LoopRec) (t : BitVec 9) : List LoopRec := (ls.reverse.takeWhile fun l => l.has t).reverse

/-- The index after `idx` and the loops still open (R94, R110). -/
def loopNext (idx : BitVec 9) : List LoopRec → BitVec 9 × List LoopRec
  | [] => (idx + 1, [])
  | l :: ls =>
    if l.last = idx then
      if l.left = 0 then loopNext idx ls else (l.first, { l with left := l.left - 1 } :: ls)
    else (idx + 1, l :: ls)

def CoreState.valid (x : CoreState) (idx : BitVec 9) : Bool := if idx.toNat < 256 then x.valid0 else x.valid1

/-- Index of the next bundle from `start` on whose memory slot holds `op` (log 22). -/
def CoreState.findOp (x : CoreState) (start : BitVec 9) (op : Nat) : Option (BitVec 9) :=
  ((List.range 512).find? fun i =>
    let k := start + BitVec.ofNat 9 i
    x.valid k && slotOp (slotWord (nget x.tb k.toNat 0) 3) == op).map fun i => start + BitVec.ofNat 9 i

/-! Elastic regions. -/

/-- The end of the open region's deadline cycle (R59, R114, R325): results poisoned and class 4 when the close has not issued or a
request was refused; the core goes on in the cycle after it with the bundle after the close (log 22, 23). -/
def State.regionEnd (s : State) (c : CoreId) : State :=
  match (s.core c).region with
  | none => s
  | some r =>
    let s := s.reach (s.atCyc c.benchId r.deadline + 1)
    let s := s.applyBefore c s.now
    let x := s.core c
    let r := x.region.getD r
    let miss := !r.closed
    let lost := if miss then (x.wait.map fun w => if w.load then [vReg w.reg] else []).getD [] else []
    let dsts := if miss then x.gatherDsts c else []
    let opened := s.atCyc c.benchId r.cyc
    let s := s.setCore c { x with region := none, hold := .none }
    let s := if miss || r.bad then
        let s := { s with poison := (r.mem ++ dsts).foldl sinsert s.poison }
        let s := s.updCore c fun x => { x.spoilLoads opened with
          bad := (r.regs ++ lost).foldl sinsert x.bad
          results := (x.results.filter fun q => !(miss && q.rgn && isStoreDst q.dst)).map fun q => if q.rgn then { q with poison := true } else q }
        (s.spoilSteps c opened).coreFault c 4 0 x.lastIdx
      else s
    if miss then
      match x.findOp x.nextIdx 0x22 with
      | some k => s.updCore c fun x => { x with
          wait := none, streams := [], greqs := [], branch := none, nextIdx := k + 1, loops := leaveLoops x.loops (k + 1) }
      | none => s.updCore c fun x => { x with wait := none, streams := [], greqs := [], branch := none, hold := .halted }
    else s

/-! What a bench owes by a cycle. -/

/-- Everything of the bench's array and ring that ended before cycle `t`: steps written, and operations that only some cores issued
closed as faults (R146, R167, R226) (log 22). -/
def State.settle (s : State) (b : BenchId) (t : Nat) : State :=
  let x := s.bench b
  let s := if !x.mvotes.isEmpty && x.mcycle < t then s.closeStep b else s
  let s := if !x.rvotes.isEmpty && x.rcycle < t then s.closeRing b else s
  s.writeSteps b t

/-! Legality that depends on the core and its bench (R86). -/

/-- Slots with a class-1 cause judged at the issue of bundle `b` at index `idx` in the present cycle. -/
def State.dynamicIllegal (s : State) (c : CoreId) (b : Bundle) (idx : BitVec 9) : List Nat :=
  let x := s.core c
  let t := s.now
  let w0 := slotWord b 0
  let w1 := slotWord b 1
  let w3 := slotWord b 3
  let m := slotOp w1
  let mode := s.arrayMode c.benchId
  let loop5 := slotOp w0 == 9 && 4 ≤ x.loops.length
  let soon := match x.lastLoad with | some l => t - l ≤ 3 | none => false
  let bad1 := m != 0 && ((match x.lastWide with | some w => t == w + 1 | none => false) ||
    (m == 3 && (mode == 2 || (fT w1 && mode != 0))) || ((m == 1 || m == 2) && soon))
  let bad2 := slotOp (slotWord b 2) != 0 && (x.vnopNext || (match x.sfs with | some p => t ≤ p.2.2 | none => false))
  let y := slotOp w3
  let after := match x.branch with | some t => t | none => (loopNext idx x.loops).1
  let delay := if slotOp w0 = 8 then [after.toNat / 256] else []
  let bad3 := !placeLegal y x.region.isSome || (y == 0x21 && s.workCycles < fImm26 w3) ||
    (y == 0x0a && (idx.toNat / 256 :: delay).contains (fHalf w3))
  (if loop5 then [0] else []) ++ (if bad1 then [1] else []) ++ (if bad2 then [2] else []) ++ (if bad3 then [3] else [])

/-- The earliest cycle in which the core may issue; none while it holds on something that no time ends (R89), or an open window frees its
bench (R75). -/
def State.issueCycle (s : State) (c : CoreId) : Option Nat :=
  let x := s.core c
  let b := s.bench c.benchId
  let base := max s.now (match x.lastCycle with | some l => l + 1 | none => 0)
  if !x.running || s.dieFenced c.die || s.benchFenced c.benchId || b.power != 0 || b.transit != .none ||
      (!s.job.windows.isEmpty && s.freedNow (s.benchUnit c.benchId)) then none
  else match x.hold with
    | .none => some base
    | .waitu t => some (max base (s.atCyc c.benchId t))
    | .closed n => some (max base n)
    | .segend | .gwait _ | .cache | .halted => none

/-- Registers as `bundleReads` numbers them. -/
def dstReg : Dst → Option Nat
  | .s n => some n
  | .v n => some (vReg n)
  | _ => none

/-- Registers a bundle reads on a core, those of the program that a VSFN runs among them. -/
def State.reads (s : State) (c : CoreId) (b : Bundle) : List Nat :=
  let w := slotWord b 2
  let cfg := (s.reg (benchKey c.benchId 0x220)).toNat
  bundleReads b ++ (if slotOp w = 0x0f then sfsReads (s.core c) s.sfsImage (cfg % 2) (cfg / 2 % 2) (fProg w) (fVa w) else [])

/-- In a region the core stalls on a register whose producer has not completed (R115): the cycle it may issue. An accumulator's producer is
the array step in flight that lands in it. -/
def State.hazard (s : State) (c : CoreId) (b : Bundle) (t : Nat) : Nat :=
  let rd := s.reads c b
  let t := (s.core c).results.foldl (fun t q => match dstReg q.dst with
    | some r => if rd.contains r then max t (q.due + 1) else t
    | none => t) t
  (s.bench c.benchId).steps.foldl (fun t r => match voteAt r.votes c.core with
    | some v => if r.receivers.contains c.core.val && rd.contains (aReg v.tile) then max t (r.issue + 8) else t
    | none => t) t

/-- Does the vector operation occupy its slot for two cycles (R103, R204)? -/
def twoCycle (w : Nat) : Bool :=
  match slotOp w with
  | 0x02 | 0x03 | 0x04 | 0x06 | 0x0c => fTy4 w == tyFp64
  | 0x07 => fTy3 w == tyFp64 || isBlockTarget (fTgt w)
  | 0x00 | 0x0d | 0x0e | 0x0f | 0x10 => false
  | _ => fTy3 w == tyFp64

/-- Any operation but PARK and WAITU (R109). -/
def hasOperation (b : Bundle) : Bool :=
  slotOp (slotWord b 0) != 0 || slotOp (slotWord b 1) != 0 || slotOp (slotWord b 2) != 0 ||
    !(List.contains [0x00, 0x20, 0x25] (slotOp (slotWord b 3)))

/-- Stalls of ECLOSE and GSTR (R115, R322). -/
def CoreState.stalled (x : CoreState) (b : Bundle) : Bool :=
  let w := slotWord b 3
  (slotOp w == 0x22 && (x.wait.isSome || !x.greqs.isEmpty || !x.streams.isEmpty)) ||
    (slotOp w == 0x08 && (nget? x.streams (fStream w)).isSome)

/-- The words of the bundle pass the tab buffer's checker, and the registers it reads theirs (R511 to R513): is the bundle intact? DESIGN CHOICE
(log 32): the spec does not say what a core does with a poisoned bundle; here it halts, as on a fault, with its outputs poisoned. -/
def State.fetchCheck (s : State) (c : CoreId) (b : Bundle) (idx : BitVec 9) : Bool × State :=
  if s.errs.isEmpty then (true, s)
  else
    let q := s.checkWords c (.tabBuffer c) [2 * idx.toNat, 2 * idx.toNat + 1]
    if q.1 then (false, q.2.haltCore c) else (true, q.2.checkRegs c (s.reads c b))

/-- Issues bundle `b` in the present cycle: the index advances, the bundle is judged, or the core faults (R86, R111) (log 22). -/
def State.issueNow (s : State) (c : CoreId) (b : Bundle) (slot : Nat) : Bool × State :=
  let x := s.core c
  let idx := x.nextIdx
  let bad := illegalSlot b ++ s.dynamicIllegal c b idx
  if !x.valid idx then (false, s.coreFault c 3 0 idx)
  else match bad with
    | b0 :: bs =>
      (false, (s.updCore c fun x => { x with lastIdx := idx }).coreFault c 1 (bs.foldl min b0) idx)
    | [] =>
      if x.stalled b then (false, s)
      else
        let f := s.fetchCheck c b idx
        if !f.1 then f
        else
        let s := f.2
        let gap := match x.lastCycle with | some l => s.now - l - 1 | none => 0
        let s := s.countCore c (if x.region.isSome then 0x03 else 0x02) gap
        let s := (s.countCore c 0x00).countCore c 0x01
        let nx := match x.branch with
          | some t => (t, leaveLoops x.loops t)
          | none => loopNext idx x.loops
        (true, s.updCore c fun x => { x with
          hold := .none, lastIdx := idx, lastCycle := some s.now, cur := some b, done := [slot], branch := none
          nextIdx := nx.1, loops := nx.2, vnopNext := twoCycle (slotWord b 2)
          parked := x.parked && !hasOperation b })

/-- A command for slot `slot` of bundle `b`: another slot of the bundle that issues in this cycle, or the next bundle. The Bool says
that the slot's operation takes place (log 22). -/
def State.openBundle (s : State) (c : CoreId) (b : Bundle) (slot : Nat) : Bool × State :=
  let x := s.core c
  if x.cur == some b && x.lastCycle == some s.now && !x.done.contains slot then
    (true, s.updCore c fun x => { x with done := slot :: x.done })
  else match s.issueCycle c with
    | none => (false, s)
    | some t =>
      let late : Bool := match x.region with | some r => decide (s.atCyc c.benchId r.deadline < t) | none => false
      let s := if late then s.regionEnd c else s
      let s := (s.reach t).settle c.benchId t
      let s := s.applyBefore c t
      let x := s.core c
      match x.region with
      | none => if x.hold == .halted then (false, s) else s.issueNow c b slot
      | some r =>
        let t2 := s.hazard c b t
        if s.atCyc c.benchId r.deadline < t2 then (false, s.regionEnd c)
        else
          let s := (s.reach t2).settle c.benchId t2
          let s := s.applyBefore c t2
          if (s.core c).hold == .halted then (false, s) else s.issueNow c b slot

/-- A slot command of opcode `code`: the effect, when the slot takes place and holds that operation (log 22). -/
def State.slotDo (s : State) (c : CoreId) (b : Bundle) (slot code : Nat) (eff : Nat → State → State) : State :=
  let r := s.openBundle c b slot
  if r.1 && slotOp (slotWord b slot) == code then eff (slotWord b slot) r.2 else r.2

end Sys2Proof.Machine
end

