-- ==== Sys2Proof/Machine/Power.lean ====
section
/-!
DEFINITION. Bench power states, plucks and wakes (R109, R486 to R493), domain resets (R497, R498), droop, envelope and thermal
events (R499 to R504) and PLL lock (R485).
-/
namespace Sys2Proof.Machine

/-! Bench power controllers. Codes of PWR_BENCH_STATUS.STATE: 0 RUN, 1 HOLD, 2 SLEEP, 3 OFF. -/

def allCores (b : BenchId) : List CoreId := (List.finRange 64).map b.coreAt
def allBenches (d : Die) : List BenchId := (List.finRange 180).map (BenchId.mk d)
def allDies : List Die := List.finRange 28
def allHubs : List Hub := List.finRange 6
def allMds : List Md := List.finRange 2

/-- Has the bench an operation, a descriptor or a program that has not ended (R487)? -/
def State.benchBusy (s : State) (b : BenchId) : Bool :=
  !(s.bench b).steps.isEmpty || (allCores b).any fun c =>
    let x := s.core c
    !x.descs.isEmpty || !x.results.isEmpty || (match x.sfs with | some p => s.now ≤ p.2.2 | none => false)
def State.allParked (s : State) (b : BenchId) : Bool := (allCores b).all fun c => (s.core c).parked
/-- PWR_BENCH_CFG.PARK_TO as a state code. -/
def State.parkTo (s : State) (b : BenchId) : Nat := s.fld (benchKey b 0x240) 0 0 + 1

def State.addWakes (s : State) (b : BenchId) : State := (s.satFld (benchKey b 0x248) 47 32 1).countDie b.die 0x78
def State.addCancels (s : State) (b : BenchId) : State := (s.satFld (benchKey b 0x248) 63 48 1).countDie b.die 0x79

/-- Entry into HOLD or SLEEP when every core has parked and nothing is left to write (R487); a pluck of the same fabric cycle keeps
the bench in RUN and counts one cancel (R489) (log 51). -/
def State.tryPark (s : State) (b : BenchId) : State :=
  let x := s.bench b
  if x.power != 0 || x.transit != .none || x.wokenBy == some true || !s.allParked b || s.benchBusy b then s
  else if x.lastPluck == some (s.now / 2) then
    ((allCores b).foldl (fun s c => s.updCore c fun y => { y with parked := false }) s).addCancels b
  else s.setBench b { x with transit := .entering (s.parkTo b) }

/-- A pluck or a request reaches the controller of a bench (R489) (log 51). A spare that stands by runs only in a window (R19). -/
def State.wakeRequest (s : State) (b : BenchId) (bridge : Bool) : State :=
  let x := s.bench b
  if s.isSpare b then s
  else if x.power = 3 then (if bridge then s else s.countDie b.die 0x77)
  else match x.transit with
    | .waking => s
    | .entering _ => (s.setBench b { x with transit := .waking, wokenBy := some bridge, wakeFrom := s.now }).addCancels b
    | .none =>
      if x.power = 0 then s.setBench b { x with lastPluck := if bridge then x.lastPluck else some (s.now / 2) }
      else (s.setBench b { x with transit := .waking, wokenBy := some bridge, wakeFrom := s.now }).addWakes b

/-- Twice the bound of R486 on the return to RUN, in core cycles, from the state that the bench leaves. -/
def State.wakeLimit (s : State) (b : BenchId) : Nat :=
  let st := if (s.bench b).power = 0 then s.parkTo b else (s.bench b).power
  if st = 1 then 192 else 16000

/-- Records a power fault of a bench, the first of a segment only (R493, R506). -/
def State.powerFault (s : State) (b : BenchId) (cause : Nat) : State :=
  let s := if (s.bench b).pwrFaulted then s
    else (s.setReg (benchKey b 0x250) (faultWord (cause + 8) s.stepNo)).updBench b fun x => { x with pwrFaulted := true }
  s.benchDeadline b

/-- Earliest WAITU target a core of the bench holds on (log 51). -/
def State.waitTarget (s : State) (b : BenchId) : Option Nat :=
  (allCores b).foldl (fun m c => match (s.core c).hold with
    | .waitu t => some (match m with | some u => min u t | none => t)
    | _ => m) none

/-- CYC of R492 from the timebase. -/
def State.tbCyc (s : State) : Nat := s.now - s.job.segStart

/-- The bench is in RUN again: CYC from the timebase; cause 1 when its WAITU's cycle has passed (R492, R493) (log 51). -/
def State.wakeDone (s : State) (b : BenchId) : State :=
  let x := s.bench b
  if x.transit != .waking then s
  else
    let s := s.setBench b { x with power := 0, transit := .none, cycAdj := (s.die b.die).lag }
    let s := if x.wokenBy == some true then s
      else (allCores b).foldl (fun s c => s.updCore c fun y => { y with parked := false }) s
    match s.waitTarget b with
    | some t => if t < s.cyc b then s.powerFault b 1 else s
    | none => s

/-- Entry completes: in SLEEP L1 is invalidated (R486). -/
def State.entryDone (s : State) (b : BenchId) : State :=
  match (s.bench b).transit with
  | .entering t =>
    let s := s.updBench b fun x => { x with power := t, transit := .none }
    if t = 2 then (allCores b).foldl (fun s c => s.updCore c fun y => { y with l1 := [] }) s else s
  | _ => s

/-! Domain reset. -/

/-- A core after the reset of its bench: idle, accumulators +0, marks clear; what lost power holds nothing (R498). -/
def CoreState.domainReset (x : CoreState) (off : Bool) : CoreState :=
  if off then {}
  else { x with
    accs := [], bad := x.bad.filter (· < 128), hold := .none, running := false, region := none, results := [], loops := [], branch := none
    cur := none, done := [], lastCycle := none, parked := false, vnopNext := false, sfs := none
    descs := [], streams := [], greqs := [], wait := none, landQ := [], marks := [], lineBad := [], l1 := [], fill0 := none, fill1 := none }

def State.resetBench (s : State) (b : BenchId) : State :=
  let off := (s.bench b).power == 3
  let s := (allCores b).foldl (fun s c => s.updCore c fun x => x.domainReset off) s
  let s := if off then s.dropRange (lsKey (b.coreAt 0) 0) (2 ^ 22 + lsKey (b.coreAt 0) 0) else s
  s.updBench b fun x => { x with
    power := 0, transit := .none, wokenBy := none, cycAdj := 0, lastPluck := none, mvotes := [], steps := [], rvotes := [], missRegs := []
    runAhead := [] }

/-- The reset of a die's fabric drops what crosses it: lines on their way to cores, gathers, misses and dresser passes (log 9). -/
def State.resetFabric (s : State) (d : Die) : State :=
  (allBenches d).foldl (fun s b =>
    let s := if (nget? s.benches b.key).isSome then s.updBench b fun x => { x with missRegs := [], runAhead := [], pass := none } else s
    (allCores b).foldl (fun s c =>
      if (nget? s.cores c.key).isSome then s.updCore c fun x => { x with landQ := [], greqs := [] } else s) s) s

/-- CLK_DOM_RESET of a die (R498, R507): bits 10 and 11 clear by 1, GO starts a reset or is refused (log 43). -/
def State.wDomReset (s : State) (d : Die) (v : Word64) : Bool × State :=
  let k := dieKey d 0x198
  let s := s.setReg k (typedWrite { w1c := 0xc00 } (s.reg k) (v &&& ~~~s.freshBits k))
  let t := bitsOf v.toNat 7 0
  if !v.getLsbD 8 then (false, s)
  else if s.tabState == tabRunning || s.tabState == tabStopping then (false, s.setFld k 11 11 1)
  else if (s.die d).domReset.isSome || !(t < 180 || t == 0xf0) then (false, s)
  else (false, (s.setFld k 9 9 1).updDie d fun x => { x with domReset := some t })

/-- A bench loads the row-remap entries of its macros, those of the cluster store apart (R519). -/
def State.loadRepairs (s : State) (b : BenchId) : State :=
  let own := (Config.imageRepairs s.sec.imageHash ++ s.sec.record.repairs).filter fun r => r.1 == b.die.val && Config.macroHome s.sec.imageHash r.2.1 == (b.bench.val, false)
  let fresh := own.filter fun r => !s.sec.loadedRepairs.contains r
  ({ s with sec := { s.sec with loadedRepairs := s.sec.loadedRepairs ++ fresh } } : State).countBench b 0x69 none own.length

/-- The reset in progress ends (R497, R498). -/
def State.domResetDone (s : State) (d : Die) : State :=
  match (s.die d).domReset with
  | none => s
  | some t =>
    let s := if t = 0xf0 then s.resetFabric d
      else match finOf? 180 t with
        | some b => (s.resetBench ⟨d, b⟩).loadRepairs ⟨d, b⟩
        | none => s
    let k := dieKey d 0x198
    (((s.setFld k 9 9 0).setFld k 10 10 1).countDie d 0x7e).updDie d fun x => { x with domReset := none }

/-! Faults that a management die raises. -/

/-- CSR die code of a unit as numbers (R8). -/
def unitKeyDie (n : Fin 64) : Nat := 0xf0 * 2 ^ 24 + 2 ^ 32 * n

/-- A fault beyond the module (R477). -/
def State.beyond (s : State) (die bench : Nat) (rule : Nat) : State :=
  ((s.setFld (mgtKey 0x1e0) 4 4 1).log 0 3 true rule (2 ^ 15 * die + bench * 2 ^ 7) 0).say .beyondModule [s.tab.pos, die, bench]

/-- Does a job run? -/
def State.jobRuns (s : State) : Bool := s.tabState == tabRunning || s.tabState == tabStopping

/-- CLK_DIE_STATUS of a die code. -/
def clkKey (die : Nat) : Nat := unitKey die 0x1f0

/-- Records lost lock, and fails what the PLL carried (R485) (log 51). -/
def State.lockLoss (s : State) (die : Nat) (pll : Nat) : State :=
  match blockOf die 0xf0 0 with
  | none => s
  | some blk =>
    let n := match blk with | .compute => 2 | .mgmt => 3 | _ => 1
    if pll < n then
      let s := (s.setFld (clkKey die) pll pll 0).satFld (clkKey die) 15 8 1
      if blk == .compute then (if s.jobRuns then s.unitFailed die 0xf0 485 else s)
      else s.beyond die 0xf0 485
    else s

/-- An envelope fault, at most one a step (R501): its stack, or none. -/
def State.envelopeFault (s : State) (stack : Option Nat) : State :=
  if s.mgt.envRaised then s
  else
    let s := { s with mgt := { s.mgt with envRaised := true } }
    let s := ((s.setFld (mgtKey 0x200) 32 32 1).setFld (mgtKey 0x200) 38 33 (stack.getD 0x3f)).say .envelopeFault [s.stepNo, stack.getD 0x3f]
    match stack with
    | some d => s.unitFailed d 0xf0 501
    | none => s.beyond 0x3f 0xff 501

/-- Part of a stack in the 1 µs window that ends now (R501), in units of 10 W times 125 ns: the energy bins of the step that the window
meets, numbered from the step's start (R71). -/
def State.partNow (s : State) (stack : Nat) : Nat :=
  match s.job.cur with
  | some d => (List.range 8).foldl (fun a k => a + Config.stackPart s.sec.imageHash stack ((s.tbNow - 1000 - d.start.toNat) / 125 + k)) 0
  | none => 0

/-- End of the measurement window that ends next: whole microseconds of the timebase (R501). -/
def State.nextMicro (s : State) : Nat := max (s.mgt.windowEnd + 1000) ((s.tbNow + 999) / 1000 * 1000)

/-- One 1 µs window, aligned to the timebase (R74, R501): draw in units of 10 W, each stack's energy in units of 10 W times 125 ns.
Ten windows above 24 kW within 1 ms raise the fault,
given to the stack whose excess over its part is largest and above a tenth of it. -/
def State.window (s : State) (draw : Nat) (perStack : List Nat) : State :=
  let t := s.nextMicro
  let s := s.reach (s.atTb t)
  let s := { s with mgt := { s.mgt with windowEnd := t } }
  if draw ≤ 2400 then s
  else
    let s := s.satFld (mgtKey 0x200) 31 0 1
    let recent := s.mgt.overs.filter fun u => t < 1000000 + u
    let ex0 := if recent.isEmpty then [] else s.mgt.excess
    let add := (List.range 28).foldl (fun m i =>
      let e := perStack.getD i 0
      let p := s.partNow i
      nset (nset m (2 * i) (nget m (2 * i) 0 + e)) (2 * i + 1) (nget m (2 * i + 1) 0 + p)) ex0
    let s := { s with mgt := { s.mgt with overs := recent ++ [t], excess := add } }
    if recent.length + 1 < 10 then s
    else
      let gap := fun i => nget add (2 * i) 0 - nget add (2 * i + 1) 0
      let best := (List.range 28).foldl (fun b i => if gap b < gap i then i else b) 0
      let ok := 10 * gap best > nget add (2 * best + 1) 0
      s.envelopeFault (if ok then some best else none)

/-- Records a thermal cause and reports it (R503, R508); when the job has stopped for it, the module holds its benches in SLEEP. -/
def State.thermal (s : State) (cause : Nat) (u : Nat) : State :=
  let s := { s with job := { s.job with thermal := s.job.thermal || s.jobRuns } }
  let s := if s.fld (mgtKey 0x208) 19 19 = 1 then s else (s.setFld (mgtKey 0x208) 18 16 cause).setFld (mgtKey 0x208) 19 19 1
  (s.log 0 3 true 503 (2 ^ 15 * u) cause).say .thermalFault [s.tab.pos, u, cause]

/-! Meanings. -/

/-- An entry of the tab's pluck table fires in its fabric cycle (R490); its bench is of one of the module's dies. -/
def execPluckTableFire (entry : Nat) (s : State) : Out :=
  .next (match (plucksOf s.theTab s.tab.pos s.tab.variant)[entry]? with
    | none => s
    | some (seg, t, d, b, _) =>
      if !s.job.inStep || s.job.seg != seg || s.job.pluckFired.contains entry then s
      else
        let s := s.reach (s.job.segStart + 2 * t)
        let s := { s with job := { s.job with pluckFired := entry :: s.job.pluckFired } }
        match s.benchAt d b with
        | some pb => ((s.countDie pb.die 0x76).updDie pb.die fun x => { x with plucks := x.plucks ++ [pb.bench.val] })
        | none => s)

/-- A pluck that was issued arrives, or a request stands at a bridge into the bench (R489, R494). -/
def execPluckArrival (b : BenchId) (bridge : Bool) (s : State) : Out :=
  .next (if bridge then s.wakeRequest b true
    else if (s.die b.die).plucks.contains b.bench.val then
      (s.updDie b.die fun x => { x with plucks := x.plucks.erase b.bench.val }).wakeRequest b false
    else s)

/-- R486, R487. -/
def execBenchParkComplete (b : BenchId) (s : State) : Out := .next ((s.tryPark b).entryDone b)
/-- R492, R493. -/
def execBenchWakeComplete (b : BenchId) (s : State) : Out := .next (s.wakeDone b)

/-- After a wake by a request, with the cores still parked, the bench enters again (R489). -/
def execBenchReentry (b : BenchId) (s : State) : Out :=
  .next (let x := s.bench b
    if x.power = 0 && x.transit == .none && x.wokenBy == some true then (s.setBench b { x with wokenBy := none }).tryPark b else s)

/-- A bench that has not reached RUN within twice its bound: cause 2, and the bench is failed (R493). -/
def execWakeTimeout (b : BenchId) (s : State) : Out :=
  .next (if (s.bench b).transit == .waking then
      ((s.reach ((s.bench b).wakeFrom + s.wakeLimit b)).powerFault b 2).unitFailed b.die b.bench 493
    else s)

/-- R498, R507. -/
def execDomainResetRequest (o : Origin) (die : Die) (v : Word64) (s : State) : Out :=
  .next (s.originWrite o (keyAddr (dieKey die 0x198)) fun s => s.wDomReset die v)
def execDomainResetComplete (die : Die) (s : State) : Out := .next (s.domResetDone die)

/-- R485, R507. -/
def execPllLockLoss (die : Fin 64) (pll : Fin 3) (s : State) : Out := .next (s.lockLoss die pll)

/-- One stretch in any 16 consecutive core cycles: the die's cores lose one core cycle against the timebase (R499). -/
def execDroopStretch (die : Die) (s : State) : Out :=
  .next (let x := s.die die
    let free : Bool := match x.lastStretch with | some t => decide (t + 16 ≤ s.now) | none => true
    if free then
      ((s.satFld (dieKey die 0x190) 31 0 1).countDie die 0x74).setDie die { x with lag := x.lag + 1, lastStretch := some s.now }
    else s)

/-- R500: handled as an envelope fault of the stack. -/
def execDroopFault (die : Die) (s : State) : Out :=
  .next (((s.setFld (dieKey die 0x190) 32 32 1).countDie die 0x75).envelopeFault (some die))

/-- R74, R501. -/
def execPowerWindow (draw : Nat) (perStack : List Nat) (s : State) : Out := .next (s.window draw perStack)

/-- R503: the manager stops the job at the next segment boundary, and the module whose fault it is then holds every bench in SLEEP
(`stoppingIdle`). -/
def execThermalFault (u : UnitRef) (s : State) : Out :=
  .next (let s := s.log 0 3 true 503 (2 ^ 15 * u.die + 2 ^ 7 * u.bench.toNat + u.core.toNat) u.pos
    let s := { s with
      job := { s.job with abandon := true, thermal := s.job.thermal || u.pos == s.tab.pos }
      mgr := { s.mgr with stopping := sinsert s.mgr.stopping u.pos } }
    let s := if s.tabState == tabRunning then s.setFld (mgtKey 0x100) 2 0 tabStopping else s
    s.say .stopJob [u.pos, 503])

/-- A trip: THERM_TRIP_L asserts, every PLL but the standby PLL stops and with it the cores, TRIPPED latches, LPDDR6 contents are lost
(R504). -/
def execThermalTrip (s : State) : Out :=
  .next (let s := s.setFld (mgtKey 0x208) 21 21 1
    let stop := s.cores.map fun (p : Nat × CoreState) => (p.1, { p.2 with running := false })
    let s := { s with pins := { s.pins with thermTrip := true }, cores := stop }
    let s := allDies.foldl (fun s d => (s.setFld (clkKey d) 0 0 0).setFld (clkKey d) 1 1 0) s
    let s := allHubs.foldl (fun s h => s.setFld (clkKey (32 + h)) 0 0 0) s
    let s := allMds.foldl (fun s m => (s.setFld (clkKey (40 + m)) 0 0 0).setFld (clkKey (40 + m)) 1 1 0) s
    s.dropRange 0 0x0a8000000000)

end Sys2Proof.Machine
end

