-- ==== Sys2Proof/Machine/Xlat.lean ====
section
/-!
DEFINITION. Translation and protection (R308 to R312): table walks, translation caches, root writes and swaps.
-/
namespace Sys2Proof.Machine

/-- Codes of R298. -/
def codeTranslation : Nat := 5
def codeProtection : Nat := 6

/-- What a translation answers: storage address with its page entry, or an error code. -/
inductive XRes where
  | ok (addr : Nat)
  | err (code : Nat)
  deriving DecidableEq, Repr

/-- MGT_XLAT_CTL fields. -/
def State.xlatActive (s : State) : Nat := s.fld (mgtKey 0x150) 0 0
def State.xlatInstalled (s : State) : Bool := s.fld (mgtKey 0x150) 2 2 == 1
def State.xlatRoot (s : State) (n : Nat) : Nat := (s.reg (mgtKey (0x140 + 8 * n))).toNat

/-- Reads a table entry: none when its address has no LPDDR6 storage or the word does not read intact (R312). -/
def State.tableWord (s : State) (a : Nat) : Option Nat × State :=
  match placeOf a with
  | .lpddr c o =>
    let r := s.loadNat (s.lpddrKey c o) 8
    (if r.2.1 then none else some r.1, r.2.2)
  | _ => (none, s)

/-- Is an entry invalid (R312)? `leafOk`: a directory entry may set LEAF. -/
def entryBad (e : Nat) (leafOk : Bool) : Bool :=
  !e.testBit 0 || bitsOf e 11 6 != 0 || bitsOf e 63 48 != 0 || (!leafOk && e.testBit 5)
def entryTarget (e : Nat) : Nat := bitsOf e 47 12 * 4096

/-- A walk of the three levels (R308): the page's base, size and entry (log 30). -/
def State.walk (s : State) (a : Nat) : Option Tlb × State :=
  if !s.xlatInstalled then (none, s)
  else
    let r1 := s.tableWord (s.xlatRoot s.xlatActive + 8 * bitsOf a 47 34)
    match r1.1 with
    | none => (none, r1.2)
    | some e1 =>
      if entryBad e1 false then (none, r1.2)
      else
        let r2 := r1.2.tableWord (entryTarget e1 + 8 * bitsOf a 33 21)
        match r2.1 with
        | none => (none, r2.2)
        | some e2 =>
          if entryBad e2 true then (none, r2.2)
          else if e2.testBit 5 then (some ⟨2 ^ 21 * (a / 2 ^ 21), 2 ^ 21, BitVec.ofNat 64 e2⟩, r2.2)
          else
            let r3 := r2.2.tableWord (entryTarget e2 + 8 * bitsOf a 20 12)
            match r3.1 with
            | none => (none, r3.2)
            | some e3 => if entryBad e3 false then (none, r3.2) else (some ⟨a / 4096 * 4096, 4096, BitVec.ofNat 64 e3⟩, r3.2)

/-- Entries of a translation cache and its size (R311). -/
def State.tlbOf (s : State) : XPath → List Tlb
  | .slot c => (s.core c).tlb
  | .elastic b => (s.bench b).tlb
  | .hub h => (s.hub h).tlb
def State.setTlb (s : State) (p : XPath) (t : List Tlb) : State :=
  match p with
  | .slot c => s.updCore c fun x => { x with tlb := t }
  | .elastic b => s.updBench b fun x => { x with tlb := t }
  | .hub h => s.updHub h fun x => { x with tlb := t }
def tlbSize : XPath → Nat
  | .slot _ => 32
  | .elastic _ => 64
  | .hub _ => 512
def tlbHas (a : Nat) (t : Tlb) : Bool := t.base ≤ a && a < t.base + t.size

/-- Counts a walk of a bench's path (R589). -/
def State.countWalk (s : State) (p : XPath) : State :=
  match p with
  | .slot c => s.countBench c.benchId 0x3e none 1
  | .elastic b => s.countBench b 0x3e none 1
  | .hub _ => s

/-- The entry an access of a path uses: from the path's cache, most recent first, or by a walk that fills it (R311). -/
def State.lookup (s : State) (p : XPath) (a : Nat) : Option Tlb × State :=
  let ts := s.tlbOf p
  match ts.find? (tlbHas a) with
  | some t => (some t, s.setTlb p (t :: ts.erase t))
  | none =>
    let r := (s.countWalk p).walk a
    match r.1 with
    | some t => (some t, r.2.setTlb p ((t :: r.2.tlbOf p).take (tlbSize p)))
    | none => r

/-- Judges an access by a page entry (R306, R312). -/
def State.judge (s : State) (t : Tlb) (a : Nat) (write : Bool) : XRes :=
  let e := t.entry.toNat
  let tgt := entryTarget e / t.size * t.size + a % t.size
  match placeOf tgt with
  | .none => .err codeTranslation
  | .csr => .err codeProtection
  | pl =>
    if e.testBit 4 || (if write then !e.testBit 2 else !e.testBit 1) then .err codeProtection
    else match pl with
      | .scratch d b o => match s.benchAt d b with
        | some pb => if o < 2 ^ 20 * s.fld (benchKey pb 0x228) 4 0 then .ok tgt else .err codeProtection
        | none => .err codeTranslation
      | _ => .ok tgt

/-- The code of a requested address that no table can serve: none of the map (R304), the CSR window, or an offset outside scratch (R306).
DESIGN CHOICE (log 30): a requested address of the CSR window records code 6; R304 gives no code. -/
def State.requestCode (s : State) (a : Nat) : Option Nat :=
  match placeOf a with
  | .csr => some codeProtection
  | .scratch d b o => match s.benchAt d b with
    | some pb => if o < 2 ^ 20 * s.fld (benchKey pb 0x228) 4 0 then none else some codeProtection
    | none => some codeTranslation
  | .none => if a < 0x0a8000000000 then none else some codeTranslation
  | _ => none
/-- Does an address name a row that is not of its bench's scratch (R306, R318)? -/
def State.leftScratch (s : State) (a : Nat) : Bool :=
  match placeOf a with
  | .scratch _ _ _ => s.requestCode a == some codeProtection
  | _ => false

/-- Translates one access. -/
def State.translate (s : State) (p : XPath) (a : Nat) (write : Bool) : XRes × State :=
  let a := a % 2 ^ 48
  match s.requestCode a with
  | some c => (.err c, s)
  | none =>
    let r := s.lookup p a
    match r.1 with
    | some t => (r.2.judge t a write, r.2)
    | none => (.err codeTranslation, r.2)
/-- The same for an access that has no translation cache: it walks, and fills none (R311). -/
def State.translateBare (s : State) (a : Nat) (write : Bool) : XRes × State :=
  let a := a % 2 ^ 48
  match s.requestCode a with
  | some c => (.err c, s)
  | none =>
    let r := s.walk a
    match r.1 with
    | some t => (r.2.judge t a write, r.2)
    | none => (.err codeTranslation, r.2)

/-- Pages that `n` bytes at `a` touch: the part in each, as address and length. -/
def pageParts : Nat → Nat → Nat → List (Nat × Nat)
  | 0, _, _ => []
  | f + 1, a, n =>
    if n = 0 then []
    else
      let k := min n (4096 - a % 4096)
      (a, k) :: pageParts f (a + k) (n - k)

/-- Is the address inside memory of the map that translation may serve? -/
def partsOf (a n : Nat) : List (Nat × Nat) := pageParts (n / 4096 + 2) a n

/-- Reads a long run of module-physical addresses page by page (R521): bytes, poison. -/
def State.loadLong (s : State) (a n : Nat) : List Byte × Bool × State :=
  (partsOf a n).foldl (fun (acc : List Byte × Bool × State) p =>
    let r := acc.2.2.loadAt p.1 p.2
    (acc.1 ++ r.1, acc.2.1 || r.2.1, r.2.2)) ([], false, s)

/-- Writes a long run page by page; a destination that is to be poisoned is poisoned (R610). -/
def State.storeLong (s : State) (a : Nat) (bs : List Byte) (poison : Bool) : State :=
  ((partsOf a bs.length).foldl (fun (acc : List Byte × State) p =>
    let r := acc.2.storeAt p.1 (acc.1.take p.2) poison
    (acc.1.drop p.2, if r.1 then r.2.poisonAt p.1 p.2 else r.2)) (bs, s)).2

/-- Reads bytes through a path: bytes, poison, or the first error with its address. -/
def State.xread (s : State) (p : XPath) (a n : Nat) : Option (Nat × Nat) × List Byte × Bool × State :=
  (partsOf a n).foldl (fun acc q =>
    match acc.1 with
    | some _ => acc
    | none =>
      let r := acc.2.2.2.translate p q.1 false
      match r.1 with
      | .err c => (some (c, q.1), acc.2.1, acc.2.2.1, r.2)
      | .ok t =>
        let l := r.2.loadAt t q.2
        (none, acc.2.1 ++ l.1, acc.2.2.1 || l.2.1, l.2.2)) (none, [], false, s)

/-- Invalidates every translation cache (R310) (log 30). -/
def State.flushTlbs (s : State) : State :=
  { s with
    cores := s.cores.map fun p => (p.1, { p.2 with tlb := [] })
    benches := s.benches.map fun p => (p.1, { p.2 with tlb := [] })
    hubs := s.hubs.map fun p => (p.1, { p.2 with tlb := [] }) }

/-- The swap: the first installs root 0, each later one inverts ACTIVE; SWAP clears (R310) (log 30). -/
def State.doSwap (s : State) : State :=
  let s := if s.xlatInstalled then s.setFld (mgtKey 0x150) 0 0 (1 - s.xlatActive) else (s.setFld (mgtKey 0x150) 2 2 1).setFld (mgtKey 0x150) 0 0 0
  (s.setFld (mgtKey 0x150) 1 1 0).flushTlbs

/-- Nothing of the module that needs translation is in flight (R300, R310). -/
def State.idleTransfers (s : State) : Bool :=
  s.cores.all (fun p => p.2.descs.isEmpty && p.2.streams.isEmpty && p.2.greqs.isEmpty && p.2.wait.isNone && p.2.fill0.isNone && p.2.fill1.isNone) &&
    s.benches.all (fun p => p.2.missRegs.isEmpty && p.2.schedLoad.isNone) &&
    s.hubs.all fun p => p.2.engines.isEmpty && p.2.haul.isNone
/-- From the setting of SWAP until the swap, while no tab is RUNNING, the module starts no descriptor, copy or haul (R310). -/
def State.swapHolds (s : State) : Bool := s.fld (mgtKey 0x150) 1 1 == 1 && s.tabState != tabRunning

/-- Writes a root register: discarded when it is the active root (R310). -/
def State.wXlatRoot (s : State) (n : Nat) (v : Word64) : Bool × State :=
  if s.xlatInstalled && s.xlatActive == n then (true, s)
  else (false, s.setReg (mgtKey (0x140 + 8 * n)) (typedWrite { rw := 0xfffffffff000, rd := 0xfffffffff000 } (s.reg (mgtKey (0x140 + 8 * n))) v))
/-- Writes MGT_XLAT_CTL: SWAP is set by a 1 (log 30). -/
def State.wXlatCtl (s : State) (v : Word64) : Bool × State :=
  if v.getLsbD 1 then (false, s.setFld (mgtKey 0x150) 1 1 1) else (false, s)

/-- R310. -/
def execXlatRootWrite (o : Origin) (n : Fin 2) (v : Word64) (s : State) : Out :=
  .next (s.originWrite o (keyAddr (mdKey (Origin.md' o) (0x140 + 8 * n))) fun s => s.wXlatRoot n v)
/-- Sets SWAP (R310). -/
def execXlatSwapRequest (o : Origin) (s : State) : Out :=
  .next (s.originWrite o (keyAddr (mdKey (Origin.md' o) 0x150)) fun s => s.wXlatCtl 2)
/-- The swap while no tab runs: in the first fabric cycle in which nothing is in flight (R310). While RUNNING it waits for a segment start. -/
def execXlatSwap (s : State) : Out :=
  .next (if s.fld (mgtKey 0x150) 1 1 == 1 && s.tabState != tabRunning && s.idleTransfers then s.doSwap else s)
/-- A walk of a path completes and fills its cache (R311). -/
def execTranslationWalkComplete (p : XPath) (addr : Addr) (s : State) : Out := .next (s.lookup p addr.toNat).2

end Sys2Proof.Machine
end

