-- ==== Sys2Proof/Machine/MemSlot.lean ====
section
/-!
DEFINITION. The memory and sync slot (R105 to R116, R611): loads and stores of the local store, fills of the tab buffer, waits,
elastic regions, the segment end, plucks and parks. Descriptors stand in Desc.lean, cached accesses and gathers in Elastic.lean.
-/
namespace Sys2Proof.Machine

/-- Effective address sa + imm15 × n (R106). -/
def memEff (x : CoreState) (w n : Nat) : Nat := effAddr (x.s (fMemSa w)) (fImm15 w * n)

/-- A load of `n` bytes into a register with latency 3; a bad address is a class-2 fault (R107), a poisoned one poisons (R611). -/
def State.lsLoad (s : State) (c : CoreId) (w n : Nat) (dst : Dst) : State :=
  let x := s.core c
  let a := memEff x w n
  if lsOk a n then
    let r := s.lsRead c a n
    r.2.2.post c 3 3 dst (BitVec.ofNat 512 r.1) (r.2.1 || x.pz (fMemSa w))
  else s.coreFault c 2 3 x.lastIdx

/-- A store of `n` bytes, visible to loads two cycles later; a poisoned address starts nothing (R611); a pending line is a landing
collision whose access takes place poisoned (R314). -/
def State.lsStore (s : State) (c : CoreId) (w n : Nat) (val : Vec) (poison : Bool) : State :=
  let x := s.core c
  let a := memEff x w n
  if x.pz (fMemSa w) then s.coreDeadline c
  else if lsOk a n then
    let hit := s.linePending c a n
    (s.lineTouch c a n).post c 3 2 (.store a n) val (poison || hit)
  else s.coreFault c 2 3 x.lastIdx

def State.ldvEff (s : State) (c : CoreId) (w : Nat) : State := s.lsLoad c w 64 (.v (fReg w))
def State.ldsEff (s : State) (c : CoreId) (w : Nat) : State := s.lsLoad c w 8 (.s (fReg w % 32))
def State.stvEff (s : State) (c : CoreId) (w : Nat) : State :=
  let x := s.core c
  s.lsStore c w 64 (x.v (fReg w)) (x.pz (vReg (fReg w)))
def State.stsEff (s : State) (c : CoreId) (w : Nat) : State :=
  let x := s.core c
  s.lsStore c w 8 ((x.s (fReg w % 32)).setWidth 512) (x.pz (fReg w % 32))

/-! The tab buffer. -/

/-- TFILL (R111, R611). DESIGN CHOICE (log 57): bits [63:48] of the address are dropped. The valid bit of the half clears, and the fill starts unless its address is poisoned. -/
def State.tfillEff (s : State) (c : CoreId) (w : Nat) : State :=
  let x := s.core c
  let bad := x.pz (fFillS w)
  let fill := if bad then none else some ((x.s (fFillS w)).toNat % 2 ^ 48)
  let x := if fHalf w = 0 then { x with valid0 := false, fill0 := fill } else { x with valid1 := false, fill1 := fill }
  let s := (s.setCore c x).countCore c 0x0d
  if bad then s.coreDeadline c else s

/-- Bundle `i` of a little-endian byte string (R614). -/
def bundleAt (bs : List Byte) (i : Nat) : Bundle := BitVec.ofNat 128 (leNat ((bs.drop (16 * i)).take 16))

/-- Puts 256 bundles into a half (R111, R614). -/
def CoreState.fillHalf (x : CoreState) (half : Nat) (bs : List Byte) : CoreState :=
  { x with tb := (List.range 256).foldl (fun m i => nset m (256 * half + i) (bundleAt bs i)) x.tb }

/-- The last bundle of a fill lands: the half becomes valid. A half that could not be read in full, or that reads poisoned, stays
invalid, so R111 applies when it is reached (log 12). -/
def State.fillDone (s : State) (c : CoreId) (half : Nat) : State :=
  let x := s.core c
  match (if half = 0 then x.fill0 else x.fill1) with
  | none => s
  | some a =>
    let s := s.setCore c (if half = 0 then { x with fill0 := none } else { x with fill1 := none })
    let r := s.xread (.slot c) a 4096
    match r.1 with
    | some _ => r.2.2.2
    | none =>
      if r.2.2.1 then r.2.2.2
      else r.2.2.2.updCore c fun x =>
        let x := x.fillHalf half r.2.1
        if half = 0 then { x with valid0 := true } else { x with valid1 := true }

/-! Sync. -/

def State.waituEff (s : State) (c : CoreId) (w : Nat) : State :=
  s.updCore c fun x => if x.hold == .none then { x with hold := .waitu (fImm26 w) } else x

/-- DEADLINE opens a region: CYC and TB freeze (R57, R60), and L1 starts empty (R325). -/
def State.deadlineEff (s : State) (c : CoreId) (w : Nat) : State :=
  (s.countCore c 0x04).updCore c fun x =>
    { x with l1 := [], lastMiss := none, runAhead := [], region := some ⟨fImm26 w, s.cyc c.benchId, s.tbNow, false, false, [], []⟩ }

/-- ECLOSE: the core holds to the cycle after the deadline (R114); run-ahead of the bench not yet issued is dropped when no other of
its regions is open (R329). -/
def State.ecloseEff (s : State) (c : CoreId) : State :=
  let x := s.core c
  match x.region with
  | none => s
  | some r =>
    let s := s.setCore c { x with lastMiss := none, runAhead := [], region := some { r with closed := true }, hold := .closed (s.atCyc c.benchId (r.deadline + 1)) }
    if (allCores c.benchId).any fun d => match (s.core d).region with | some q => !q.closed | none => false then s
    else s.updBench c.benchId fun y => { y with runAhead := [], lastMiss := none }

/-- Start instant of the next segment, in core cycles (R46). -/
def State.segLength (s : State) : Nat := match s.segNow with | some g => 4 * (g.work + g.slack) | none => 0

/-- SEGEND holds to the next segment (R47); one that issues at or after that start is an overrun, and the core goes on after it. -/
def State.segendEff (s : State) (c : CoreId) : State :=
  if s.job.inStep && s.job.segStart + s.segLength ≤ s.now then
    (s.coreFault c 5 0 (s.core c).lastIdx).updCore c fun x => { x with nextIdx := x.lastIdx }
  else s.updCore c fun x => { x with hold := .segend }

/-- PLUCK (R106): a wake request is under way to a logical bench of the die (log 51). -/
def State.pluckEff (s : State) (c : CoreId) (w : Nat) : State :=
  let s := s.countCore c 0x0e
  match s.benchPhys c.die (fPluck w) with
  | some b => s.updDie c.die fun x => { x with plucks := x.plucks ++ [b.bench.val] }
  | none => s

/-- PARK (R109, R487) (log 51). -/
def State.parkEff (s : State) (c : CoreId) : State :=
  ((((s.countCore c 0x0f).updCore c fun x => { x with parked := true }).updBench c.benchId fun x => { x with wokenBy := none }).tryPark
    c.benchId)

/-! Meanings. -/

def execMsnop (c : CoreId) (b : Bundle) (s : State) : Out := .next (s.slotDo c b 3 0x00 fun _ s => s)
def execLdv (c : CoreId) (b : Bundle) (s : State) : Out := .next (s.slotDo c b 3 0x01 fun w s => s.ldvEff c w)
def execStv (c : CoreId) (b : Bundle) (s : State) : Out := .next (s.slotDo c b 3 0x02 fun w s => s.stvEff c w)
def execLds (c : CoreId) (b : Bundle) (s : State) : Out := .next (s.slotDo c b 3 0x03 fun w s => s.ldsEff c w)
def execSts (c : CoreId) (b : Bundle) (s : State) : Out := .next (s.slotDo c b 3 0x04 fun w s => s.stsEff c w)
def execTfill (c : CoreId) (b : Bundle) (s : State) : Out := .next (s.slotDo c b 3 0x0a fun w s => s.tfillEff c w)
def execWaitu (c : CoreId) (b : Bundle) (s : State) : Out := .next (s.slotDo c b 3 0x20 fun w s => s.waituEff c w)
def execDeadline (c : CoreId) (b : Bundle) (s : State) : Out := .next (s.slotDo c b 3 0x21 fun w s => s.deadlineEff c w)
def execEclose (c : CoreId) (b : Bundle) (s : State) : Out := .next (s.slotDo c b 3 0x22 fun _ s => s.ecloseEff c)
def execSegend (c : CoreId) (b : Bundle) (s : State) : Out := .next (s.slotDo c b 3 0x23 fun _ s => s.segendEff c)
def execPluck (c : CoreId) (b : Bundle) (s : State) : Out := .next (s.slotDo c b 3 0x24 fun w s => s.pluckEff c w)
def execPark (c : CoreId) (b : Bundle) (s : State) : Out := .next (s.slotDo c b 3 0x25 fun _ s => s.parkEff c)

/-- The clock reaches the WAITU target of a bench in RUN, and issue resumes (R106). -/
def execWaituTargetReached (c : CoreId) (s : State) : Out :=
  .next (match (s.core c).hold with
    | .waitu t =>
      let y := s.bench c.benchId
      if y.power = 0 && y.transit == .none then
        ((s.reach (s.atCyc c.benchId t)).updCore c fun x => { x with hold := .none })
      else s
    | _ => s)

/-- The end of the region's deadline cycle (R59, R114). -/
def execRegionDeadline (c : CoreId) (s : State) : Out := .next (s.regionEnd c)

/-- R111, R112. -/
def execTfillComplete (c : CoreId) (half : Fin 2) (s : State) : Out := .next (s.fillDone c half)

end Sys2Proof.Machine
end

