-- ==== Sys2Proof/Machine/Desc.lean ====
section
/-!
DEFINITION. Tensor descriptors (R270 to R303): the map, the checks at issue, the elements they move, and how data lands in local
store (R51 to R54, R313, R314).
-/
namespace Sys2Proof.Machine

/-! The descriptor map (R273 to R275). -/

/-- A dimension entry; one that NDIM leaves out has one position and source index 0 (R275), and its destination stride stays for the
alignment rules, which hold for all five. -/
structure Dim where
  stride : Int
  ext : Nat
  start : Int
  count : Nat
  lo : Nat
  hi : Nat
  dstr : Int
  deriving DecidableEq, Repr

structure TDesc where
  word : Nat
  fmt : Nat
  ndim : Nat
  slay : Nat
  dlay : Nat
  xf : Nat
  wide : Bool
  line : Nat
  sloc : Bool
  dloc : Bool
  deadline : Nat
  src : Nat
  dst : Nat
  sscale : Nat
  dscale : Nat
  splanes : Nat × Nat
  dplanes : Nat × Nat
  fill : Nat
  dims : List Dim
  deriving DecidableEq, Repr

/-- The u64 at a byte offset. -/
def dU64 (w off : Nat) : Nat := (w >>> (8 * off)) % 2 ^ 64
/-- Raw entry of dimension `d`. -/
def dEntry (w d : Nat) : Nat := (w >>> (8 * (0x40 + 16 * d))) % 2 ^ 128
def dDstr (w d : Nat) : Nat := dU64 w (0x90 + 8 * d)

def dimOf (w ndim d : Nat) : Dim :=
  let e := dEntry w d
  if d < ndim then
    ⟨sext 40 (bitsOf e 39 0), bitsOf e 63 40, sext 24 (bitsOf e 87 64), bitsOf e 111 88, bitsOf e 119 112, bitsOf e 127 120,
      sext 48 (dDstr w d % 2 ^ 48)⟩
  else ⟨0, 1, 0, 1, 0, 0, sext 48 (dDstr w d % 2 ^ 48)⟩

def parseDesc (b : BitVec 1536) : TDesc :=
  let w := b.toNat
  let c := dU64 w 0
  let nd := bitsOf c 6 4
  ⟨w, bitsOf c 3 0, nd, bitsOf c 9 8, bitsOf c 11 10, bitsOf c 13 12, c.testBit 14, bitsOf c 17 15, c.testBit 18, c.testBit 19,
    bitsOf c 49 24, dU64 w 8 % 2 ^ 48, dU64 w 0x10 % 2 ^ 48, dU64 w 0x18 % 2 ^ 48, dU64 w 0x20 % 2 ^ 48,
    (dU64 w 0x28 % 2 ^ 32, dU64 w 0x28 / 2 ^ 32), (dU64 w 0x30 % 2 ^ 32, dU64 w 0x30 / 2 ^ 32), dU64 w 0x38,
    (List.range 5).map (dimOf w nd)⟩

def xfPlain : Nat := 0
def xfFeed : Nat := 1
def xfWtile : Nat := 2
def xfFill : Nat := 3

/-- Positions of a dimension. -/
def Dim.pos (d : Dim) : Nat := d.lo + d.count + d.hi
def TDesc.dim (d : TDesc) (i : Nat) : Dim := d.dims.getD i ⟨0, 1, 0, 1, 0, 0, 0⟩
/-- Builds units: FEED or WTILE. -/
def TDesc.units (d : TDesc) : Bool := d.xf == xfFeed || d.xf == xfWtile
def TDesc.empty (d : TDesc) : Bool := d.dims.any fun x => x.pos == 0

/-- MX formats and BS16 (R281). -/
def blockFmt (f : Nat) : Bool := (4 ≤ f && f ≤ 8) || f == 0xc
/-- Formats that only planes hold. -/
def subFmt (f : Nat) : Bool := 6 ≤ f && f ≤ 8
/-- Element width in bits of a code of R98. -/
def fmtBits (f : Nat) : Nat :=
  match f with
  | 0x0 | 0x1 | 0xc => 16
  | 0x6 | 0x7 => 6
  | 0x8 => 4
  | 0xa => 32
  | 0xb => 64
  | _ => 8
/-- Access width in bytes under a whole layout (R294). -/
def fmtBytes (f : Nat) : Nat := (fmtBits f + 7) / 8
/-- Exponent and mantissa plane widths (R138). -/
def planeWidths (f : Nat) : Nat × Nat := if f = 6 then (3, 2) else if f = 7 then (2, 3) else (2, 1)
/-- P(w) of R140. -/
def planeSize (n w : Nat) : Nat := (n * w + 511) / 512 * 64

/-- The blocked dimension (R281). -/
def TDesc.blocked (d : TDesc) : Nat := if d.xf = xfWtile then 1 else 0
def TDesc.kline (d : TDesc) : Nat := if d.wide then 16 else 4
/-- Unit size of FEED and WTILE (R289). -/
def TDesc.unit (d : TDesc) : Nat := if d.xf = xfWtile && d.wide && d.fmt ≤ 1 then 128 else 64

def prodN (l : List Nat) : Nat := l.foldl (· * ·) 1
/-- Element counts of the sides (R285). -/
def TDesc.srcCount (d : TDesc) : Nat := prodN (d.dims.map Dim.ext)
def TDesc.dstCount (d : TDesc) : Nat := prodN (d.dims.map Dim.pos)

/-- Bases of the three planes of a side (R140, R284). -/
def planeBases (f lay base : Nat) (offs : Nat × Nat) (n : Nat) : Nat × Nat × Nat :=
  if lay = 1 then (base, base + planeSize n 1, base + planeSize n 1 + planeSize n (planeWidths f).1)
  else (base, base + offs.1, base + offs.2)

/-! Checks at issue (R293). -/

/-- Is a reserved bit of the layout set (R273, R274)? -/
def descReserved (w : Nat) : Bool :=
  let c := dU64 w 0
  c.testBit 7 || bitsOf c 23 20 != 0 || bitsOf c 63 50 != 0 || [0x08, 0x10, 0x18, 0x20].any (fun o => dU64 w o / 2 ^ 48 != 0) ||
  dU64 w 0x38 / 2 ^ 40 != 0 || (List.range 5).any (fun i => dDstr w i / 2 ^ 48 != 0) || dU64 w 0xb8 != 0

/-- Check 2. `work`: cycles of the segment's WORK span in the unit's domain. -/
def TDesc.malformed (d : TDesc) (hub : Bool) (work : Nat) : Bool :=
  let w := d.word
  let used := d.dims.take d.ndim
  descReserved w || 13 < d.fmt || d.ndim == 0 || 5 < d.ndim || d.slay == 3 || d.dlay == 3 ||
  (List.range 5).any (fun i => d.ndim ≤ i && dEntry w i != 0) ||
  (hub && (d.sloc || d.dloc)) ||
  work ≤ d.deadline ||
  (d.xf != xfFill && used.any fun x => x.count != 0 && x.ext == 0) ||
  (!d.dloc && used.any fun x => x.lo != 0 || x.hi != 0) ||
  (d.xf != xfFill && (d.slay != 0) != subFmt d.fmt) ||
  (!d.units && (d.dlay != 0) != subFmt d.fmt) ||
  (if d.units then
    d.dlay != 0 || 9 < d.fmt || 32 / d.kline ≤ d.line || !d.dloc || (d.dim 0).dstr != 0 || (d.dim 1).dstr != 0 ||
    (if d.xf = xfFeed then
      (d.dim 0).lo != 0 || (d.dim 0).hi != 0 || (d.dim 0).pos != 32 || (d.dim 1).pos != stepRows d.fmt d.wide
    else (d.dim 1).lo != 0 || (d.dim 1).hi != 0 || (d.dim 1).pos != 32 || (d.dim 0).pos != 4)
  else d.wide || d.line != 0) ||
  (d.xf == xfFill && (d.sloc || d.slay != 0 || d.src != 0 ||
    used.any fun x => x.stride != 0 || x.ext != 0 || x.start != 0 || x.lo != 0 || x.hi != 0))

def dvd (n : Nat) (i : Int) : Bool := i % n == 0

/-- Clamped source index of a dimension at unpadded position `p` (R276). -/
def Dim.idx (x : Dim) (p : Nat) : Int := min (max (x.start + p) 0) ((x.ext : Int) - 1)
/-- Source positions a dimension reads: all of COUNT, or under FEED and WTILE the slice of the contraction (R288). -/
def TDesc.readRange (d : TDesc) (i : Nat) : Option (Nat × Nat) :=
  let x := d.dim i
  if x.count = 0 then none
  else if d.units && i == (if d.xf = xfFeed then 0 else 1) then some (d.kline * d.line, d.kline * d.line + d.kline - 1)
  else some (0, x.count - 1)
/-- Clamped index ranges of the source; none when nothing is read. -/
def TDesc.srcRanges (d : TDesc) : Option (List (Int × Int)) :=
  if d.xf = xfFill then none
  else (List.range 5).mapM fun i => (d.readRange i).map fun r => ((d.dim i).idx r.1, (d.dim i).idx r.2)
/-- Position ranges of the destination in its stride units. -/
def TDesc.dstRanges (d : TDesc) : List (Int × Int) :=
  (List.range 5).map fun i => if d.units && i < 2 then (0, 0) else (0, ((d.dim i).pos : Int) - 1)
/-- Least and greatest value of a strided sum. -/
def spanOf (rs : List (Int × Int)) (st : List Int) : Int × Int :=
  (rs.zip st).foldl (fun a p => (a.1 + min (p.1.1 * p.2) (p.1.2 * p.2), a.2 + max (p.1.1 * p.2) (p.1.2 * p.2))) (0, 0)

def TDesc.strides (d : TDesc) : List Int := d.dims.map Dim.stride
def TDesc.dstrs (d : TDesc) : List Int := d.dims.map Dim.dstr

/-- A planar side's rules (R285). -/
def planarOk (d : TDesc) (lay base : Nat) (offs : Nat × Nat) (st : List Int) (b n : Nat) (rs : Option (List (Int × Int))) : Bool :=
  base % 64 == 0 && st.getD b 0 == 1 && (List.range 5).all (fun i => i == b || dvd 32 (st.getD i 0)) &&
  (lay != 2 || (offs.1 % 64 == 0 && offs.2 % 64 == 0 && planeSize n 1 ≤ offs.1 && offs.1 + planeSize n (planeWidths d.fmt).1 ≤ offs.2)) &&
  (match rs with
    | some r => 0 ≤ (spanOf r st).1 && (spanOf r st).2 < n
    | none => true)

/-- Check 3 (R281, R285, R289, R294). -/
def TDesc.aligned (d : TDesc) : Bool :=
  let used := d.dims.take d.ndim
  let b := d.dim d.blocked
  let w := fmtBytes d.fmt
  (!blockFmt d.fmt || (dvd 32 b.start && b.count % 32 == 0 && b.ext % 32 == 0 && b.lo % 32 == 0 && b.hi % 32 == 0 &&
    (d.xf == xfFill || b.stride == (if d.slay = 0 then (w : Int) else 1)))) &&
  (d.xf == xfFill || d.slay != 0 || (d.src % w == 0 && used.all fun x => dvd w x.stride)) &&
  (if d.units then d.dst % d.unit == 0 && (d.dims.drop 2).all fun x => dvd d.unit x.dstr
   else d.dlay != 0 || (d.dst % w == 0 && d.dims.all fun x => dvd w x.dstr)) &&
  (d.xf == xfFill || d.slay == 0 || planarOk d d.slay d.src d.splanes d.strides d.blocked d.srcCount d.srcRanges) &&
  (d.units || d.dlay == 0 || planarOk d d.dlay d.dst d.dplanes d.dstrs 0 d.dstCount (if d.empty then none else some d.dstRanges))

/-- Ordinal of a block (R282): indices, sizes, blocked dimension. -/
def ordinal (idx ext : List Nat) (b : Nat) : Nat :=
  ((List.range 5).reverse).foldl (fun j i =>
    if i = b then j * (ext.getD i 0 / 32) + idx.getD i 0 / 32 else j * ext.getD i 0 + idx.getD i 0) 0

/-- A box lies in one aligned 16 GiB region, or in local store (R295) (log 24). -/
def boxOk (loc : Bool) (lo hi : Int) : Bool :=
  if loc then 0 ≤ lo && hi < 0x10000
  else 0 ≤ lo && hi < 2 ^ 48 && lo / 2 ^ 34 == hi / 2 ^ 34

/-- First and last byte of each box the source can name: elements or planes, and the scale array (R295). -/
def TDesc.srcBoxes (d : TDesc) : List (Int × Int) :=
  match d.srcRanges with
  | none => []
  | some r =>
    let sp := spanOf r d.strides
    (if d.slay = 0 then (d.src + sp.1, d.src + sp.2 + (fmtBytes d.fmt : Int) - 1)
     else
      let pb := planeBases d.fmt d.slay d.src d.splanes d.srcCount
      (pb.1 + sp.1 / 8, pb.2.2 + ((sp.2 + 1) * (planeWidths d.fmt).2 - 1) / 8)) ::
    (if blockFmt d.fmt then
      [((d.sscale + ordinal (r.map fun p => p.1.toNat) (d.dims.map Dim.ext) d.blocked : Nat),
        (d.sscale + ordinal (r.map fun p => p.2.toNat) (d.dims.map Dim.ext) d.blocked : Nat))]
     else [])

/-- The same of the destination. -/
def TDesc.dstBoxes (d : TDesc) : List (Int × Int) :=
  let sp := spanOf d.dstRanges d.dstrs
  if d.units then
    (d.dst + sp.1, d.dst + sp.2 + d.unit - 1) ::
    (if d.xf = xfWtile && isMx d.fmt then [(d.dscale + sp.1, d.dscale + sp.2 + 63)] else [])
  else
    (if d.dlay = 0 then (d.dst + sp.1, d.dst + sp.2 + (fmtBytes d.fmt : Int) - 1)
     else
      let n := d.dstCount
      let pb := planeBases d.fmt d.dlay d.dst d.dplanes n
      let wm := (planeWidths d.fmt).2
      (pb.1 + sp.1 / 8,
        if sp.2 + 1 = n then pb.2.2 + planeSize n wm - 1 else pb.2.2 + ((sp.2 + 1) * wm - 1) / 8)) ::
    (if blockFmt d.fmt then
      [(d.dscale, (d.dscale + ordinal (d.dims.map fun x => x.pos - 1) (d.dims.map Dim.pos) 0 : Nat))]
     else [])

/-- Check 4 (R295). -/
def TDesc.inRegion (d : TDesc) : Bool :=
  d.srcBoxes.all (fun b => boxOk d.sloc b.1 b.2) && d.dstBoxes.all fun b => boxOk d.dloc b.1 b.2

/-- Inserts a stride by size, ties in order. -/
def insertStride : List (Nat × Nat) → Nat × Nat → List (Nat × Nat)
  | [], x => [x]
  | y :: ys, x => if x.1 < y.1 then x :: y :: ys else y :: insertStride ys x

/-- Check 5 (R296). -/
def TDesc.injective (d : TDesc) : Bool :=
  let l := ((List.range 5).filter fun i => !(d.units && i < 2) && 1 < (d.dim i).pos).foldl
    (fun l i => insertStride l ((d.dim i).dstr.natAbs, (d.dim i).pos)) []
  let width := if d.units then d.unit else if d.dlay != 0 then 1 else fmtBytes d.fmt
  ((l.foldl (fun (a : Bool × Nat) x => (a.1 && a.2 ≤ x.1, a.2 + x.1 * (x.2 - 1))) (true, width))).1

def codeMalformed : Nat := 1
def codeAlign : Nat := 2
def codeRegion : Nat := 3
def codeAlias : Nat := 4
def codeFull : Nat := 7

/-- The first check that fails, as its code (R293); 0 when the descriptor is accepted (log 24). -/
def TDesc.check (d : TDesc) (full hub : Bool) (work : Nat) : Nat :=
  if full then codeFull
  else if d.malformed hub work then codeMalformed
  else if !d.aligned then codeAlign
  else if d.empty then 0
  else if !d.inRegion then codeRegion
  else if !d.injective then codeAlias
  else 0

/-- Takes the transpose-tile path (R291). -/
def TDesc.tilePath (d : TDesc) : Bool :=
  let sw : Int := if d.slay = 0 then fmtBytes d.fmt else 1
  let dw : Int := if d.dlay = 0 then fmtBytes d.fmt else 1
  let used := List.range d.ndim
  if d.xf = xfFill then false
  else if d.units then
    let k := if d.xf = xfFeed then 0 else 1
    (d.dim k).stride != sw && used.any fun i => i != k && (d.dim i).stride == sw
  else match used.find? (fun i => (d.dim i).stride == sw), used.find? (fun i => (d.dim i).dstr == dw) with
    | some a, some b => a != b
    | _, _ => false

/-! Where a unit reads and writes. -/

/-- The issuing core, for sides in local store, the translation path, and whether the transfer's segment has ended (R51, R318). -/
structure Mover where
  core : Option CoreId
  path : XPath
  late : Bool
  deriving DecidableEq, Repr

/-- Reads bytes of a side: error with address, number, poison. A late read of a row that has left scratch delivers poison (R318). -/
def State.sideRead (s : State) (m : Mover) (loc : Bool) (a n : Nat) : Option (Nat × Nat) × Nat × Bool × State :=
  match loc, m.core with
  | true, some c =>
    let r := s.loadNat (lsKey c (a % 2 ^ 16)) n
    (none, r.1, r.2.1 || r.2.2.lineBad c (a % 2 ^ 16) n, r.2.2)
  | _, _ =>
    if m.late && s.leftScratch a then (none, 0, true, s)
    else
      let r := s.xread m.path a n
      (r.1, leNat r.2.1, r.2.2.1, r.2.2.2)

/-- Storage key at an address of a descriptor's destination, or an error code. -/
def State.destKey (s : State) (m : Mover) (loc : Bool) (a : Nat) : Except Nat Nat × State :=
  match loc, m.core with
  | true, some c => (.ok (lsKey c (a % 2 ^ 16)), s)
  | _, _ =>
    let r := s.translate m.path a true
    match r.1 with
    | .err c => (.error c, r.2)
    | .ok t => match r.2.keyOf t with
      | some k => (.ok k, r.2)
      | none => (.error codeProtection, r.2)

/-- A field of `w` bits at bit `i` of a plane. -/
def State.planeRead (s : State) (m : Mover) (loc : Bool) (base i w : Nat) : Option (Nat × Nat) × Nat × Bool × State :=
  let b := i * w
  let r := s.sideRead m loc (base + b / 8) ((b % 8 + w + 7) / 8)
  (r.1, (r.2.1 >>> (b % 8)) % 2 ^ w, r.2.2)

/-- What a descriptor has gathered: bytes for its destination with poison, the storage key of each 64-byte line of it, the first error
(code, side, address), clamped elements. -/
structure Moved where
  st : State
  stage : NMap (Nat × Bool) := []
  lines : NMap Nat := []
  err : Option (Nat × Nat × Nat) := none
  clamps : Nat := 0

/-- Adds a field of `w` bits at bit `i` counted from byte `a`. Each bit is written once, so fields of one byte are joined. -/
def stageBits (st : NMap (Nat × Bool)) (a i w v : Nat) (p : Bool) : NMap (Nat × Bool) :=
  let x := (v % 2 ^ w) <<< (i % 8)
  (List.range ((i % 8 + w + 7) / 8)).foldl (fun st k =>
    let o := nget st (a + i / 8 + k) (0, false)
    nset st (a + i / 8 + k) (o.1 ||| ((x >>> (8 * k)) % 256), o.2 || p)) st

/-- A field of the destination: base address, bit offset, width, value, poison. -/
structure Field where
  base : Nat
  bit : Nat
  width : Nat
  val : Nat
  poison : Bool

/-- The line at an address of the destination is reached for the first time: its storage is found, or the descriptor stops (R298). -/
def Moved.touch (q : Moved) (m : Mover) (d : TDesc) (a : Nat) : Moved :=
  if q.err.isSome || (nget? q.lines (a / 64)).isSome then q
  else
    let r := q.st.destKey m d.dloc a
    match r.1 with
    | .error c => { q with st := r.2, err := some (c, 1, a) }
    | .ok k => { q with st := r.2, lines := nset q.lines (a / 64) (k - a % 64) }

/-- Writes the fields of one position in order, up to the first address that fails; `dry` asks for no storage (log 24). -/
def Moved.fields (q : Moved) (m : Mover) (d : TDesc) (dry : Bool) (fs : List Field) : Moved :=
  fs.foldl (fun q f =>
    let a := f.base + f.bit / 8
    let q := if dry then q
      else (List.range ((f.base + (f.bit + f.width - 1) / 8) / 64 - a / 64 + 1)).foldl (fun q i =>
        q.touch m d (if i = 0 then a else (a / 64 + i) * 64)) q
    if q.err.isSome then q else { q with stage := stageBits q.stage f.base f.bit f.width f.val f.poison }) q

/-- An element code, its block scale and poison: at position `p`, from the source, the padding or the fill (R276, R282, R283, R286).
`dry` reads nothing. -/
def Moved.elem (q : Moved) (m : Mover) (d : TDesc) (dry : Bool) (p : List Nat) : Nat × Nat × Bool × Moved :=
  let w := fmtBits d.fmt
  let pad := (List.range 5).any fun i => p.getD i 0 < (d.dim i).lo || (d.dim i).lo + (d.dim i).count ≤ p.getD i 0
  if dry || d.xf = xfFill || pad then (d.fill % 2 ^ w, d.fill / 2 ^ 32 % 256, false, q)
  else match q.err with
    | some _ => (0, 0, true, q)
    | none =>
      let raw := (List.range 5).map fun i => (d.dim i).start + (p.getD i 0 : Int) - (d.dim i).lo
      let idx := (List.range 5).map fun i => (d.dim i).idx (p.getD i 0 - (d.dim i).lo)
      let q := if raw != idx then { q with clamps := q.clamps + 1 } else q
      let x := (idx.zip d.strides).foldl (fun a y => a + y.1 * y.2) 0
      let r : Option (Nat × Nat) × Nat × Bool × State :=
        if d.slay = 0 then q.st.sideRead m d.sloc (wrapInt 48 (d.src + x)) (w / 8)
        else
          let pb := planeBases d.fmt d.slay d.src d.splanes d.srcCount
          let (we, wm) := planeWidths d.fmt
          let i := x.toNat
          let a := q.st.planeRead m d.sloc pb.1 i 1
          let b := a.2.2.2.planeRead m d.sloc pb.2.1 i we
          let c := b.2.2.2.planeRead m d.sloc pb.2.2 i wm
          ((a.1.or b.1).or c.1, a.2.1 <<< (we + wm) ||| b.2.1 <<< wm ||| c.2.1, a.2.2.1 || b.2.2.1 || c.2.2.1, c.2.2.2)
      match r.1 with
      | some e => (0, 0, true, { q with st := r.2.2.2, err := some (e.1, 0, e.2) })
      | none =>
        if blockFmt d.fmt then
          let k := r.2.2.2.sideRead m d.sloc ((d.sscale + ordinal (idx.map Int.toNat) (d.dims.map Dim.ext) d.blocked) % 2 ^ 48) 1
          match k.1 with
          | some e => (0, 0, true, { q with st := k.2.2.2, err := some (e.1, 0, e.2) })
          | none => (r.2.1, k.2.1, r.2.2.1 || k.2.2.1, { q with st := k.2.2.2 })
        else (r.2.1, 127, r.2.2.1, { q with st := r.2.2.2 })

/-- Position vector `i` of a box, dimension 0 innermost. -/
def position (sizes : List Nat) (i : Nat) : List Nat :=
  (sizes.foldl (fun (a : List Nat × Nat) n => (a.1 ++ [a.2 % n], a.2 / n)) ([], i)).1

/-- One position of PLAIN or FILL. -/
def Moved.put (q : Moved) (m : Mover) (d : TDesc) (dry : Bool) (p : List Nat) : Moved :=
  let (v, sc, bad, q) := q.elem m d dry p
  if q.err.isSome then q
  else
    let x := (p.zip d.dstrs).foldl (fun a y => a + (y.1 : Int) * y.2) 0
    let data : List Field := if d.dlay = 0 then [⟨wrapInt 48 (d.dst + x), 0, fmtBytes d.fmt * 8, v, bad⟩]
      else
        let n := d.dstCount
        let pb := planeBases d.fmt d.dlay d.dst d.dplanes n
        let (we, wm) := planeWidths d.fmt
        let i := x.toNat
        -- the last element clears the rest of each plane's final unit (R141)
        [⟨pb.1, i, 1, v >>> (we + wm), bad⟩, ⟨pb.2.1, i * we, we, v >>> wm, bad⟩, ⟨pb.2.2, i * wm, wm, v, bad⟩] ++
        (if i + 1 = n then ([(pb.1, 1), (pb.2.1, we), (pb.2.2, wm)].filter fun b => n * b.2 < 8 * planeSize n b.2).map fun b =>
          ⟨b.1, n * b.2, 8 * planeSize n b.2 - n * b.2, 0, false⟩ else [])
    let scale : List Field := if blockFmt d.fmt && p.getD 0 0 % 32 == 0 then
        [⟨(d.dscale + ordinal p (d.dims.map Dim.pos) 0) % 2 ^ 48, 0, 8, sc, bad⟩]
      else []
    q.fields m d dry (data ++ scale)

/-- One unit of FEED or WTILE (R287, R288). -/
def Moved.unit (q : Moved) (m : Mover) (d : TDesc) (dry : Bool) (u : List Nat) : Moved :=
  let off := ((u.zip (d.dstrs.drop 2)).foldl (fun a y => a + (y.1 : Int) * y.2) 0)
  let a := wrapInt 48 (d.dst + off)
  let sa := wrapInt 48 (d.dscale + off)
  let w := fmtBits d.fmt
  let kl := d.kline
  let mx := isMx d.fmt
  let feed := d.xf == xfFeed
  let one := fun (q : Moved) (r kk : Nat) =>
    let (v, sc, bad, q) := q.elem m d dry ((if feed then [kl * d.line + kk, r] else [r, kl * d.line + kk]) ++ u)
    if q.err.isSome then q
    else q.fields m d dry (⟨a, w * (if feed then kl * r + kk else 4 * kk + r), w, v, bad⟩ ::
      (if mx && kk == 0 then [⟨(if feed then a + 48 else sa) + r, 0, 8, sc, bad⟩] else []))
  let q := q.fields m d dry (⟨a, 0, 8 * d.unit, 0, false⟩ :: (if mx && !feed then [⟨sa, 0, 512, 0, false⟩] else []))
  (List.range (if feed then (d.dim 1).pos else 4)).foldl (fun q r => (List.range kl).foldl (fun q kk => one q r kk) q) q

/-- Walks every position of a descriptor in order, its read before its write, up to the first address that fails (log 24). -/
def State.gather (s : State) (m : Mover) (d : TDesc) (dry : Bool) : Moved :=
  let sizes := if d.units then (d.dims.drop 2).map Dim.pos else d.dims.map Dim.pos
  (List.range (prodN sizes)).foldl (fun q i =>
    if d.units then q.unit m d dry (position sizes i) else q.put m d dry (position sizes i)) ⟨s, [], [], none, 0⟩

/-! Landing (R313, R314). -/

/-- A landing collision: the line is poisoned for the segment and the core reports it (R314). -/
def State.collide (s : State) (c : CoreId) (line : Nat) : State :=
  ((s.updCore c fun x => { x with lineBad := sinsert x.lineBad line }).countCore c 0x37).coreDeadline c

/-- Is a landed line still before its deadline? -/
def State.marked (s : State) (c : CoreId) (line : Nat) : Bool :=
  match nget? (s.core c).marks line with
  | some d => s.cyc c.benchId < d
  | none => false

/-- One line lands in a local store: `write` fills it, and it takes its mark, unless it is a collision; a transfer whose segment has
ended leaves no mark. -/
def State.landAt (s : State) (c : CoreId) (line : Nat) (deadline : Option Nat) (write : State → State) : State :=
  if s.marked c line then s.collide c line
  else
    let s := write s
    match deadline with
    | some d => s.updCore c fun x => { x with marks := nset x.marks line d }
    | none => s

/-- Drains the oldest line of the landing queue, in its cycle (R313). A line at or past its deadline lands poisoned (R51, R54). -/
def State.drainLine (s : State) (c : CoreId) : State :=
  let x := s.core c
  match x.landQ with
  | [] => s
  | e :: rest =>
    let s := s.reach (max e.came x.landFrom)
    let s := s.updCore c fun x => { x with landQ := rest, landFrom := s.now + 1 }
    let late : Bool := decide (e.deadline ≤ s.cyc c.benchId)
    let hit := s.marked c e.line
    let s := s.landAt c e.line (some e.deadline) fun s => (s.store (lsKey c (64 * e.line)) (leBytes 64 e.data.toNat) (e.poison || late)).2
    if late && !hit then s.coreDeadline c else s
/-- Drains the queue: its lines arrived before those of a descriptor that completes now. -/
def State.drainAll (s : State) (c : CoreId) : State := (List.range (s.core c).landQ.length).foldl (fun s _ => s.drainLine c) s

/-- Bytes of a stage that fall in one protected unit of storage. -/
def stageRun (st : NMap (Nat × Bool)) (lo n : Nat) : List (Nat × Nat × Bool) :=
  (List.range n).filterMap fun i => (nget? st (lo + i)).map fun v => (lo + i, v)

/-- Runs of neighbours in a list of bytes. -/
def splitRuns : List (Nat × Nat × Bool) → List (Nat × List Byte × Bool)
  | [] => []
  | (a, v, p) :: r =>
    match splitRuns r with
    | (b, bs, q) :: t => if b = a + 1 then (a, BitVec.ofNat 8 v :: bs, p || q) :: t else (a, [BitVec.ofNat 8 v], p) :: (b, bs, q) :: t
    | [] => [(a, [BitVec.ofNat 8 v], p)]

/-- Stores runs through one page; `base` takes an address of the run to its key. -/
def State.putRuns (s : State) (key : Nat → Nat) (rs : List (Nat × List Byte × Bool)) : State :=
  rs.foldl (fun s r =>
    let w := s.store (key r.1) r.2.1 r.2.2
    if w.1 then w.2.poisonRange (key r.1) r.2.1.length else w.2) s

/-- Lands the bytes of one 64-byte line of storage, grouped by protected unit (R610); in a local store under R313 (log 25). -/
def State.landLine (s : State) (key0 : Nat) (addr0 : Nat) (st : NMap (Nat × Bool)) (deadline : Option Nat) : State :=
  let z := unitSize key0
  let key := fun a => key0 + (a - addr0)
  let write := fun (s : State) => (List.range (64 / z)).foldl (fun s i => s.putRuns key (splitRuns (stageRun st (addr0 + i * z) z))) s
  match coreOfKey key0 with
  | none => write s
  | some c => (s.drainAll c).landAt c (key0 % 2 ^ 16 / 64) deadline write

/-- Lines a stage touches. -/
def stageLines (st : NMap (Nat × Bool)) : List Nat := st.foldl (fun l p => sinsert l (p.1 / 64)) []

/-- Lands what a descriptor has gathered, line by line. -/
def Moved.land (q : Moved) (deadline : Option Nat) : State :=
  q.lines.foldl (fun s l => s.landLine l.2 (64 * l.1) q.stage deadline) q.st

/-- Poisons every destination byte that has storage (R54, R298, R299). -/
def State.poisonStage (s : State) (m : Mover) (loc : Bool) (st : NMap (Nat × Bool)) : State :=
  (stageLines st).foldl (fun s l =>
    let r := s.destKey m loc (64 * l)
    match r.1 with
    | .error _ => r.2
    | .ok k => (splitRuns (stageRun st (64 * l) 64)).foldl (fun s q => s.poisonRange (k + (q.1 - 64 * l)) q.2.1.length) r.2) s

/-- Poisons the destination of a descriptor. -/
def State.poisonDest (s : State) (m : Mover) (d : TDesc) : State := s.poisonStage m d.dloc (s.gather m d true).stage

/-- Runs a descriptor whole in position order: reads, lands, or stops at its first error, with what it wrote before in place and its
destination poisoned (R298); answers the error (code, side, address) and the clamps. `late`: its deadline has come, so what lands is
poisoned (R51, R54). -/
def State.runDesc (s : State) (m : Mover) (d : TDesc) (late : Bool) : Option (Nat × Nat × Nat) × Nat × State :=
  let q := s.gather m d false
  let q := if late then { q with stage := q.stage.map fun p => (p.1, p.2.1, true) } else q
  let s := q.land (if m.late then none else some d.deadline)
  (q.err, q.clamps, if q.err.isSome then s.poisonDest m d else s)

/-- A transfer whose deadline has come without its data: every destination byte is poisoned (R51, R54). -/
def State.lateDest (s : State) (m : Mover) (rec : BitVec 1536) : State := s.poisonDest m (parseDesc rec)

/-- The hub that finds a loader slot of the source's box without its ready mark for the step (R70, R618) (log 58). -/
def State.unreadySlot (s : State) (d : TDesc) : Option Hub :=
  if !s.tabRuns || d.sloc then none
  else (bucketsOf s.theTab).findSome? fun b => d.srcBoxes.findSome? fun x =>
    let lo := max x.1.toNat b.base
    let hi := min x.2.toNat (b.base + b.slots * b.stride - 1)
    if b.stride = 0 || hi < lo then none
    else (List.range ((hi - b.base) / b.stride - (lo - b.base) / b.stride + 1)).findSome? fun i =>
      let a := b.base + ((lo - b.base) / b.stride + i) * b.stride
      match placeOf a with
      | .lpddr c o =>
        let w := s.peekNat (s.lpddrKey c o) 8
        if w.testBit 63 && w % 2 ^ 40 == s.stepNo then none else finOf? 6 (c / 56)
      | _ => none

/-! The core's memory slot. -/

def coreMover (c : CoreId) (late : Bool := false) : Mover := ⟨some c, .slot c, late⟩

/-- Records the first descriptor error of a segment (R302); counts it (R589). -/
def State.descFault (s : State) (c : CoreId) (code side addr : Nat) : State :=
  let s := if code = codeTranslation then s.countCore c 0x34 else if code = codeProtection then s.countCore c 0x35 else s
  if (s.core c).descFaulted then s
  else ((s.setReg (coreKey c 0x38) (faultWord (code + 8 + side * 128) s.stepNo)).setReg (coreKey c 0x40)
    (BitVec.ofNat 64 (addr % 2 ^ 48))).updCore c fun x => { x with descFaulted := true }

/-- DISS (R271, R272, R293, R299, R310, R611). A descriptor whose bytes read poisoned starts nothing, as a poisoned address does (log 13). -/
def State.dissEff (s : State) (c : CoreId) (w : Nat) : State :=
  let x := s.core c
  let a := (x.s (fDissS w)).toNat
  if x.pz (fDissS w) then s.coreDeadline c
  else if a % 64 != 0 || 0xff40 < a then s.coreFault c 2 3 x.lastIdx
  else if s.swapHolds then s
  else
    let r := s.lsRead c a 192
    let s := r.2.2
    if r.2.1 then s.coreDeadline c
    else
      let d := parseDesc (BitVec.ofNat 1536 r.1)
      let code := d.check (4 ≤ x.descs.length) false s.workCycles
      if code != 0 then
        let s := s.countCore c 0x31
        let s := if code = codeFull then s.countCore c 0x32 else if code = codeAlias then s.countCore c 0x33 else s
        ((s.descFault c code 0 a).poisonDest (coreMover c) d).coreDeadline c
      else
        let s := s.countCore c 0x30
        let s := if d.tilePath then s.countCore c 0x38 else s
        if d.empty then s
        else s.updCore c fun y => { y with descs := y.descs ++ [(BitVec.ofNat 1536 r.1, false)] }

/-- The last byte of a core's descriptor lands, and its slot is free (R272, R298). One that became late before has been reported. -/
def State.coreDescDone (s : State) (c : CoreId) (i : Nat) : State :=
  match (s.core c).descs[i]? with
  | none => s
  | some rec =>
    let s := s.drainAll c
    let s := s.updCore c fun x => { x with descs := x.descs.eraseIdx i }
    let d := parseDesc rec.1
    let late : Bool := rec.2 || decide (d.deadline ≤ s.cyc c.benchId)
    let unready := s.unreadySlot d
    let s := match unready with | some h => s.hubDeadline h | none => s
    let r := s.runDesc (coreMover c rec.2) d (late || unready.isSome)
    let s := r.2.2.countCore c 0x36 r.2.1
    let s := match r.1 with
      | some e => (s.descFault c e.1 e.2.1 e.2.2).coreDeadline c
      | none => if late && !rec.2 then s.coreDeadline c else s
    s.tryPark c.benchId

/-- A descriptor of the core has not landed by its deadline: it is late, its destination is poisoned and the core reports it (R51, R54). -/
def State.lateDesc (s : State) (c : CoreId) (i : Nat) : State :=
  match (s.core c).descs[i]? with
  | some (rec, false) =>
    let s := s.updCore c fun x => { x with descs := x.descs.set i (rec, true) }
    (s.lateDest (coreMover c) rec).coreDeadline c
  | _ => s
/-- The same of every descriptor of the core whose deadline has come; of all of them at a segment's end (`all`). -/
def State.lateDescs (s : State) (c : CoreId) (all : Bool) : State :=
  (List.range (s.core c).descs.length).foldl (fun s i => match (s.core c).descs[i]? with
    | some (rec, false) => if all || (parseDesc rec).deadline ≤ s.cyc c.benchId then s.lateDesc c i else s
    | _ => s) s

/-- R271, R293. -/
def execDiss (c : CoreId) (b : Bundle) (s : State) : Out := .next (s.slotDo c b 3 0x05 fun w s => s.dissEff c w)

/-! The landing queue (R313). -/

/-- An arriving line joins the queue of 16 lines, where there is room: a full queue withholds the credit it would come with. The queue
drains one line in each core cycle: a line that finds it empty lands in its cycle of arrival, and with no arrival the clock reaches the
cycle of the next drain (log 25). -/
def State.landingWrite (s : State) (c : CoreId) (arr : Option (Fin 1024 × Vec × BitVec 26 × Bool)) : State :=
  let x := s.core c
  match arr with
  | some (l, v, d, p) =>
    if x.landQ.length < 16 then
      let s := s.updCore c fun x => { x with landQ := x.landQ ++ [⟨s.now, l, v, d.toNat, p⟩] }
      if x.landQ.isEmpty && x.landFrom ≤ s.now then s.drainLine c else s
    else s
  | none => s.drainLine c

/-- The clock reaches the deadline cycle of a line, and its mark clears (R313); with no mark there, the earliest deadline of the core's
descriptors, and those that have not landed are late (R51, R54) (log 25). -/
def State.landingDeadline (s : State) (c : CoreId) (line : Nat) : State :=
  let x := s.core c
  match nget? x.marks line with
  | some d => ((s.reach (s.atCyc c.benchId d)).updCore c fun x => { x with marks := nerase x.marks line }).lateDescs c false
  | none =>
    match ((x.descs.filter fun r => !r.2).map fun r => (parseDesc r.1).deadline).min? with
    | some d => (s.reach (s.atCyc c.benchId d)).lateDescs c false
    | none => s

def execLandingWrite (c : CoreId) (arr : Option (Fin 1024 × Vec × BitVec 26 × Bool)) (s : State) : Out := .next (s.landingWrite c arr)

end Sys2Proof.Machine
end

