-- ==== Sys2Proof/Machine/Elastic.lean ====
section
/-!
DEFINITION. Elastic accesses (R320 to R334, R612): LDC and STC through L1 and the cache partition, miss slots, run-ahead, and gather
streams. Caches and miss registers know a line by its module-physical address (log 14).
-/
namespace Sys2Proof.Machine

/-! Caches. -/

/-- Finds a line in a set and makes it the most recent. -/
def cacheTouch (m : NMap (List (Nat × Vec))) (set line : Nat) : Option Vec × NMap (List (Nat × Vec)) :=
  let ws := nget m set []
  match ws.find? fun w => w.1 == line with
  | some w => (some w.2, nset m set (w :: ws.filter fun v => v.1 != line))
  | none => (none, m)
/-- Enters a line; the least recently used way goes. -/
def cachePut (m : NMap (List (Nat × Vec))) (set ways line : Nat) (v : Vec) : NMap (List (Nat × Vec)) :=
  nset m set (((line, v) :: (nget m set []).filter fun w => w.1 != line).take ways)
/-- Updates a copy that is present (R322). -/
def cacheUpd (m : NMap (List (Nat × Vec))) (set line : Nat) (v : Vec) : NMap (List (Nat × Vec)) :=
  let ws := nget m set []
  if ws.any fun w => w.1 == line then nset m set (ws.map fun w => if w.1 = line then (line, v) else w) else m

/-- Drops a line wherever it stands (log 26). -/
def cacheDrop (m : NMap (List (Nat × Vec))) (line : Nat) : NMap (List (Nat × Vec)) := m.map fun p => (p.1, p.2.filter fun v => v.1 != line)

/-- L1 set of a line (R320). -/
def l1Set (line : Nat) : Nat := line % 64
/-- Sets a slice holds at scratch size S (R316). -/
def partSets (scratch : Nat) : Nat := 512 - 32 * scratch
/-- Slice of a cached line (R316). -/
def partSlice (line : Nat) : Nat := (List.range 7).foldl (fun x i => x ^^^ (line >>> (6 * i)) % 64) 0
/-- Set of a line in the partition: slice and set together. -/
def partSet (scratch line : Nat) : Nat := 512 * partSlice line + line / 64 % partSets scratch

def State.scratchMiB (s : State) (b : BenchId) : Nat := s.fld (benchKey b 0x228) 4 0

/-- Looks a line up in a bench's partition; LPDDR6 lines only (R321). -/
def State.partLookup (s : State) (b : BenchId) (line : Nat) : Option Vec × State :=
  let z := s.scratchMiB b
  if 16 ≤ z then (none, s.countBench b 0x3a none 1)
  else
    let r := cacheTouch (s.bench b).part (partSet z line) line
    (r.1, (s.updBench b fun x => { x with part := r.2 }).countBench b (if r.1.isSome then 0x39 else 0x3a) none 1)
def State.partFill (s : State) (b : BenchId) (line : Nat) (v : Vec) : State :=
  let z := s.scratchMiB b
  if 16 ≤ z then s else s.updBench b fun x => { x with part := cachePut x.part (partSet z line) 8 line v }

/-! Requests. -/

/-- Hub and local channel of an LPDDR6 line. -/
def lineChan (line : Nat) : Option (Hub × Nat) :=
  let ch := line * 64 / 2 ^ 35
  (finOf? 6 (ch / 56)).map fun h => (h, ch % 56)

/-- A miss takes a register and waits at its channel (R326): line, storage key, who waits. -/
def State.miss (s : State) (b : BenchId) (line key who : Nat) : State :=
  match lineChan (key / 64) with
  | none => s
  | some (h, ch) =>
    (s.updBench b fun x => { x with missRegs := x.missRegs ++ [⟨line, key, who⟩] }).updHub h fun x =>
      { x with misses := nset x.misses ch (nget x.misses ch [] ++ [(b.die.val, b.bench.val, line)]) }
/-- A demand miss: it takes a register, or waits for one (R326). -/
def State.demandMiss (s : State) (b : BenchId) (line key who : Nat) : State :=
  if (s.bench b).missRegs.length < 64 then s.miss b line key who else s.countBench b 0x3b none 1

/-- A request that R325 refuses: its code and address are recorded, and the region ends as a fault. -/
def State.elasticErr (s : State) (c : CoreId) (code addr : Nat) (regs mem : List Nat) : State :=
  (s.descFault c code 0 addr).updCore c fun x => { x with
    region := x.region.map fun g => { g with bad := true, regs := regs.foldl sinsert g.regs, mem := mem.foldl sinsert g.mem } }

/-- May an elastic request name the address: LPDDR6 or the bench's own scratch (R325)? -/
def State.elasticNames (s : State) (b : BenchId) (a : Nat) : Bool :=
  match placeOf a with
  | .scratch d l _ => s.benchAt d l == some b
  | .store _ _ _ _ | .csr => false
  | _ => true

/-- What an elastic request names, as a storage key (R325). -/
def State.elasticKey (s : State) (b : BenchId) (a : Nat) (write : Bool) : Except Nat Nat × State :=
  if !s.elasticNames b (a % 2 ^ 48) then (.error codeProtection, s)
  else
    let r := s.translate (.elastic b) a write
    match r.1 with
    | .err c => (.error c, r.2)
    | .ok t => match r.2.keyOf t with
      | none => (.error codeProtection, r.2)
      | some k =>
        if k < 0x800000000000 || (k / 2 ^ 24 == scratchKey b 0 / 2 ^ 24) then (.ok k, r.2) else (.error codeProtection, r.2)

/-- The last demand miss of a cache, and the pairs of adjacent ones that may start a run-ahead, after a further miss (R329). -/
def noteAdjacent (last : Option Nat) (ahead : List (Nat × Bool)) (line : Nat) : List (Nat × Bool) :=
  match last with
  | some l => if l + 1 = line then (line, true) :: ahead else if line + 1 = l then (line, false) :: ahead else ahead
  | none => ahead
/-- A demand miss of the partition. -/
def State.noteMiss (s : State) (b : BenchId) (line : Nat) : State :=
  s.updBench b fun x => { x with lastMiss := some line, runAhead := noteAdjacent x.lastMiss x.runAhead line }
/-- A demand miss of an L1. -/
def CoreState.noteMiss (x : CoreState) (line : Nat) : CoreState :=
  { x with lastMiss := some line, runAhead := noteAdjacent x.lastMiss x.runAhead line }

/-- LDC (R320, R321): the line comes from L1, the own scratch or the partition at completion, or waits for a miss register. A poisoned
address poisons what it delivers (R611). DESIGN CHOICE (log 57): bits [63:48] of the effective address are dropped. -/
def State.ldcEff (s : State) (c : CoreId) (w : Nat) : State :=
  let x := s.core c
  let b := c.benchId
  let a := memEff x w 64 / 64 * 64 % 2 ^ 48
  let line := a / 64
  let bad := x.pz (fMemSa w)
  let r := s.elasticKey b a false
  match r.1 with
  | .error e => r.2.elasticErr c e a [vReg (fReg w)] []
  | .ok k =>
    let s := r.2
    let l1 := cacheTouch (s.core c).l1 (l1Set line) line
    let hold := fun (s : State) (v : Option Vec) (p : Bool) => s.updCore c fun y => { y with
      hold := .cache, wait := some ⟨true, line, k, fReg w, v.getD 0, bad || p, v.isSome⟩ }
    match l1.1 with
    | some v =>
      let q := s.checkWords c (.l1 c) ((List.range 8).map fun i => a + 8 * i)
      hold ((q.2.updCore c fun y => { y with l1 := l1.2 }).countCore c 0x06) (some v) q.1
    | none =>
      let s := (s.countCore c 0x07).updCore c fun y => y.noteMiss line
      if 0x800000000000 ≤ k then
        let rd := s.loadNat k 64
        hold rd.2.2 (some (BitVec.ofNat 512 rd.1)) rd.2.1
      else
        let p := s.partLookup b line
        match p.1 with
        | some v => hold p.2 (some v) false
        | none => hold ((p.2.noteMiss b line).demandMiss b line k c.core) none false

/-- STC (R322): the line is written at completion; a poisoned address starts nothing (R611) (log 26). DESIGN CHOICE (log 57): bits [63:48]
of the effective address are dropped. -/
def State.stcEff (s : State) (c : CoreId) (w : Nat) : State :=
  let x := s.core c
  let a := memEff x w 64 / 64 * 64 % 2 ^ 48
  if x.pz (fMemSa w) then s.coreDeadline c
  else
    let r := s.elasticKey c.benchId a true
    match r.1 with
    | .error e => r.2.elasticErr c e a [] []
    | .ok k => r.2.updCore c fun y => { y with
        hold := .cache, wait := some ⟨false, a / 64, k, fReg w, x.v (fReg w), x.pz (vReg (fReg w)), true⟩ }

/-- A line enters an L1. -/
def CoreState.l1Fill (x : CoreState) (line : Nat) (v : Vec) : CoreState := { x with l1 := cachePut x.l1 (l1Set line) 4 line v }
/-- The same, with the check bits of its words written anew (R511). -/
def State.l1Put (s : State) (c : CoreId) (line : Nat) (v : Vec) : State :=
  { s.updCore c fun x => x.l1Fill line v with errs := s.errs.filter fun e => !(e.1 == .l1 c && e.2.1 / 64 == line) }

/-- A stalled LDC or STC is served, and issue resumes (R320, R322); no earlier than an L1 hit's four cycles. The register of an LDC is
written at the end of the cycle before, under R87 and R88. -/
def State.cacheDone (s : State) (c : CoreId) : State :=
  let x := s.core c
  let b := c.benchId
  match x.wait with
  | none => s
  | some w =>
    let line := w.line
    if !w.load then
      let s := s.reach (x.lastCycle.getD 0 + 4)
      match s.keyOf (s.addrOf w.addr) with
      | none =>
        -- the row has left scratch: the write is dropped (R318)
        ((s.elasticErr c codeProtection (s.addrOf w.addr) [] [w.addr]).updCore c fun y => { y with wait := none, hold := .none })
      | some _ =>
        let st := s.store w.addr (leBytes 64 w.data.toNat) w.poison
        let z := s.scratchMiB b
        let l1 := if w.poison then cacheDrop x.l1 line else cacheUpd x.l1 (l1Set line) line w.data
        let old := (s.bench b).part
        let part := if w.poison then cacheDrop old line else if 16 ≤ z then old else cacheUpd old (partSet z line) line w.data
        let s := st.2.updCore c fun y => { y with wait := none, hold := .none, l1 := l1 }.noteMem (unitsOf w.addr 64)
        { s.updBench b fun y => { y with part := part } with
          errs := s.errs.filter fun e => !(e.1 == .l1 c && e.2.1 / 64 == line) }
    else if w.ready then
      let s := s.reach (x.lastCycle.getD 0 + 4)
      let s := if w.poison then s else s.l1Put c line w.data
      let s := s.updCore c fun y =>
        { y with wait := none, hold := .none }.addResult ⟨s.now - 1, 3, .v w.reg, w.data, w.poison, y.region.isSome⟩
      s.applyBefore c s.now
    else if (s.bench b).missRegs.any fun r => r.line == line && r.who == c.core.val then s
    else s.demandMiss b line w.addr c.core

/-! Miss slots. -/

/-- The 64 bytes at a key without a record of any error: none when they are poisoned or uncorrectable (R331). -/
def State.quietRead (s : State) (k : Nat) : Option Vec × State :=
  let us := unitsOf k 64
  let dmg : Nat → Nat := fun u => match storeOf u with
    | some r => ((s.errs.find? fun e => e.1 == r && e.2.1 == u).map fun e => damage (u < 0x800000000000) e.2.2).getD 0
    | none => 0
  if us.any fun u => smem s.poison u || dmg u == 2 then (none, s)
  else if us.all fun u => dmg u ≤ 1 then (some (BitVec.ofNat 512 (s.peekNat k 64)), s)
  else (some (BitVec.ofNat 512 (leNat ((List.range 64).map fun i =>
    if 2 < dmg (unitOf (k + i)) then freeByte s.draws i else memGet s.mem (k + i)))), s.drew)

/-- The first request of a line that waits takes its data. -/
def readyFirst (line : Nat) (v : Vec) (bad : Bool) : List GReq → List GReq
  | [] => []
  | q :: qs => if q.line = line && !q.ready then { q with ready := true, data := v, poison := q.poison || bad } :: qs else q :: readyFirst line v bad qs

/-- A line arrives for a miss register: the partition takes it, and who waits on it is served. A fetch ahead that reads poisoned or
uncorrectable is dropped (R331). -/
def State.fillLine (s : State) (b : BenchId) (line : Nat) : State :=
  match (s.bench b).missRegs.find? fun r => r.line == line with
  | none => s
  | some r =>
    let s := s.updBench b fun x => { x with missRegs := x.missRegs.erase r }
    if r.who = 64 || 192 ≤ r.who then
      let q := s.quietRead r.key
      match q.1 with
      | none => q.2
      | some v =>
        let s := q.2.partFill b line v
        match finOf? 64 (r.who - 192), decide (192 ≤ r.who) with
        | some i, true => s.l1Put (b.coreAt i) line v
        | _, _ => s
    else
      let rd := s.loadNat r.key 64
      let v := BitVec.ofNat 512 rd.1
      let s := if rd.2.1 then rd.2.2 else rd.2.2.partFill b line v
      match finOf? 64 (r.who % 128) with
      | none => s
      | some i => s.updCore (b.coreAt i) fun x =>
        if 128 ≤ r.who then { x with greqs := readyFirst line v rd.2.1 x.greqs }
        else { x with wait := x.wait.map fun w =>
          if w.load && w.line == line && !w.ready then { w with data := v, poison := w.poison || rd.2.1, ready := true } else w }

/-- The oldest queued miss of a die on a channel is served in the die's slot, one at a time (R326). -/
def State.serveMiss (s : State) (h : Hub) (ch : Nat) (die : Die) : State :=
  let q := nget (s.hub h).misses ch []
  match q.find? fun m => m.1 == die.val with
  | none => s
  | some m =>
    let s := s.updHub h fun x => { x with misses := nset x.misses ch (q.erase m) }
    match finOf? 180 m.2.1 with
    | some b => s.fillLine ⟨die, b⟩ m.2.2
    | none => s

/-! Run-ahead. -/

/-- Is a region of the bench open and not closed (R329)? -/
def State.regionOpen (s : State) (b : BenchId) : Bool :=
  (allCores b).any fun c => match (s.core c).region with | some r => !r.closed | none => false

def hasLine (m : NMap (List (Nat × Vec))) (set line : Nat) : Bool := (nget m set []).any fun w => w.1 == line

/-- The storage that a fetch ahead of a requested line may read; none when it is dropped (R330, R331). -/
def State.aheadKey (s : State) (b : BenchId) (from' next : Nat) : Option Nat :=
  match (s.bench b).tlb.find? (tlbHas (64 * next)) with
  | none => none
  | some t =>
    if (from' / 64 != next / 64 && !t.entry.getLsbD 3) || (s.requestCode (64 * next)).isSome || !s.elasticNames b (64 * next) then none
    else match s.judge t (64 * next) false with
      | .err _ => none
      | .ok a => s.keyOf a

/-- One fetch ahead of a requested line, by the partition or by the L1 of a core, or its drop (R329 to R331). -/
def State.fetchAhead (s : State) (b : BenchId) (core : Option (Fin 64)) (from' next : Nat) : State :=
  let drop := s.countBench b 0x3d none 1
  let z := s.scratchMiB b
  match s.aheadKey b from' next with
  | none => drop
  | some k =>
    let who := match core with | some i => 192 + i.val | none => 64
    match core with
    | some i =>
      let c := b.coreAt i
      if hasLine (s.core c).l1 (l1Set next) next then s
      else if 0x800000000000 ≤ k then
        if k / 2 ^ 24 != scratchKey b 0 / 2 ^ 24 then drop
        else
          let q := s.quietRead k
          match q.1 with
          | some v => (q.2.l1Put c next v).countBench b 0x3c none 1
          | none => q.2
      else match (nget (s.bench b).part (partSet z next) []).find? fun w => w.1 == next with
        | some w => (s.l1Put c next w.2).countBench b 0x3c none 1
        | none => take drop k who
    | none => if 0x800000000000 ≤ k then drop else if hasLine (s.bench b).part (partSet z next) next then s else take drop k who
where
  take (drop : State) (k who : Nat) : State :=
    if 64 < (s.bench b).missRegs.length + 16 then drop
    else if (s.bench b).missRegs.any fun r => r.line == next then s
    else (s.miss b next k who).countBench b 0x3c none 1

/-- Up to four fetches ahead in one direction. -/
def State.fetchFour (s : State) (b : BenchId) (core : Option (Fin 64)) (line : Nat) (up : Bool) : State :=
  (List.range 4).foldl (fun s i =>
    if up then s.fetchAhead b core line (line + i + 1) else if i < line then s.fetchAhead b core line (line - i - 1) else s) s

/-- After two demand misses to adjacent lines, up to four further lines in the same direction, by the cache that missed: the partition or
an L1 (R329). -/
def State.prefetch (s : State) (b : BenchId) (line : Nat) (up : Bool) : State :=
  if !s.regionOpen b then s
  else
    let x := s.bench b
    let s := if x.runAhead.contains (line, up) then
        (s.setBench b { x with runAhead := x.runAhead.erase (line, up) }).fetchFour b none line up
      else s
    (List.finRange 64).foldl (fun s i =>
      let c := b.coreAt i
      if (s.core c).runAhead.contains (line, up) then
        (s.updCore c fun y => { y with runAhead := y.runAhead.erase (line, up) }).fetchFour b (some i) line up
      else s) s

/-! Gather streams. -/

def gCtrl (d : Nat) : Nat := dU64 d 0
def gTable (d : Nat) : Nat := dU64 d 8 % 2 ^ 48
def gStride (d : Nat) : Nat := dU64 d 0x10 % 2 ^ 40
def gRows (d : Nat) : Nat := dU64 d 0x10 / 2 ^ 40
def gIdx (d : Nat) : Nat := dU64 d 0x18 % 2 ^ 16
def gDst (d : Nat) : Nat := dU64 d 0x18 / 2 ^ 16 % 2 ^ 16
def gCount (d : Nat) : Nat := dU64 d 0x18 / 2 ^ 32 % 2 ^ 16
def gRowl (d : Nat) : Nat := bitsOf (gCtrl d) 5 2 + 1

/-- Checks of R334, as a code of R293; 0 when the stream starts (log 24). -/
def gatherCheck (a d : Nat) : Nat :=
  let last := gTable d + (gRows d - 1) * gStride d + 64 * gRowl d - 1
  let ib := if gCtrl d % 4 = 1 then 2 else 4
  if 1 < gCtrl d % 4 || gCtrl d / 64 != 0 || dU64 d 8 / 2 ^ 48 != 0 || dU64 d 0x18 / 2 ^ 48 != 0 || d / 2 ^ 256 % 2 ^ 256 != 0 ||
      gRows d == 0 || gCount d == 0 then codeMalformed
  else if a % 64 != 0 || gTable d % 64 != 0 || gStride d % 64 != 0 || gDst d % 64 != 0 then codeAlign
  else if 0x10000 < gIdx d + gCount d * ib || 0x10000 ≤ gDst d + 64 * gCount d * gRowl d then codeRegion
  else if 2 ^ 48 ≤ last || gTable d / 2 ^ 34 != last / 2 ^ 34 then codeRegion
  else 0

/-- Destination lines of a stream as storage. -/
def gatherUnits (c : CoreId) (g : GStream) : List Nat := unitsOf (lsKey c g.dst) (64 * g.count * g.rowl)

/-- GSTR (R332, R334, R611); one whose descriptor does not lie in the local store fails by its alignment first (log 24). -/
def State.gstrEff (s : State) (c : CoreId) (w : Nat) : State :=
  let x := s.core c
  let a := (x.s (fGstrS w)).toNat
  if x.pz (fGstrS w) then s.coreDeadline c
  else if 0x10000 < a + 64 then s.elasticErr c (if a % 64 = 0 then codeRegion else codeAlign) a [] []
  else
    let r := s.lsRead c a 64
    let s := r.2.2
    let code := gatherCheck a r.1
    if r.2.1 then s.coreDeadline c
    else if code != 0 then s.elasticErr c code a [] []
    else
      let g : GStream := ⟨gCtrl r.1 % 4 == 1, gRowl r.1, gTable r.1, gStride r.1, gRows r.1, gIdx r.1, gDst r.1, gCount r.1, 0, 0⟩
      s.updCore c fun y => { y with streams := nset y.streams (fStream w) g }

/-- GWAIT stalls until the stream completes (R106, R115). -/
def State.gwaitEff (s : State) (c : CoreId) (w : Nat) : State :=
  s.updCore c fun x => if (nget? x.streams (fStream w)).isSome then { x with hold := .gwait (fStream w) } else x

/-- Ends a stream; a GWAIT on it is released. -/
def CoreState.endStream (x : CoreState) (i : Nat) : CoreState :=
  { x with streams := nerase x.streams i, greqs := x.greqs.filter fun r => r.stream != i
           hold := if x.hold == .gwait i then .none else x.hold }

/-- Streams with lines left, in rotating order after the last one served (R612). -/
def CoreState.nextStream (x : CoreState) : Option Nat :=
  ((List.range 4).map fun i => (x.grot + 1 + i) % 4).find? fun i => match nget? x.streams i with
    | some g => g.next < g.count * g.rowl
    | none => false

/-- The line that request `n` of a stream names (R333): its address, whether the index was clamped, and poison of the index. -/
def State.gatherAddr (s : State) (c : CoreId) (g : GStream) (n : Nat) : Nat × Bool × Bool × State :=
  let ib := if g.u16idx then 2 else 4
  let ir := s.lsRead c (g.idx + ib * (n / g.rowl)) ib
  let v : Int := if g.u16idx then (ir.1 : Int) else sext 32 ir.1
  let r := (min (max v 0) ((g.rows : Int) - 1)).toNat
  (g.table + r * g.stride + 64 * (n % g.rowl), (r : Int) != v, ir.2.1, ir.2.2)

/-- The next line request, while fewer than 16 are outstanding (R612): the own scratch and the partition answer it, and a miss takes a
register or waits for one (R321, R326). -/
def State.gatherIssue (s : State) (c : CoreId) : State :=
  let x := s.core c
  let b := c.benchId
  if 16 ≤ x.greqs.length then s
  else match x.nextStream with
    | none => s
    | some i => match nget? x.streams i with
      | none => s
      | some g =>
        let s := (s.setCore c { x with grot := i, streams := nset x.streams i { g with next := g.next + 1 } }).countCore c 0x08
        let p := s.gatherAddr c g g.next
        let s := if g.next % g.rowl = 0 && p.2.1 then p.2.2.2.countCore c 0x36 else p.2.2.2
        let line := p.1 / 64
        let t := s.elasticKey b p.1 false
        let add := fun (s : State) (v : Option Vec) (bad : Bool) (k : Nat) => s.updCore c fun y => { y with
          greqs := y.greqs ++ [⟨i, g.next, line, k, v.isSome, v.getD 0, bad || p.2.2.1⟩] }
        match t.1 with
        | .error e => (t.2.elasticErr c e p.1 [] (gatherUnits c g)).updCore c fun y => y.endStream i
        | .ok k =>
          if 0x800000000000 ≤ k then
            let rd := t.2.loadNat k 64
            add rd.2.2 (some (BitVec.ofNat 512 rd.1)) rd.2.1 k
          else
            let q := t.2.partLookup b line
            match q.1 with
            | some v => add q.2 (some v) false k
            | none => add ((q.2.noteMiss b line).demandMiss b line k (128 + c.core.val)) none false k

/-- A line of a stream lands in its place of local store (R333), once its data is there; a pending line there is a landing collision, which
discards it (R314). -/
def State.gatherLand (s : State) (c : CoreId) (i : Nat) : State :=
  let x := s.core c
  let b := c.benchId
  match x.greqs[i]? with
  | none => s
  | some q =>
    match nget? x.streams q.stream, q.ready with
    | none, _ => s.setCore c { x with greqs := x.greqs.eraseIdx i }
    | some _, false =>
      if (s.bench b).missRegs.any fun r => r.line == q.line && r.who == 128 + c.core.val then s
      else s.demandMiss b q.line q.key (128 + c.core.val)
    | some g, true =>
      let off := g.dst + 64 * q.num
      let s := s.setCore c { x with greqs := x.greqs.eraseIdx i }
      let s := if s.marked c (off / 64) then s.collide c (off / 64)
        else (s.store (lsKey c off) (leBytes 64 q.data.toNat) q.poison).2
      s.updCore c fun y =>
        let y := y.noteMem (unitsOf (lsKey c off) 64)
        let g := { g with landed := g.landed + 1 }
        if g.landed = g.count * g.rowl then y.endStream q.stream else { y with streams := nset y.streams q.stream g }

/-! Meanings. -/

def execLdc (c : CoreId) (b : Bundle) (s : State) : Out := .next (s.slotDo c b 3 0x06 fun w s => s.ldcEff c w)
def execStc (c : CoreId) (b : Bundle) (s : State) : Out := .next (s.slotDo c b 3 0x07 fun w s => s.stcEff c w)
def execGstr (c : CoreId) (b : Bundle) (s : State) : Out := .next (s.slotDo c b 3 0x08 fun w s => s.gstrEff c w)
def execGwait (c : CoreId) (b : Bundle) (s : State) : Out := .next (s.slotDo c b 3 0x09 fun w s => s.gwaitEff c w)
def execCacheAccessComplete (c : CoreId) (s : State) : Out := .next (s.cacheDone c)
def execPrefetchIssue (b : BenchId) (line : BitVec 48) (up : Bool) (s : State) : Out := .next (s.prefetch b line.toNat up)
def execGatherLineIssue (c : CoreId) (s : State) : Out := .next (s.gatherIssue c)
def execGatherLineComplete (c : CoreId) (i : Nat) (s : State) : Out := .next (s.gatherLand c i)

end Sys2Proof.Machine
end

