-- ==== Sys2Proof/Machine/Hub.lean ====
section
/-!
DEFINITION. Hub copy engines with their tags, channel starts (R335 to R340), refresh debt and DRAM faults (R343 to R346), and the end
of a descriptor of either unit (R272).
-/
namespace Sys2Proof.Machine

def hubMover (h : Hub) (late : Bool := false) : Mover := ⟨none, .hub h, late⟩

/-- WORK of the segment in fabric cycles. -/
def State.workFabric (s : State) : Nat := s.workCycles / 2

/-- Records the first copy error of a segment and reports it (R339). -/
def State.copyFault (s : State) (h : Hub) (e code side addr : Nat) : State :=
  let s := s.countHub h 0x8a
  let s := if (s.hub h).copyFaulted then s
    else ((s.setReg (hubKey h 0x400) (faultWord (code + 8 + e * 16 + side * 256) s.stepNo)).setReg (hubKey h 0x408)
      (BitVec.ofNat 64 (addr % 2 ^ 48))).updHub h fun x => { x with copyFaulted := true }
  s.hubDeadline h

/-- Source and destination addresses of a position, one list per stream of accesses (data or planes, then scales). -/
def TDesc.srcStreams (d : TDesc) : List (List Nat → Nat) :=
  if d.xf = xfFill then []
  else
    let idx := fun (p : List Nat) => (List.range 5).map fun i => (d.dim i).idx (p.getD i 0 - (d.dim i).lo)
    let x := fun p => ((idx p).zip d.strides).foldl (fun (a : Int) y => a + y.1 * y.2) 0
    let pb := planeBases d.fmt d.slay d.src d.splanes d.srcCount
    let pw := planeWidths d.fmt
    (if d.slay = 0 then [fun p => wrapInt 48 (d.src + x p)]
     else [fun p => pb.1 + (x p).toNat / 8, fun p => pb.2.1 + (x p).toNat * pw.1 / 8, fun p => pb.2.2 + (x p).toNat * pw.2 / 8]) ++
    (if blockFmt d.fmt then [fun p => d.sscale + ordinal ((idx p).map Int.toNat) (d.dims.map Dim.ext) d.blocked] else [])
def TDesc.dstStreams (d : TDesc) : List (List Nat → Nat) :=
  let x := fun (p : List Nat) => (p.zip d.dstrs).foldl (fun (a : Int) y => a + (y.1 : Int) * y.2) 0
  let pb := planeBases d.fmt d.dlay d.dst d.dplanes d.dstCount
  let pw := planeWidths d.fmt
  (if d.dlay = 0 then [fun p => wrapInt 48 (d.dst + x p)]
   else [fun p => pb.1 + (x p).toNat / 8, fun p => pb.2.1 + (x p).toNat * pw.1 / 8, fun p => pb.2.2 + (x p).toNat * pw.2 / 8]) ++
  (if blockFmt d.fmt then [fun p => d.dscale + ordinal p (d.dims.map Dim.pos) 0] else [])

/-- The 512-byte blocks of a descriptor's requests, with whether they write: position by position, each stream of it asking for a block when
it enters one (R337) (log 15). -/
def TDesc.blocks (d : TDesc) : List (Nat × Bool) :=
  let fs := d.srcStreams.map (fun f => (f, false)) ++ d.dstStreams.map fun f => (f, true)
  let sizes := d.dims.map Dim.pos
  ((List.range (prodN sizes)).foldl (fun (acc : List (Nat × Bool) × List (Option Nat)) i =>
    let p := position sizes i
    let now := fs.map fun f => (f.1 p / 512, f.2)
    (acc.1 ++ ((now.zip acc.2).filter fun x => x.2 != some x.1.1).map Prod.fst, now.map fun x => some x.1)) ([], fs.map fun _ => none)).1

/-- Requests in position order: the channel of each block, 400 where it is not LPDDR6 (R337). -/
def State.requests (s : State) (h : Hub) (d : TDesc) : List Nat × State :=
  d.blocks.foldl (fun (acc : List Nat × State) b =>
    let t := acc.2.translate (.hub h) (512 * b.1) b.2
    match t.1 with
    | .ok a => match placeOf a with
      | .lpddr ch _ => (acc.1 ++ [ch], t.2)
      | _ => (acc.1 ++ [400], t.2)
    | .err _ => (acc.1 ++ [400], t.2)) ([], s)

/-- PEAK follows the tags held (R340). -/
def State.peak (s : State) (h : Hub) : State :=
  let n := (s.hub h).tags.length
  if s.fld (hubKey h 0x410) 28 16 < n then s.setFld (hubKey h 0x410) 28 16 n else s

/-- Lowest free tag of the hub's 4,096. -/
def HubState.freeTag (x : HubState) : Option Nat :=
  if 4096 ≤ x.tags.length then none else (List.range 4096).find? fun t => (nget? x.tags t).isNone

/-- An engine's next request takes a tag, or waits for one (R337, R338). -/
def State.issueReq (s : State) (h : Hub) (e : Nat) (g : Engine) : Bool × State :=
  match (s.hub h).freeTag with
  | none => (false, s.countHub h 0x88)
  | some t =>
    (true, (((s.updHub h fun x => { x with
      tags := nset x.tags t e
      engines := nset x.engines e { g with todo := g.todo.drop 1, inflight := g.inflight + 1 } }).countHub h 0x89).peak h))

/-- Requests that need no channel start go out while tags are free. -/
def State.pump : Nat → State → Hub → Nat → State
  | 0, s, _, _ => s
  | n + 1, s, h, e =>
    match nget? (s.hub h).engines e with
    | some g => match g.todo with
      | 400 :: _ =>
        let r := s.issueReq h e g
        if r.1 then State.pump n r.2 h e else r.2
      | _ => s
    | none => s

/-- The same of every engine of the hub, lowest first: a tag that frees serves whichever request waits (R338). -/
def State.pumpAll (s : State) (h : Hub) : State :=
  (s.hub h).engines.foldl (fun s e => State.pump e.2.todo.length s h e.1) s

/-- Records the first haul fault of a segment, and reports it where the rule asks for that (R480). -/
def State.haulFault (s : State) (h : Hub) (cause : Nat) (report : Bool) : State :=
  let s := s.countHub h 0xa4
  let s := if (s.hub h).haulFaulted then s
    else (s.setReg (hubKey h 0x528) (faultWord (cause + 8) s.stepNo)).updHub h fun x => { x with haulFaulted := true }
  if report then s.hubDeadline h else s

/-- The commit fence (R461): judged at the hub's first copy-out, replica or staging slot of a step, and it holds for the step (log 31). -/
def State.fenceHit (s : State) (h : Hub) : Bool × State :=
  let n := s.stepNo
  match (s.hub h).fence with
  | some (m, f) => if m = n then (f, s) else judge s n
  | none => judge s n
where
  judge (s : State) (n : Nat) : Bool × State :=
    let f : Bool := decide (s.fld (hubKey h 0x518) 39 0 + 1 < n)
    let s := s.updHub h fun x => { x with fence := some (n, f) }
    (f, if f then (s.countHub h 0xa7).haulFault h 3 true else s)

/-- LPDDR6 bank of a region for the parity of an epoch, or its scratch place (R450, R616). -/
def RegionRec.place (g : RegionRec) (epoch : Nat) : Nat := if g.home = 1 || epoch % 2 = 0 then g.addr0 else g.addr1

/-- Is the descriptor a copy-out: does it write the bank of this step's parity of an LPDDR6-homed region (R450)? -/
def State.copyOut (s : State) (h : Hub) (d : TDesc) : Bool × State :=
  let rs := s.myRegions.filter fun g => g.home == 0
  if rs.isEmpty || d.dloc then (false, s)
  else
    let t := s.translate (.hub h) d.dst true
    match t.1 with
    | .ok a => (rs.any fun g => g.place s.stepNo ≤ a && a < g.place s.stepNo + g.bytes, t.2)
    | .err _ => (false, t.2)

/-- The copy start that an entry of the running tab's hub slot table holds for this segment: fabric cycle, hub, engine, descriptor (R335,
R616). -/
def State.copyEntry (s : State) (entry : Nat) : Option (Nat × Nat × Nat × BitVec 1536) :=
  if !s.tabRuns then none
  else match s.myHubRecs[entry]? with
    | some (2, o, _) =>
      if tabU s.theTab (o + 8) 4 = s.job.seg then
        some (tabU s.theTab (o + 12) 4, tabU s.theTab (o + 16) 1, tabU s.theTab (o + 17) 1, copyDesc s.theTab o)
      else none
    | _ => none

/-- The hub slot table starts a descriptor on an engine (R273, R335, R339). An entry of the running tab's table starts what the table says, in
its fabric cycle; a hub that a window frees, and one that waits for a table swap, starts nothing (R75, R310) (log 31). -/
def State.copyStart (s : State) (h : Hub) (e : Fin 16) (entry : Nat) (w : BitVec 1536) : State :=
  match s.copyEntry entry with
  | some (t, h', e', w') => if h' = h.val && e' = e.val && w' = w then go (s.reach (s.job.segStart + 2 * t)) else s
  | none => go s
where
  go (s : State) : State :=
    let d := parseDesc w
    let busy := (nget? (s.hub h).engines e).isSome
    let code := d.check busy true s.workFabric
    if s.swapHolds || s.freedNow (hubUnit h) then s
    else if code != 0 then ((s.copyFault h e code 0 entry).poisonDest (hubMover h) d)
    else if d.empty then s
    else
      let o := s.copyOut h d
      let f := if o.1 then o.2.fenceHit h else o
      let s := f.2
      if o.1 && f.1 then s else
      let r := s.requests h d
      let s := r.2.updHub h fun x => { x with engines := nset x.engines e ⟨w, r.1, 0, false⟩ }
      s.pump r.1.length h e

/-- A request's data has left the hub, or its write is committed: its tag is free (R337). -/
def State.reqDone (s : State) (h : Hub) (tag : Nat) : State :=
  match nget? (s.hub h).tags tag with
  | none => s
  | some e =>
    (s.updHub h fun x => { x with
      tags := nerase x.tags tag
      engines := match nget? x.engines e with
        | some g => nset x.engines e { g with inflight := g.inflight - 1 }
        | none => x.engines }).pumpAll h

/-- An engine's descriptor ends: its last byte has landed when no request is left (R272, R298). One that became late before has been
reported. -/
def State.engineDone (s : State) (h : Hub) (e : Nat) : State :=
  match nget? (s.hub h).engines e with
  | none => s
  | some g =>
    if !g.todo.isEmpty || g.inflight != 0 then s
    else
      let s := s.updHub h fun x => { x with engines := nerase x.engines e }
      let d := parseDesc g.desc
      let late : Bool := g.late || decide (s.job.segStart + 2 * d.deadline ≤ s.now) || (s.unreadySlot d).isSome
      let r := s.runDesc (hubMover h g.late) { d with deadline := 2 * d.deadline } late
      match r.1 with
      | some x => r.2.2.copyFault h e x.1 x.2.1 x.2.2
      | none => if late && !g.late then r.2.2.hubDeadline h else r.2.2

/-- A running engine has not landed its data by its deadline, or by its segment's end: it is late, its destination is poisoned and the hub
reports it (R51, R54). -/
def State.lateEngine (s : State) (h : Hub) (e : Nat) : State :=
  match nget? (s.hub h).engines e with
  | some g =>
    if g.late then s
    else ((s.updHub h fun x => { x with engines := nset x.engines e { g with late := true } }).lateDest (hubMover h) g.desc).hubDeadline h
  | none => s

/-! Inbound transfers of the links (R50, R51, R427, R435). -/

/-- Records of the hub slot table that start haul descriptors: offset of the descriptor. -/
def State.haulRecs (s : State) : List Nat := (s.myHubRecs.filter fun r => r.1 == 3).map fun r => r.2.1 + 16
/-- Is a link entry one that a haul stream uses? Its bytes are no message. -/
def State.haulEntry (s : State) (i : Nat) : Bool := s.haulRecs.any fun o => tabU s.theTab (o + 0x28) 4 == i
/-- Has a haul descriptor of the entry started in the step (R452)? -/
def State.haulOpen (s : State) (i : Nat) : Bool := s.hubs.any fun p => p.2.haulLinks.contains i

/-- Bytes of an inbound entry that have landed. -/
def State.landedBytes (s : State) (i : Nat) : Nat := s.ports.foldl (fun n p => max n (nget p.2.inXfer i ⟨0, 0, 0, 0⟩).bytes) 0

/-- The consumer of data at an address reports a deadline fault: the core, the bench or the hub that holds the place (R54). -/
def State.consumerDeadline (s : State) (a : Nat) : State :=
  match placeOf a with
  | .lpddr ch _ => (match finOf? 6 (ch / 56) with | some h => s.hubDeadline h | none => s)
  | .scratch d b _ => (match s.benchAt d b with | some pb => s.benchDeadline pb | none => s)
  | .store d b c _ => (match s.benchAt d b, finOf? 64 c with | some pb, some pc => s.coreDeadline (pb.coreAt pc) | _, _ => s)
  | _ => s

/-- Poisons a run of module-physical addresses, page by page. -/
def State.poisonLong (s : State) (a n : Nat) : State := (partsOf a n).foldl (fun s p => s.poisonAt p.1 p.2) s

/-- An inbound transfer has not landed by its deadline: its place is poisoned, and its consumer reports it once (R54, R427). -/
def State.lateEntry (s : State) (i : Nat) (e : LinkEnt) : State :=
  if s.job.lateIn.contains i then s
  else ((({ s with job := { s.job with lateIn := i :: s.job.lateIn } } : State).poisonLong e.loc e.bytes).consumerDeadline e.loc)

/-- An inbound VC 0 entry of the segment whose bytes have not all landed; a replica counts once its receive descriptor has started. -/
def State.awaits (s : State) (e : LinkEnt × Nat) : Bool :=
  s.job.inStep && e.1.seg == s.job.seg && e.1.dir == 1 && e.1.vc == 0 && decide (s.landedBytes e.2 < e.1.bytes) && !s.job.lateIn.contains e.2 &&
    (!s.haulEntry e.2 || s.haulOpen e.2)
/-- Core cycle of an inbound entry's deadline. -/
def State.entryDue (s : State) (e : LinkEnt) : Nat := s.job.segStart + 2 * e.deadline

def State.lateInbound (s : State) (due : LinkEnt → Bool) : State :=
  s.myLinks.zipIdx.foldl (fun s e => if s.awaits e && due e.1 then s.lateEntry e.2 e.1 else s) s

/-- Does an entry's place cover a line of a core's local store? -/
def State.coversLine (s : State) (e : LinkEnt) (c : CoreId) (line : Nat) : Bool :=
  match s.keyOf e.loc with
  | some k => k < lsKey c 0 + 64 * (line + 1) && lsKey c 0 + 64 * line < k + e.bytes
  | none => false

/-- The deadline cycle of a line (R313): where nothing of the core waits for one, that of the earliest inbound transfer to the line. Transfers
that have not landed are late (R51, R54). -/
def State.lineDeadline (s : State) (c : CoreId) (line : Nat) : State :=
  let mine := (s.myLinks.zipIdx.filter fun e => s.awaits e && s.coversLine e.1 c line).map Prod.fst
  let s := if (nget? (s.core c).marks line).isSome || (s.core c).descs.any (fun r => !r.2) then s.landingDeadline c line
    else match (mine.map fun e => s.entryDue e).min? with
      | some t => s.reach t
      | none => s
  if mine.isEmpty then s else s.lateInbound fun e => s.coversLine e c line && decide (s.entryDue e ≤ s.now)

/-- At the end of a segment every transfer still in flight is late: the descriptors of the cores, the copies of the hubs, and what the links
have not brought (R51, R54, R270, R427). -/
def State.lateTransfers (s : State) : State :=
  let s := s.lateInbound fun _ => true
  let s := s.cores.foldl (fun s p => if p.2.descs.isEmpty then s else match coreOfNum p.1 with | some c => s.lateDescs c true | none => s) s
  allHubs.foldl (fun s h => (s.hub h).engines.foldl (fun s e => s.lateEngine h e.1) s) s

/-! LPDDR6. -/

/-- Records the first DRAM fault of a segment (R346); causes 1 and 2 are thermal faults (R344, R345, R503). -/
def State.dramFault (s : State) (h : Hub) (cause chan sub : Nat) : State :=
  let s := if (s.hub h).dramFaulted then s
    else (s.setReg (hubKey h 0x438) (faultWord (cause + 4 + chan * 8 + sub * 512) s.stepNo)).updHub h fun x => { x with dramFaulted := true }
  if cause = 1 then s.thermal 2 (32 + h) else if cause = 2 then s.thermal 4 (32 + h) else s

/-- Refresh debt rises by one; at 8 it is a fault (R345). -/
def State.debtTick (s : State) (c : ChanId) (sub : Fin 2) : State :=
  let k := 2 * c.chan.val + sub.val
  let n := nget (s.hub c.hub).debt k 0 + 1
  let s := (s.updHub c.hub fun x => { x with debt := nset x.debt k n }).countHub c.hub 0x8f
  if n = 8 then s.dramFault c.hub 2 c.chan sub else s

/-- Does an open window free the channel, so that it has no starts (R75, R336)? -/
def State.chanFreed (s : State) (c : ChanId) : Bool := s.freedNow (chanUnit c)

/-- Does a record give start `j` of a segment on a channel its use (R616)? -/
def Starts.covers (r : Starts) (seg chan j : Nat) : Bool :=
  r.seg == seg && r.chan == chan && r.first ≤ j && (j - r.first) % max r.every 1 == 0 && (j - r.first) / max r.every 1 < r.count

/-- The core cycle of a channel's next start: 30 fabric cycles after its last one at the least, in a step at a multiple of 30 fabric cycles
from the segment start (R336, R616). -/
def State.startCycle (s : State) (c : ChanId) : Nat :=
  let t := match nget? (s.hub c.hub).lastStart c.chan with
    | some l => max s.now (l + 60)
    | none => s.now
  if s.tabRuns then s.job.segStart + (t - s.job.segStart + 59) / 60 * 60 else t
/-- The start takes place. -/
def State.takeStart (s : State) (c : ChanId) : State :=
  let t := s.startCycle c
  (s.reach t).updHub c.hub fun x => { x with lastStart := nset x.lastStart c.chan t }

/-- Does the running tab's slot table give the next start of a channel this use (R336, R616)? Starts that no record names are free. -/
def State.startGiven (s : State) (c : ChanId) (u : StartUse) : Bool :=
  if !s.tabRuns then true
  else
    let r := s.myStarts.find? fun r => r.covers s.job.seg c.key ((s.startCycle c - s.job.segStart) / 60)
    match u with
    | .copy _ => r.any fun r => r.use == 0
    | .haul => r.any fun r => r.use == 1
    | .miss die => r.any fun r => r.use == 2 && s.dieLog die == some r.die
    | .free => r.isNone

/-- A channel start serves the use that the slot table gives it (R336, R338); one at a channel that a window frees does not take place. -/
def State.chanStart (s : State) (c : ChanId) (u : StartUse) : State :=
  if s.chanFreed c || !s.startGiven c u then s
  else
    let s := s.takeStart c
    match u with
    | .copy e =>
      let s := s.countHub c.hub 0x80
      match nget? (s.hub c.hub).engines e with
      | none => s
      | some g =>
        match g.todo with
        | ch :: _ =>
          if ch = c.key then
            let r := s.issueReq c.hub e g
            if r.1 then r.2.pump g.todo.length c.hub e else r.2
          else s
        | [] => s
    | .haul => s.countHub c.hub 0x81
    | .miss die => (s.countHub c.hub 0x82).serveMiss c.hub c.chan die
    | .free => s.countHub c.hub 0x83

/-! Meanings. -/

def execDescriptorComplete (u : DescUnit) (s : State) : Out :=
  .next (match u with
    | .core c i => s.coreDescDone c i
    | .engine h e => s.engineDone h e)
def execLandingDeadline (c : CoreId) (line : Fin 1024) (s : State) : Out := .next (s.lineDeadline c line)
def execCopyStart (h : Hub) (e : Fin 16) (entry : BitVec 32) (d : BitVec 1536) (s : State) : Out := .next (s.copyStart h e entry.toNat d)
/-- R326: a miss slot is a channel start that the table gives to a die's misses. -/
def execMissSlotService (c : ChanId) (die : Die) (s : State) : Out := .next (s.chanStart c (.miss die))
def execChannelStart (c : ChanId) (use : StartUse) (s : State) : Out := .next (s.chanStart c use)
def execChannelRequestComplete (h : Hub) (tag : Fin 4096) (s : State) : Out := .next (s.reqDone h tag)
def execRefreshDebtTick (c : ChanId) (sub : Fin 2) (s : State) : Out := .next (s.debtTick c sub)

end Sys2Proof.Machine
end

