-- ==== Sys2Proof/Machine/TabCheck.lean ====
section
/-!
DEFINITION. The checks of R37 on a received tab, in their order: format (R34, R35, R613 to R620), part, hashes, module count,
resources, segment table (R44, R45), maintenance minimums (R76, R343, R505, R525, R580), annotation and envelope (R71 to R73).
-/
namespace Sys2Proof.Machine

def codeBadFormat : Nat := 1
def codeWrongPart : Nat := 2
def codeHash : Nat := 3
def codeEnvelope : Nat := 4
def codeAnnotation : Nat := 5
def codeResource : Nat := 6
def codeSlack : Nat := 7
def codeMaintenance : Nat := 8
def codeBusy : Nat := 9
def codeModuleCount : Nat := 0xa
def codeNoTab : Nat := 0xb

def allB {α : Type} (l : List α) (f : α → Bool) : Bool := l.all f
def zeroBytes (g : TabImage) (o n : Nat) : Bool := (tabBytes g o n).all fun b => b == 0#8

/-! Check 2. -/

/-- Header fields and reserved bytes (R34). -/
def headerOk (g : TabImage) : Bool :=
  tabU g 0 4 == 0x7ab0e064 && tabU g 4 2 == 1 && 1 ≤ hdrModules g && hdrModules g ≤ 4096 && 1 ≤ hdrSegments g &&
  hdrSegments g ≤ 65536 && 1 ≤ hdrBuckets g && hdrBuckets g ≤ 16 && hdrPolicy g ≤ 1 &&
  zeroBytes g 9 1 && zeroBytes g 0x2a 0x16 && zeroBytes g 0x80 0x80

/-- Numbers no two of which are equal. -/
def distinct : List (Nat × Nat × Nat) → Bool
  | [] => true
  | x :: xs => !xs.contains x && distinct xs

def overlap (a n b m : Nat) : Bool := 0 < n && 0 < m && a < b + m && b < a + n

def disjoint : List Sect → Bool
  | [] => true
  | x :: xs => xs.all (fun y => !overlap x.off x.len y.off y.len) && disjoint xs

/-- Section table: structure, presence, placement (R35, R613). -/
def sectionsOk (g : TabImage) (pos : Nat) : Bool :=
  let ss := sects g
  let t := hdrSectOff g
  let e := t + 64 * hdrSections g
  let own := ownSects g pos
  0x100 ≤ t && t % 64 == 0 && e ≤ g.length &&
  ss.all (fun x => zeroBytes g (x.pos + 24) 8 &&
    (if sharedTypes.contains x.ty then x.mod == 0xffff && x.var == 0 else ownTypes.contains x.ty && x.mod < hdrModules g)) &&
  distinct (ss.map fun x => (x.ty, x.mod, x.var)) &&
  sharedTypes.all (fun ty => ss.any fun x => x.ty == ty) &&
  ownTypes.all (fun ty => (List.range (hdrModules g)).all fun m => ss.any fun x => x.ty == ty && x.mod == m && x.var == 0) &&
  own.all (fun x => x.off % 64 == 0 && e ≤ x.off && x.off + x.len ≤ g.length) && disjoint own

/-- Core streams (R614). -/
def streamsOk (g : TabImage) (x : Sect) : Bool :=
  let idx := 16 + 16 * 304128
  let ent := (List.range 304128).map fun i => (tabU g (x.off + 16 + 16 * i) 8, tabU g (x.off + 24 + 16 * i) 4)
  let sorted := ent.mergeSort fun a b => a.1 ≤ b.1
  idx ≤ x.len && tabU g x.off 8 % 4096 == 0 && zeroBytes g (x.off + 8) 8 &&
  (List.range 304128).all (fun i => zeroBytes g (x.off + 28 + 16 * i) 4) &&
  ent.all (fun s => s.1 % 4096 == 0 && s.2 % 256 == 0 && 512 ≤ s.2 && idx ≤ s.1 && s.1 + 16 * s.2 ≤ x.len) &&
  (sorted.zip (sorted.drop 1)).all fun p => p.1.1 + 16 * p.1.2 ≤ p.2.1

/-- Bits an image of R615 may set. -/
def imageMasks : List Nat :=
  [0x1f, m64, 0x0000ffffffff0007, 0x3f, 0x0000ffffffffff03, 0x03ffffff03ffffff, 1, 0xfffffffff, 0xffffff00]

def benchCfgOk (g : TabImage) (x : Sect) : Bool :=
  let n := hdrSegments g * 4752
  x.len == 72 * n && (List.range n).all fun i => (List.range 9).all fun j =>
    let v := tabU g (x.off + 72 * i + 8 * j) 8
    v &&& imageMasks.getD j 0 == v

def linksOk (g : TabImage) (x : Sect) : Bool :=
  x.len % 48 == 0 && (List.range (x.len / 48)).all fun i =>
    let e := linkAt g (x.off + 48 * i)
    e.top == 0 && e.reserved == 0

/-- Length and reserved bytes of a hub record by KIND (R616), those of a haul descriptor (R452) among them; none for an unknown kind
(log 28). -/
def recShape (kind : Nat) : Option (Nat × List (Nat × Nat)) :=
  match kind with
  | 1 => some (56, [(20, 4)])
  | 2 => some (216, [(18, 6)])
  | 3 => some (80, [(9, 7), (0x1a, 2), (0x40, 16)])
  | 4 => some (32, [(28, 4)])
  | 5 => some (48, [(14, 2)])
  | 6 => some (40, [(13, 3)])
  | _ => none

/-- The records of a hub slot table fill it exactly. -/
def recsFill (g : TabImage) : Nat → Nat → Nat → Bool
  | 0, o, e => o == e
  | n + 1, o, e =>
    o == e ||
      (match recShape (tabU g o 2) with
        | none => false
        | some (l, rs) =>
          tabU g (o + 4) 4 == l && o + l ≤ e && zeroBytes g (o + 2) 2 && rs.all (fun r => zeroBytes g (o + r.1) r.2) &&
          (tabU g o 2 != 1 || tabU g (o + 8) 8 / 2 ^ 17 == 0) && (tabU g o 2 != 2 || !descReserved (copyDesc g o).toNat) &&
          recsFill g n (o + l) e)
def hubRecsOk (g : TabImage) (x : Sect) : Bool := recsFill g (x.len / 32 + 1) x.off (x.off + x.len)

def segmentsOk (g : TabImage) (x : Sect) : Bool :=
  x.len == 16 * hdrSegments g && (List.range (hdrSegments g)).all fun i => (segAt g (x.off + 16 * i)).reserved == 0

/-- Bins of a step (R71). -/
def binCount (g : TabImage) : Nat := (hdrStepNs g + 124) / 125
def binsOk (g : TabImage) (x : Sect) : Bool :=
  x.len == 2 * binCount g && (List.range (binCount g)).all fun i => tabU g (x.off + 2 * i) 2 < 4096

/-- Field bits of a unit code's kind (R617); none for a kind the table does not list. -/
def unitMask (kind : Nat) : Option Nat :=
  match kind with
  | 0 => some 0x1fff
  | 1 => some 0x1f
  | 2 => some 0x7
  | 3 => some 0x73f
  | 4 => some 0x3f
  | 5 => some 1
  | 6 => some 0
  | 7 => some 0
  | _ => none
def unitFormOk (u : Nat) : Bool :=
  match unitMask (u / 2 ^ 28) with
  | some m => u % 2 ^ 28 &&& m == u % 2 ^ 28
  | none => false

def windowsFill (g : TabImage) : Nat → Nat → Nat → Bool
  | 0, o, e => o == e
  | n + 1, o, e =>
    o == e ||
      (o + 16 ≤ e &&
        (let w := windowAt g o
         o + w.size ≤ e && w.cls < 64 && !w.units.isEmpty && w.units.all unitFormOk &&
         zeroBytes g (o + 16 + 4 * w.units.length) (w.size - 16 - 4 * w.units.length) && windowsFill g n (o + w.size) e))
def windowsOk (g : TabImage) (x : Sect) : Bool :=
  8 ≤ x.len && tabU g x.off 8 < 4 && windowsFill g (x.len / 16 + 1) (x.off + 8) (x.off + x.len)

def bucketsOk (g : TabImage) (x : Sect) : Bool :=
  x.len == 32 * hdrBuckets g && (List.range (hdrBuckets g)).all fun i =>
    (bucketAt g (x.off + 32 * i)).reserved == 0 && (bucketAt g (x.off + 32 * i)).base < 2 ^ 48

def planOk (g : TabImage) (x : Sect) : Bool :=
  x.len % 16 == 0 && (planOf g).all fun p => p.2.2.1 ≤ 3 && p.2.2.2.2 == 0

def plucksOk (g : TabImage) (x : Sect) : Bool :=
  x.len % 16 == 0 && (List.range (x.len / 16)).all fun i => (pluckAt g (x.off + 16 * i)).2.2.2.2 == 0

def reductionOk (g : TabImage) (x : Sect) : Bool :=
  32 ≤ x.len && x.len == redBuckOff g + 32 * redNbuck g && redThinWord g < 2 ^ 11 && zeroBytes g (x.off + 12) 20 &&
  zeroBytes g (x.off + 32 + 2 * redRanks g * redGroups g) (redBuckOff g - 32 - 2 * redRanks g * redGroups g) &&
  (gbucketsOf g).all fun b => b.reserved == 0 && b.flagsRest == 0

/-- One section's layout by its type (log 28). -/
def layoutOk (g : TabImage) (x : Sect) : Bool :=
  match x.ty with
  | 0x1 => streamsOk g x
  | 0x2 => benchCfgOk g x
  | 0x3 => linksOk g x
  | 0x4 => hubRecsOk g x
  | 0x5 => segmentsOk g x
  | 0x6 => binsOk g x
  | 0x7 => windowsOk g x
  | 0x8 => bucketsOk g x
  | 0x9 => planOk g x
  | 0xa => plucksOk g x
  | _ => reductionOk g x

def formatOk (g : TabImage) (pos : Nat) : Bool :=
  headerOk g && sectionsOk g pos && (ownSects g pos).all (layoutOk g)

/-! Checks 3 and 4. -/

def partOk (g : TabImage) (partId : Nat) : Bool := tabU g 6 2 == partId % 2 ^ 16 && tabU g 8 1 == bitsOf partId 23 16

/-- HDR_HASH and the section hashes (R34, R35). -/
def hashesOk (g : TabImage) (pos : Nat) : Bool :=
  let h := tabBytes g 0 0x40 ++ List.replicate 32 0#8 ++ tabBytes g 0x60 0xa0
  sha3 (h ++ tabBytes g (hdrSectOff g) (64 * hdrSections g)) == tabBytes g 0x40 32 &&
  (ownSects g pos).all fun x => sha3 (tabBytes g x.off x.len) == tabBytes g (x.pos + 32) 32

/-! Check 6. -/

/-- Do `n` bytes at `a` lie in LPDDR6 storage of one channel? -/
def inLpddr (a n : Nat) : Bool :=
  match placeOf a with
  | .lpddr _ o => o + n ≤ chanBytes
  | _ => false
/-- First byte of the channel reserve (R473). -/
def reserveOff : Nat := 23700000000
def belowReserve (a n : Nat) : Bool :=
  match placeOf a with
  | .lpddr _ o => o + n ≤ reserveOff
  | _ => false
/-- SCRATCH of a bench in a segment, in bytes (R306, R317). -/
def scratchBytes (g : TabImage) (pos var seg d b : Nat) : Nat := 2 ^ 20 * (((benchImage g pos var seg d b 3).getD 0) % 32)
/-- Do `n` bytes at `a` lie in the scratch that a bench has in every segment? -/
def inScratch (g : TabImage) (pos var a n : Nat) : Bool :=
  match placeOf a with
  | .scratch d b o => (List.range (hdrSegments g)).all fun k => o + n ≤ scratchBytes g pos var k d b
  | _ => false
/-- Does an address that a tab names lie, in a segment, in a store of a unit that a tab may name (R36, R304 to R306)? -/
def inStore (g : TabImage) (pos var seg : Nat) (a : Int) : Bool :=
  0 ≤ a && (match placeOf a.toNat with
    | .lpddr _ _ => true
    | .scratch d b o => o < scratchBytes g pos var seg d b
    | .store _ _ _ _ => true
    | _ => false)

/-- Largest WORK of a tab in core cycles (R58). -/
def maxWork (g : TabImage) : Nat := (segsOf g).foldl (fun m x => max m (4 * x.work)) 0

/-- Streams in LPDDR6 outside the reserve, and DEADLINE immediates (R58, R614). -/
def streamsFit (g : TabImage) (x : Sect) : Bool :=
  belowReserve (tabU g x.off 8) x.len &&
  (List.range 304128).all fun i =>
    let o := x.off + tabU g (x.off + 16 + 16 * i) 8
    (List.range (tabU g (x.off + 24 + 16 * i) 4)).all fun k =>
      let w := tabU g (o + 16 * k + 12) 4
      slotOp w != 0x21 || fImm26 w ≤ maxWork g

/-- Field values of the bench images (R174, R317, R386, R615). DESIGN CHOICE (log 28): R615 names no check for an SBASE that differs
between the segments of a bench; it fails here, with 0x06. -/
def benchCfgFit (g : TabImage) (x : Sect) : Bool :=
  let img := fun i j => tabU g (x.off + 72 * i + 8 * j) 8
  (List.range (hdrSegments g * 4752)).all fun i =>
    img i 0 % 4 != 3 && img i 3 % 32 ≤ 16 && bitsOf (img i 4) 13 8 == 0 && bitsOf (img i 8) 13 8 == 0 &&
    img i 8 == img (i % 4752) 8

/-- Does a window free a channel for class 0 at an instant of its segment, in ns? -/
def freedAt (g : TabImage) (pos var seg ch ns : Nat) : Bool :=
  (windowsOf g pos var).any fun w => w.seg == seg && w.cls.testBit 0 && w.start ≤ ns && ns < w.start + w.length &&
    w.units.any fun u => (u / 2 ^ 28 == 3 && 56 * bitsOf u 10 8 + bitsOf u 5 0 == ch) || (u / 2 ^ 28 == 2 && bitsOf u 2 0 == ch / 56)
/-- Is start `j` of a segment on a channel named by a record? -/
def Starts.names (r : Starts) (seg ch j : Nat) : Bool :=
  r.seg == seg && r.chan == ch && r.first ≤ j && (j - r.first) % r.every == 0 && (j - r.first) / r.every < r.count
/-- Starts of a segment: one every 30 fabric cycles (R616). -/
def segStarts (x : Seg) : Nat := (2 * (x.work + x.slack) + 29) / 30

/-- Channel-start records: fields, no start named twice, none in a freeing window, one in 64 left free (R474, R616). -/
def startsFit (g : TabImage) (pos var : Nat) : Bool :=
  let rs := startsOf g pos var
  let segs := segsOf g
  rs.all (fun r => r.seg < hdrSegments g && r.chan < 336 && r.use ≤ 2 && (if r.use = 2 then r.die ≤ 26 else r.die == 0) && 1 ≤ r.every) &&
  (rs.zipIdx.all fun p => (List.range p.1.count).all fun k =>
    let j := p.1.first + k * p.1.every
    !freedAt g pos var p.1.seg p.1.chan (15 * j) &&
    !(rs.zipIdx.any fun q => q.2 != p.2 && q.1.names p.1.seg p.1.chan j)) &&
  (List.range 336).all fun ch =>
    let tot := segs.zipIdx.foldl (fun (a : Nat × Nat) p =>
      (List.range (segStarts p.1)).foldl (fun (a : Nat × Nat) j =>
        (a.1 + 1, if rs.any (fun r => r.names p.2 ch j) || freedAt g pos var p.2 ch (15 * j) then a.2 else a.2 + 1)) a) (0, 0)
    tot.1 ≤ 64 * tot.2

/-- Deadlines by which the tab's hub copies, haul descriptors and inbound transfers write into a range of LPDDR6: segment and fabric
cycle (R392). What a core writes is in descriptors that its stream builds in local store, which no tab section holds. -/
def writesInto (g : TabImage) (pos var base n : Nat) : List (Nat × Nat) :=
  let cps := (hubRecs g pos var).filterMap fun r =>
    if r.1 = 2 then
      let d := parseDesc (copyDesc g r.2.1)
      if !d.empty && d.dstBoxes.any (fun b => b.1 < base + n && (base : Int) ≤ b.2) then some (tabU g (r.2.1 + 8) 4, d.deadline) else none
    else if r.1 = 3 then
      let w := (haulDesc g r.2.1).toNat
      if bitsOf w 71 64 != 0 && overlap (bitsOf w 239 192) (bitsOf w 319 256) base n then some (w % 2 ^ 32, bitsOf w 383 352) else none
    else none
  let ins := (linksOf g pos var).filterMap fun e =>
    if e.dir = 1 && overlap e.loc e.bytes base n then some (e.seg, e.deadline) else none
  cps ++ ins

/-- Bucket placements with their buckets (R36, R392, R616). -/
def placesFit (g : TabImage) (pos var : Nat) : Bool :=
  let bs := gbucketsOf g
  (placesOf g pos var).all fun p =>
    p.die ≤ 26 && p.bench ≤ 175 &&
    (match bs.find? fun b => b.bucket == p.bucket with
      | none => false
      | some b =>
        inLpddr p.base (4 * b.elems) && inLpddr p.params (2 * b.elems) &&
        (if b.thinnable then inLpddr p.stock0 (4 * b.elems) && inLpddr p.stock1 (4 * b.elems) else p.stock0 == 0 && p.stock1 == 0) &&
        (writesInto g pos var p.base (4 * b.elems)).all fun w => w.1 < b.seg || (w.1 == b.seg && w.2 ≤ b.start))

/-- Region records (R470, R616). -/
def regionsFit (g : TabImage) (pos var : Nat) : Bool :=
  let rs := regionsOf g pos var
  rs.all (fun r =>
    if r.home = 0 then inLpddr r.addr0 r.bytes && inLpddr r.addr1 r.bytes
    else r.home == 1 && inScratch g pos var r.addr0 r.bytes && r.addr1 == 0) &&
  (rs.filter fun r => r.home == 1).foldl (fun a r => a + r.bytes) 0 ≤ 57000000000

/-- A copy-start record: fields, and the ends of every box of its descriptor in a store (R36, R616) (log 28). -/
def copyFit (g : TabImage) (pos var o : Nat) : Bool :=
  let seg := tabU g (o + 8) 4
  let d := parseDesc (copyDesc g o)
  seg < hdrSegments g && tabU g (o + 16) 1 ≤ 5 && tabU g (o + 17) 1 ≤ 15 &&
  (d.empty || (d.srcBoxes ++ d.dstBoxes).all fun b => inStore g pos var seg b.1 && inStore g pos var seg b.2)

/-- A haul-start record: fields, and the addresses on this module in their stores (R452, R616) (log 28). -/
def haulFit (g : TabImage) (pos var o : Nat) : Bool :=
  let w := (haulDesc g o).toNat
  let stream := bitsOf w 71 64
  let home := bitsOf w 79 72
  let src := bitsOf w 191 128
  let n := bitsOf w 319 256
  tabU g (o + 8) 1 ≤ 5 && w % 2 ^ 32 < hdrSegments g && stream ≤ 2 && home ≤ 1 &&
  (stream == 1 || (if home = 0 then inLpddr src n else inScratch g pos var src n)) &&
  (stream == 0 || inLpddr (bitsOf w 255 192) n)

def hubFit (g : TabImage) (pos var : Nat) : Bool :=
  let rs := hubRecs g pos var
  (rs.filter fun r => r.1 == 1).length == 1 &&
  rs.all (fun r =>
    if r.1 = 1 then
      inLpddr (tabU g (r.2.1 + 24) 8) 64 && inLpddr (tabU g (r.2.1 + 32) 8) 64 && inLpddr (tabU g (r.2.1 + 40) 8) (64 * tabU g (r.2.1 + 48) 8)
    else if r.1 = 2 then copyFit g pos var r.2.1
    else if r.1 = 3 then haulFit g pos var r.2.1
    else true) &&
  startsFit g pos var && placesFit g pos var && regionsFit g pos var

/-- A unit code that names the spare stack's logical number 27 or a spare bench (R36). -/
def namesSpare (u : Nat) : Bool :=
  (u / 2 ^ 28 == 0 && (bitsOf u 12 8 == 27 || (176 ≤ bitsOf u 7 0 && bitsOf u 7 0 < 180))) || (u / 2 ^ 28 == 1 && bitsOf u 4 0 == 27)
/-- Tuning windows: no unit that a tab may not name, and REF_MULT one of the two values that R346 does not reserve (log 28). -/
def windowsFit (g : TabImage) (pos var : Nat) : Bool :=
  (windowsRef g pos var == 1 || windowsRef g pos var == 2) && (windowsOf g pos var).all fun w => !w.units.any namesSpare
/-- Link entries: LOCAL in a store (R36, R435). -/
def linksFit (g : TabImage) (pos var : Nat) : Bool :=
  (linksOf g pos var).all fun e => e.dir == 2 || e.bytes == 0 ||
    (inStore g pos var e.seg e.loc && inStore g pos var e.seg (e.loc + e.bytes - 1))

def plucksFit (g : TabImage) (pos var : Nat) : Bool :=
  (plucksOf g pos var).all fun p => p.2.2.1 ≤ 26 && p.2.2.2.1 ≤ 175 &&
    (match segOf g p.1 with
      | some x => p.2.1 < 2 * x.work
      | none => false)

/-- Length buckets (R66, R618). DESIGN CHOICE (log 28): R66 gives LEN no minimum; a LEN of 0 fails here, with 0x06. -/
def bucketsFit (g : TabImage) : Bool :=
  let bs := bucketsOf g
  bs.all (fun b => b.len % 32 == 0 && 1 ≤ b.len && b.len ≤ 1048576 && 1 ≤ b.slots && b.slots ≤ 65535 && b.base % 64 == 0 &&
    b.stride % 64 == 0 && inLpddr b.base (b.slots * b.stride)) &&
  (bs.zip (bs.drop 1)).all fun p => p.1.len < p.2.len

/-- Step plan in ascending segment and stage (R619). DESIGN CHOICE (log 28): R619 names no check for entries out of this order; they
fail here, with 0x06. -/
def planFit (g : TabImage) : Bool :=
  (planOf g).all (fun p => p.1 < hdrSegments g) &&
  ((planOf g).zip ((planOf g).drop 1)).all fun p => p.1.1 < p.2.1 || (p.1.1 == p.2.1 && p.1.2.1 ≤ p.2.2.1)

def distinctN : List Nat → Bool
  | [] => true
  | x :: xs => !xs.contains x && distinctN xs

/-- Groups and gradient buckets (R388 to R392). -/
def reductionFit (g : TabImage) : Bool :=
  let bs := gbucketsOf g
  let full := (bs.head?.map GBucket.elems).getD 0
  1 ≤ redRanks g && 1 ≤ redGroups g &&
  (List.range (redGroups g)).all (fun i => distinctN (redGroup g i) && (redGroup g i).all fun p => p < hdrModules g) &&
  distinctN (bs.map GBucket.bucket) &&
  bs.all (fun b => b.elems != 0 && b.elems % 1024 == 0 && b.elems ≤ 16777216 && b.gbase % 1024 == 0 && b.gbase < 2 ^ 48 &&
    b.group < redGroups g && b.owner < redRanks g && b.seg < hdrSegments g) &&
  bs.zipIdx.all fun p =>
    if p.2 + 1 = bs.length then bs.length == 1 || p.1.elems ≤ full else p.1.elems == full && full % 262144 == 0

/-- Variants of which the module holds sections (R35, R478) (log 28). -/
def variantsOf (g : TabImage) (pos : Nat) : List Nat := (ownSects g pos).foldl (fun (l : List Nat) x => sinsert l x.var) []

def resourcesOk (g : TabImage) (pos : Nat) : Bool :=
  (ownSects g pos).all (fun x => match x.ty with
    | 0x1 => streamsFit g x
    | 0x2 => benchCfgFit g x
    | _ => true) &&
  (variantsOf g pos).all (fun v => hubFit g pos v && plucksFit g pos v && windowsFit g pos v && linksFit g pos v) && bucketsFit g && planFit g && reductionFit g

/-! Check 7 (R43 to R45, R442): the first segment that fails. DESIGN CHOICE (log 28): R43 names no check for a WORK of 0; it fails
here, with 0x07, whatever its SLACK. -/

def slackOk (g : TabImage) (k : Nat) (prev : Nat) (x : Seg) : Bool :=
  x.offset == prev && 1 ≤ x.work && (x.work * 628 + 9999) / 10000 + 10 ≤ x.slack && x.stepEnd == (k + 1 == hdrSegments g)

def slackGo (g : TabImage) : Nat → Nat → List Seg → Option Nat
  | k, e, [] => if hdrStepNs g == e && 40000 ≤ e then none else some (k - 1)
  | k, e, x :: xs => if slackOk g k e x then slackGo g (k + 1) (x.offset + x.work + x.slack) xs else some k

def slackFault (g : TabImage) : Option Nat := slackGo g 0 0 (segsOf g)

/-! Check 8. -/

/-- A span of freed time in the step, ns. -/
abbrev Span := Nat × Nat

/-- Spans in which windows of a class free a unit by a test on unit codes. -/
def spansOf (g : TabImage) (ws : List Window) (cls : Nat) (frees : Nat → Bool) : List Span :=
  ws.filterMap fun w =>
    if w.cls.testBit cls && w.units.any frees then
      (segOf g w.seg).map fun x => (x.offset + w.start, x.offset + w.start + w.length)
    else none

/-- Spans in rising order of their starts, with those that touch a span already begun joined to it. -/
def mergeFrom (x : Span) : List Span → List Span
  | [] => [x]
  | y :: ys => if y.1 ≤ x.2 then mergeFrom (x.1, max x.2 y.2) ys else x :: mergeFrom y ys
def mergeSpans : List Span → List Span
  | [] => []
  | x :: xs => mergeFrom x xs
/-- Freed time in `[u, v)` of one step. -/
def freedIn (l : List Span) (u v : Nat) : Nat := l.foldl (fun a x => a + (min x.2 v - max x.1 u)) 0
/-- Freed time in `[t, t + r)` of the repeated step, `r` at most a step. -/
def freedCyc (l : List Span) (step t r : Nat) : Nat := freedIn l t (min (t + r) step) + freedIn l 0 (t + r - step)

/-- At least `need` ns freed in every interval of `T` ns, with the step repeated (R76). -/
def freedEnough (l : List Span) (step T need : Nat) : Bool :=
  let m := mergeSpans (l.mergeSort fun a b => a.1 ≤ b.1)
  let tot := m.foldl (fun a x => a + (x.2 - x.1)) 0
  if step = 0 then false
  else
    let r := T % step
    let cand := (m.map fun x => [x.1 % step, x.2 % step, (x.1 + step - r) % step, (x.2 + step - r) % step]).flatten
    !m.isEmpty && cand.all fun t => need ≤ T / step * tot + freedCyc m step t r

/-- A whole window of at least `need` ns in every interval of `T` ns, the step repeated: after the start of each, the first end of a
window that starts later comes within `T` (log 28). -/
def windowEvery (l : List Span) (step T need : Nat) : Bool :=
  let m := l.filter fun x => need ≤ x.2 - x.1
  !m.isEmpty && m.all fun x => m.any fun y => (if x.1 < y.1 then y.2 else y.2 + step) - x.1 ≤ T

/-- A unit code names a unit that exists (R617). -/
def unitExists (u : Nat) : Bool :=
  match u / 2 ^ 28 with
  | 0 => bitsOf u 12 8 < 27 && bitsOf u 7 0 < 176
  | 1 => bitsOf u 4 0 < 27
  | 2 => bitsOf u 2 0 < 6
  | 3 => bitsOf u 10 8 < 6 && bitsOf u 5 0 < 56
  | 4 => bitsOf u 5 0 < 48
  | _ => true

def kindIs (k f : Nat) (u : Nat) : Bool := u / 2 ^ 28 == k && u % 2 ^ 28 == f
def freesCh (h c : Nat) (u : Nat) : Bool := kindIs 3 (256 * h + c) u || kindIs 2 h u

/-- The reserved minimums of R343, R505, R525 and R580 (log 28). -/
def maintenanceOk (g : TabImage) (img pos var : Nat) : Bool :=
  let ws := windowsOf g pos var
  let st := hdrStepNs g
  let sp := spansOf g ws
  let mult := if windowsRef g pos var = 1 then 1 else 2
  ws.all (fun w => w.units.all unitExists && (match segOf g w.seg with | some x => w.start + w.length ≤ x.work | none => false)) &&
  (List.range 6).all (fun h => (List.range 56).all fun c =>
    let (tpb, tra, tzq, tzqi) := Config.dramTiming img ((56 * h + c) / 4)
    let z := sp 0 (freesCh h c)
    freedEnough z st (8 * tpb / mult) (8 * tra) && windowEvery z st tzqi tzq && windowEvery z st 4000000 0 &&
    freedEnough (sp 1 (freesCh h c)) st 100000000 1000 && freedEnough (sp 3 (freesCh h c)) st 10000000000 1000000) &&
  windowEvery (sp 1 (kindIs 7 0)) st 1000000000 1000 &&
  (List.range 27).all (fun d => freedEnough (sp 2 (kindIs 1 d)) st 1000000 1000) &&
  freedEnough (sp 2 (kindIs 6 0)) st 1000000 1000 &&
  (List.range 6).all (fun h => freedEnough (sp 2 (kindIs 2 h)) st 1000000 1000 && freedEnough (sp 3 (kindIs 2 h)) st 10000000000 4000) &&
  (List.range 2).all (fun m => freedEnough (sp 2 (kindIs 5 m)) st 1000000 1000 && freedEnough (sp 3 (kindIs 5 m)) st 10000000000 4000 &&
    freedEnough (sp 5 (kindIs 5 m)) st 10000000 4000) &&
  freedEnough (sp 4 (kindIs 6 0)) st 10000000000 1000 &&
  (List.range 27).all (fun d => (List.range 176).all fun b => freedEnough (sp 3 (kindIs 0 (256 * d + b))) st 10000000000 16000)

/-! Checks 9 and 10: the first bin that fails. -/

def annotationFault (g : TabImage) (img pos var : Nat) : Option Nat :=
  ((binsOf g pos var).zipIdx.find? fun b => b.1 < Config.powerBound img g.bytes pos var b.2).map fun b => b.2

/-- The first of 8 cyclic bins whose sum exceeds 19,200 (R73). -/
def envelopeFaultBin (g : TabImage) (pos var : Nat) : Option Nat :=
  let bs := binsOf g pos var
  let n := bs.length
  (List.range n).find? fun i => 19200 < (List.range 8).foldl (fun a k => a + bs.getD ((i + k) % n) 0) 0

/-- The checks of R37 after the first: code and ERR_LOC of the first that fails, (0, 0) when all pass (log 28). -/
def tabCheck (g : TabImage) (img partId pos positions : Nat) : Nat × Nat :=
  if !formatOk g pos then (codeBadFormat, 0)
  else if !partOk g partId then (codeWrongPart, 0)
  else if !hashesOk g pos then (codeHash, 0)
  else if hdrModules g != positions then (codeModuleCount, 0)
  else if !resourcesOk g pos then (codeResource, 0)
  else match slackFault g with
    | some k => (codeSlack, k)
    | none =>
      let vs := variantsOf g pos
      if !vs.all (maintenanceOk g img pos) then (codeMaintenance, 0)
      else match vs.findSome? (annotationFault g img pos) with
        | some i => (codeAnnotation, i)
        | none => match vs.findSome? (envelopeFaultBin g pos) with
          | some i => (codeEnvelope, i)
          | none => (0, 0)

end Sys2Proof.Machine
end

