-- ==== Sys2Proof/Machine/Job.lean ====
section
/-!
DEFINITION. The tab state machine (R38 to R42), step descriptors (R439 to R442, R394, R49), segments (R43 to R48) and deadline faults
at the manager (R54, R56, R360).
-/
namespace Sys2Proof.Machine

/-! The tab. -/

def State.setTabState (s : State) (x : Nat) : State := s.setFld (mgtKey 0x100) 2 0 x
/-- LOAD_CODE and ERR_LOC (R40) (log 27). -/
def State.loadCode (s : State) (code loc : Nat) : State := (s.setFld (mgtKey 0x100) 15 8 code).setFld (mgtKey 0x100) 63 32 loc
/-- TAB_ID registers (R40). -/
def State.setTabIds (s : State) (g : Option TabImage) : State :=
  (List.range 4).foldl (fun s i => s.setReg (mgtKey (0x108 + 8 * i)) (BitVec.ofNat 64 (match g with | some t => hdrTabId t i | none => 0))) s

/-- Places the stream section of a tab in LPDDR6 (R614). -/
def State.placeStreams (s : State) (g : TabImage) (pos : Nat) : State :=
  match findSect g pos 0 0x1 with
  | none => s
  | some x => s.storeLong (tabU g x.off 8) (tabBytes g x.off x.len) false

/-- A measurement extended by an item (R550). -/
def extendMeas (m item : List Byte) : List Byte := sha3 (m ++ sha3 item)
/-- Registers that hold 32 bytes in four words. -/
def State.setWords (s : State) (key : Nat → Nat) (bs : List Byte) : State :=
  (List.range 4).foldl (fun s i => s.setReg (key (8 * i)) (BitVec.ofNat 64 (leNat ((bs.drop (8 * i)).take 8)))) s
def State.setRunMeas (s : State) (m : List Byte) : State :=
  let s := { s with sec := { s.sec with runMeas := m } }
  (s.setWords (fun o => mdKey 0 (0x330 + o)) m).setWords (fun o => mdKey 1 (0x330 + o)) m

def State.ackReq (s : State) (code : Nat) : State := if code = 0 then s.say .ack [] else s.say .tabRefused [code, 0]

/-- A load request (R35, R41): in EMPTY or LOADED the module receives; otherwise it refuses with BUSY, as it does before the factory
special-function images stand in the cores (R249) (log 27). -/
def State.loadRequest (s : State) (pos positions : Nat) : State :=
  let st := s.tabState
  if !s.sec.sfsLoaded then (s.loadCode codeBusy 0).say .tabRefused [codeBusy, 0]
  else if st = tabEmpty || st = tabLoaded then
    ({ s with
      tab := { s.tab with received := none, prev := st, rxPos := pos, rxPositions := positions, rxSince := s.tbNow }
      mgr := { s.mgr with loads := [] } }.setTabState tabReceiving).say .ack []
  else (s.loadCode codeBusy 0).say .tabRefused [codeBusy, 0]

/-- Back to the state before the load; what arrived is discarded (R41) (log 27). -/
def State.loadAbandon (s : State) : State :=
  if s.tabState = tabReceiving || s.tabState = tabChecking then
    { s with tab := { s.tab with received := none } }.setTabState s.tab.prev
  else s

def State.role (s : State) : Nat := s.fld (mgtKey 0x1c0) 1 0
def roleManager : Nat := 1
def roleStandby : Nat := 2
/-- Does the module act as manager (R439, R443)? -/
def State.isManager (s : State) : Bool := s.role == roleManager && !s.mgr.silenced

/-- A module's outcome of the load reaches the manager: it is held, and a refusal makes the manager discard the tab on every module (R39)
(log 27). -/
def State.loadReported (s : State) (pos : Nat) (got : Option (BitVec 256)) : State :=
  if !s.isManager then s
  else
    let s := { s with mgr := { s.mgr with loads := nset s.mgr.loads pos got } }
    if got.isNone then s.say .discardTab [] else s

/-- Do all job positions report LOADED for a tab of one TAB_ID (R39)? -/
def State.allLoaded (s : State) : Bool :=
  let want := if s.mgr.roles.isEmpty then List.range s.tab.rxPositions else s.mgr.roles.map Prod.fst
  let mine := some (hdrTabId256 s.theTab)
  want.all fun p => (nget? s.mgr.loads p).join == mine

/-- The checks end (R37, R41): the tab is loaded, or refused with its code. -/
def State.checksDone (s : State) : State :=
  match s.tabState == tabChecking, s.tab.received with
  | true, some g =>
    let r := tabCheck g s.sec.imageHash (s.reg (mgtKey 0)).toNat s.tab.rxPos s.tab.rxPositions
    -- a module whose second package was lost at boot refuses every load (R549)
    let r := if s.tab.refuseAll then (codeResource, 0) else r
    if r.1 = 0 then
      let early := if s.tab.prev = tabLoaded then s.tab.loaded else none
      let s := { s with tab := { s.tab with
        loaded := some g, earlier := early, earlierPos := s.tab.pos, received := none, pos := s.tab.rxPos, variant := 0, newly := true } }
      let s := { s with cycle := { s.cycle with measWas := some (s.cycle.measWas.getD s.sec.runMeas) } }
      let s := s.setRunMeas (extendMeas s.sec.runMeas (tabBytes g 0x060 32))
      (((((s.placeStreams g s.tab.pos).setTabIds (some g)).loadCode 0 0).setTabState tabLoaded).say .tabLoaded
        [(hdrTabId256 g).toNat]).loadReported s.tab.pos (some (hdrTabId256 g))
    else (((s.loadAbandon).loadCode r.1 r.2).say .tabRefused [r.1, r.2]).loadReported s.tab.rxPos none
  | _, _ => s.say .ack []

/-- A discard from the manager (R41, R42): in LOADED it drops a newly checked tab, and a tab under which a job has run stays (log 27). -/
def State.discardTab (s : State) : State :=
  let st := s.tabState
  if st = tabReceiving || st = tabChecking then s.loadAbandon.say .ack []
  else if st = tabLoaded && s.tab.newly then
    match s.tab.earlier with
    | some g =>
      let s := { s with tab := { s.tab with loaded := some g, earlier := none, pos := s.tab.earlierPos, variant := 0, newly := false } }
      (((s.placeStreams g s.tab.pos).setTabIds (some g)).say .tabLoaded [(hdrTabId256 g).toNat]).loadReported s.tab.pos
        (some (hdrTabId256 g))
    | none => (({ s with tab := { s.tab with loaded := none, newly := false } }.setTabIds none).setTabState tabEmpty).say .ack []
  else s.say .ack []

/-! Jobs. -/

/-- What the units load at job start: HAUL_CFG (R480), HUB_DRAM_CFG (R346), SBASE (R386). -/
def State.jobRegs (s : State) : State :=
  let g := s.theTab
  let haul := match jobRec g s.tab.pos s.tab.variant with | some o => tabU g (o + 8) 8 | none => 0
  let ref := windowsRef g s.tab.pos s.tab.variant
  let s := allHubs.foldl (fun s h => (s.setReg (hubKey h 0x500) (BitVec.ofNat 64 haul)).setReg (hubKey h 0x420) (BitVec.ofNat 64 ref)) s
  allDies.foldl (fun s (d : Die) => match s.dieLog d with
    | none => s
    | some l => (List.finRange 180).foldl (fun s (b : Fin 180) => match s.benchLog ⟨d, b⟩ with
      | none => s
      | some m => match benchImage g s.tab.pos s.tab.variant 0 l m 8 with
        | some v => if v = (s.reg (benchKey ⟨d, b⟩ 0x318)).toNat then s else s.setReg (benchKey ⟨d, b⟩ 0x318) (BitVec.ofNat 64 v)
        | none => s) s) s

/-- The timebase steps once before a job starts, forwards only (R445) (log 36). -/
def State.tbStep (s : State) : State :=
  if s.mgt.tbOff < 0 then { s with tbBase := s.tbBase - s.mgt.tbOff / 4, mgt := { s.mgt with tbOff := 0 } } else s

/-- Both stockpile banks of the thinnable buckets placed here hold +0 when a job starts (R395); a job that resumes has them as restored
(log 39). -/
def State.clearStock (s : State) : State :=
  if s.job.restored then s
  else s.myPlaces.foldl (fun s p => match (gbucketsOf s.theTab).find? fun b => b.bucket == p.bucket && b.thinnable with
    | some b => (s.storeLong p.stock0 (List.replicate (4 * b.elems) 0) false).storeLong p.stock1 (List.replicate (4 * b.elems) 0) false
    | none => s) s

/-- Benches that a thermal stop held in SLEEP run again when the job starts; spares stay as they are (R488, R503) (log 51). -/
def State.wakeHeld (s : State) : State :=
  { s with benches := s.benches.map fun (p : Nat × BenchState) => match benchOfKey p.1 with
      | some b => if s.isSpare b || p.2.power = 3 then p else (p.1, { p.2 with power := 0, transit := .none })
      | none => p }

/-- Job start (R39, R41, R42). The manager starts a job, on every module, only when every module reports LOADED for one TAB_ID (log 27). The
inputs already packed for its first step stay held (R32). -/
def State.startJob (s : State) : State :=
  let st := s.tabState
  if st = tabLoaded then
    if s.isManager && !s.allLoaded then s
    else
      let s := if s.isManager then s.say .startJob [] else s
      let s := s.clearStock
      ({ s with
        tab := { s.tab with earlier := none, newly := false }
        job := { route := s.job.route, routeWant := s.job.routeWant, heldInputs := s.job.heldInputs } }.tbStep.wakeHeld.jobRegs.setTabState
          tabRunning).say .ack []
  else if st = tabEmpty then s.ackReq codeNoTab
  else s.ackReq codeBusy

/-- Job stop, or a fault that ends the job (R41). -/
def State.stopJob (s : State) : State :=
  if s.tabState = tabRunning then ({ s with job := { s.job with abandon := true } }.setTabState tabStopping).say .ack [] else s.say .ack []

/-- Every unit is idle at a segment boundary: LOADED again; after a thermal fault the benches are held in SLEEP (R41, R503). -/
def State.stopped (s : State) : State :=
  if s.tabState = tabStopping && !s.job.inStep then
    let idle := s.cores.map fun (p : Nat × CoreState) => (p.1, { p.2 with running := false })
    let s := { s with cores := idle }
    let s := if s.job.thermal then
        let keys := (allDies.map fun d => (allBenches d).map fun (b : BenchId) => (b.key, ())).flatten
        let sleep := fun (_ : Unit) (x : BenchState) => if x.power = 3 then x else { x with power := 2, transit := .none }
        { s with benches := nover {} sleep keys s.benches }
      else s
    ({ s with job := { s.job with thermal := false, abandon := false, cur := none, next := none, windows := [] } } : State).setTabState tabLoaded
  else s

/-! Step descriptors. -/

/-- A term above the module's own replaces it and drops what descriptors of the old one are held (R442, R443). -/
def State.raiseTerm (s : State) (t : Nat) : State :=
  if s.fld (mgtKey 0x1c0) 63 32 < t then
    let s := s.setFld (mgtKey 0x1c0) 63 32 t
    let keep := s.job.inStep
    { s with
      job := { s.job with cur := if keep then s.job.cur else none, next := none, last := none }
      mgr := { s.mgr with silenced := true } }
  else s

/-- The descriptor of the step that starts next. -/
def State.nextDesc (s : State) : Option StepDesc := if s.job.inStep || s.job.stepDone then s.job.next else s.job.cur.or s.job.next

/-- Is a thinning setting supported (R393)? -/
def State.thinOk (s : State) (n : Nat) : Bool := n ≤ 10 && (redThinSet s.theTab).testBit n

/-- The module does not start a step whose descriptor did not come in time, and says so once (R49, R54) (log 29). -/
def State.missStep (s : State) (n : Nat) : State :=
  if s.job.missed == some n then s
  else ({ s with job := { s.job with missed := some n } } : State).say .descriptorDeadline [s.tab.pos, s.job.seg, n]

/-- Why an arriving descriptor is refused (R394, R442): 0 accepted, else the case in the order of R442, 7 for an unsupported THIN,
8 when no job runs. -/
def State.descCause (s : State) (d : StepDesc) : Nat :=
  let j := s.job
  if s.tabState != tabRunning then 8
  else if d.tab.toNat != hdrTabId s.theTab 0 then 1
  else if d.term.toNat < s.fld (mgtKey 0x1c0) 63 32 then 2
  else if j.cur.isSome && j.next.isSome then 3
  else match j.last with
    | none => if d.start.toNat < 2000 + s.tbNow then 4 else if s.thinOk d.thin.toNat then 0 else 7
    | some l =>
      if !d.replay && d.step != l.step + 1 then 5
      else if !d.replay && d.start.toNat != l.start.toNat + hdrStepNs s.theTab then 6
      else if s.thinOk d.thin.toNat then 0 else 7

/-- A step descriptor arrives (R442): a higher term first drops those of a lower one (log 29). One that comes later than 2 µs before its
START is not held (R49). The first descriptor of a job gives up inputs held for other steps. -/
def State.takeDesc (s : State) (d : StepDesc) : State :=
  let s := if s.tabState = tabRunning && d.tab.toNat == hdrTabId s.theTab 0 then s.raiseTerm d.term.toNat else s
  let c := s.descCause d
  if c != 0 then s.say .descriptorFault [s.tab.pos, d.step.toNat, c]
  else if s.job.last.isSome && decide (d.start.toNat < 2000 + s.tbNow) then s.missStep d.step.toNat
  else
    let j := s.job
    let j := { j with missed := if j.missed == some d.step.toNat then none else j.missed }
    let j := if j.last.isNone then { j with heldInputs := j.heldInputs.filter (· == d.step.toNat) } else j
    let j := match j.cur with
      | none => { j with cur := some d, stepDone := false }
      | some _ => { j with next := some d }
    { s with job := { j with last := some d } }

/-- 2 µs before the next step's start no descriptor is held (R49) (log 29). -/
def State.descDeadline (s : State) : State :=
  match s.tabState == tabRunning, s.nextDesc, s.job.last with
  | true, none, some l => (s.reach (s.atTb (l.start.toNat + hdrStepNs s.theTab - 2000))).missStep (l.step.toNat + 1)
  | _, _, _ => s

/-- Words of a descriptor (R441). -/
def descWords (d : StepDesc) : List Nat :=
  [d.step.toNat, d.bank.toNat, d.thin.toNat, d.replay.toNat, d.start.toNat, d.seedEpoch.toNat, d.tab.toNat, d.term.toNat]

/-- A replayed step takes its BANK, THIN and SEED_EPOCH from the job's descriptor log (R465) (log 29). -/
def State.fromLog (s : State) (d : StepDesc) : StepDesc :=
  match d.replay, s.mgr.descLog.find? fun e => e.step == d.step with
  | true, some e => { d with bank := e.bank, thin := e.thin, seedEpoch := e.seedEpoch }
  | _, _ => d

/-- The manager sends a descriptor with its own term, at least 40 µs ahead and not before the start of the step before (R442). -/
def State.sendDesc (s : State) (d : StepDesc) : State :=
  let d := s.fromLog d
  let d := { d with term := BitVec.ofNat 32 (s.fld (mgtKey 0x1c0) 63 32) }
  let early : Bool := match s.mgr.lastSent with | some l => decide (s.tbNow < l.start.toNat) | none => false
  if s.isManager && 40000 + s.tbNow ≤ d.start.toNat && !early then
    let n := d.step.toNat
    let runs := if d.replay then nset s.mgr.runs n (nget s.mgr.runs n 0 + 1) else s.mgr.runs
    { s with mgr := { s.mgr with lastSent := some d, descLog := s.mgr.descLog ++ [d], runs := runs } }.say .descriptor (descWords d)
  else s

/-! Segments. -/

/-- Benches that run the tab: physical number, logical die and bench, in the order of their keys. -/
def State.liveBenches (s : State) : List (BenchId × Nat × Nat) :=
  (allDies.map fun (d : Die) => if s.dieFenced d then [] else match s.dieLog d with
    | none => []
    | some l => (List.finRange 180).filterMap fun b =>
        if s.benchFenced ⟨d, b⟩ then none else (s.benchLog ⟨d, b⟩).map fun m => (⟨d, b⟩, l, m)).flatten

/-- What is due before the boundary is written, transfers still in flight are late (R51, R54), regions that missed their deadline end, and
cores without SEGEND overrun (R47) (log 23). -/
def State.boundary (s : State) : State :=
  let s := s.lateTransfers
  let s := s.benches.foldl (fun s p => match benchOfKey p.1 with | some b => s.settle b s.now | none => s) s
  s.cores.foldl (fun s p => match coreOfNum p.1 with
    | none => s
    | some c =>
      let s := s.applyBefore c s.now
      let x := s.core c
      if !x.running then s
      else
        let s := if x.region.isSome then s.regionEnd c else s
        let x := s.core c
        if x.hold == .segend || x.hold == .halted then s else s.coreFault c 5 0 x.lastIdx) s

/-- A core at a segment start: marks, first-fault flags and the outputs of the segment are fresh; a halted core goes on after its SEGEND. -/
def CoreState.newSegment (x : CoreState) : CoreState :=
  let x := { x with
    marks := [], lineBad := [], faulted := false, descFaulted := false, touched := [], touchedMem := [], parked := false
    bad := serase x.bad carryReg }
  match x.hold with
  | .segend => { x with hold := .none }
  | .halted => match x.findOp x.nextIdx 0x23 with
    | some k => { x with hold := .none, nextIdx := k + 1, branch := none, loops := leaveLoops x.loops (k + 1) }
    | none => x
  | _ => x

/-- A core at a step start: both halves hold the first 512 bundles of its stream (R113). -/
def CoreState.newStep (x : CoreState) (bs : List Byte) : CoreState :=
  let x := (x.fillHalf 0 bs).fillHalf 1 (bs.drop 4096)
  { x with valid0 := true, valid1 := true, fill0 := none, fill1 := none, nextIdx := 0, branch := none, loops := [], hold := .none, running := true
           cur := none, done := [], vnopNext := false }

/-- Fills every core of the live benches. -/
def State.fillCores (s : State) : State :=
  let g := s.theTab
  let pos := s.tab.pos
  let var := s.tab.variant
  let keys := (s.liveBenches.map fun b => (List.finRange 64).map fun c => ((b.1.coreAt c).key, b.2.1, b.2.2, c.val)).flatten
  { s with cores := nover {} (fun (a : Nat × Nat × Nat) x => match streamOf g pos var a.1 a.2.1 a.2.2 with
    | some (o, off, _) => x.newStep (tabBytes g (o + off) 8192)
    | none => x) keys s.cores }

/-- Registers a live bench loads from its image: all but the two SFS_CFG and SCHED_BANK rules cover (R615). -/
def imageOffs : List (Nat × Nat) := [(0, 0x200), (1, 0x210), (3, 0x228), (4, 0x300), (5, 0x308), (6, 0x240), (7, 0x288)]

/-- Tiles of a core empty and scales 127, at a change of MODE (R153). -/
def CoreState.emptyTiles (x : CoreState) : CoreState :=
  { x with active := none, staged := none, scales := 0x7f7f7f7f#32, scalesBad := false, stagedScales := none }

/-- The image of segment `k` for a logical bench as nine numbers. -/
def imagesOf (g : TabImage) (pos var k l m : Nat) : List Nat := (List.range 9).map fun i => (benchImage g pos var k l m i).getD 0

/-- One live bench loads its configuration (R174, R189, R248, R317, R318, R323, R355, R487, R584). -/
def State.loadBench (s : State) (b : BenchId) (im : List Nat) (sfs : Bool) : State :=
  let v := fun i => im.getD i 0
  let mode := s.fld (benchKey b 0x200) 1 0
  let z0 := s.scratchMiB b
  let z1 := v 3 % 32
  let s := imageOffs.foldl (fun s p => if (s.reg (benchKey b p.2)).toNat = v p.1 then s else s.setReg (benchKey b p.2) (BitVec.ofNat 64 (v p.1))) s
  let s := if v 0 % 4 != mode then (allCores b).foldl (fun s c => s.updCore c CoreState.emptyTiles) s else s
  let s := (s.countBench b 0x22 none (v 1 % 2 ^ 48 / 16)).countBench b 0x23 none (v 1 / 2 ^ 48)
  let sbase := s.fld (benchKey b 0x318) 31 8
  -- a bank load whose bank leaves scratch loses a write (R318)
  let lost := fun (l : Nat × Nat × Bool) => (l.1, l.2.1, l.2.2 || decide (2 ^ 20 * z1 < sbase + 278592 * (l.1 + 1)))
  let s := if z0 != z1 then
      (s.dropRange (scratchKey b (2 ^ 20 * min z0 z1)) (scratchKey b (2 ^ 20 * max z0 z1))).updBench b fun x =>
        { x with part := [], schedLoad := x.schedLoad.map lost }
    else if (v 3).testBit 5 then s.updBench b fun x => { x with part := [] } else s
  if !sfs then s
  else
    let s := s.setReg (benchKey b 0x220) (BitVec.ofNat 64 (v 2))
    let pb := v 2 % 2
    let sb := v 2 / 2 % 2
    -- each core compares the tags of the banks named (R248)
    (allCores b).foldl (fun s c =>
      let tags := (s.reg (coreKey c 0x30)).toNat
      if bitsOf tags (16 * pb + 15) (16 * pb) == bitsOf (v 2) 31 16 && bitsOf tags (32 + 16 * sb + 15) (32 + 16 * sb) == bitsOf (v 2) 47 32 then s
      else (((s.setFld (coreKey c 0x28) 3 3 1).countCore c 0x46).coreDeadline c).updCore c fun x => { x with hold := .halted }) s

/-- Every EVCNT is copied to its EVSNAP (R587). -/
def State.snapshot (s : State) : State :=
  s.ctr.foldl (fun s e =>
    let k := e.1
    match blockOf (keyDie k) (keyBench k) (keyCore k) with
    | some .bench => if 0x440 ≤ keyOff k && keyOff k < 0x480 then s.setReg (k + 0x40) e.2 else s
    | some .hub => if 0x2100 ≤ keyOff k && keyOff k < 0x2200 then s.setReg (k + 0x100) e.2 else s
    | some _ => if 0x880 ≤ keyOff k && keyOff k < 0x900 then s.setReg (k + 0x80) e.2 else s
    | none => s) s

/-- Retirements whose copy is done take effect (R522, R523). -/
def State.retireReady (s : State) : State :=
  allHubs.foldl (fun s h =>
    let s := (s.hub h).retired.foldl (fun s r =>
      let k := retireKey h (r / 8) (r % 8)
      (s.setFld k 23 23 1).setFld k 24 24 0) s
    if (s.hub h).retired.isEmpty then s else s.updHub h fun x => { x with retired := [] }) s

/-- Flags by which units record the first fault of a segment. -/
def State.freshFaults (s : State) : State :=
  { s with
    cores := s.cores.map fun p => (p.1, p.2.newSegment)
    benches := s.benches.map fun p => (p.1, { p.2 with
      arrFaulted := false, ringFaulted := false, redFaulted := false, drsFaulted := false, pwrFaulted := false, cycAdj := 0 })
    dies := s.dies.map fun p => (p.1, { p.2 with lag := 0 })
    hubs := s.hubs.map fun p => (p.1, { p.2 with copyFaulted := false, dramFaulted := false, haulFaulted := false })
    ports := s.ports.map fun p => (p.1, { p.2 with faulted := false, spareDue := p.2.sparePending.isSome }) }

/-- The segment begins on every die (R46, R48) (log 30). -/
def State.beginSegment (s : State) (k start : Nat) (g : Seg) : State :=
  let s := { s with job := { s.job with seg := k, segStart := start, windows := [], pluckFired := [] } }
  let s := s.freshFaults
  -- CORE_SCARRY is +0 at every segment start (R230)
  let s := { s with csr := s.csr.filter fun e => !(keyOff e.1 == 0x18 && keyCore e.1 < 64 && keyBench e.1 < 180) }
  let s := if g.snap then s.snapshot else s
  let s := if s.fld (mgtKey 0x150) 1 1 = 1 then s.doSwap else s
  -- R28: no transfer is in flight when the route table changes
  let s := if g.route && s.idleTransfers then match s.job.routeWant with
      | some r => { s with job := { s.job with route := r, routeWant := none } }
      | none => s
    else s
  let s := s.retireReady
  let s := if k = 0 then s.fillCores else s
  let sfs := g.swap || s.job.fresh
  let im := fun l m => imagesOf s.theTab s.tab.pos s.tab.variant k l m
  let s := s.liveBenches.foldl (fun s b => s.loadBench b.1 (im b.2.1 b.2.2) sfs) s
  { s with job := { s.job with fresh := false } }

/-- The step ends or is abandoned: nothing of it starts a further segment (log 29). -/
def State.endStep (s : State) (drop : Bool) : State :=
  { s with job := { s.job with
    inStep := false, abandon := false, stepDone := !drop, windows := []
    stoppedStep := if drop then s.job.cur.map fun d => d.step.toNat else s.job.stoppedStep
    cur := if drop then none else s.job.cur, next := if drop then none else s.job.next } }

/-- The manager's copy to the standby, every step: role table and the digests of the step (R439) (log 35). -/
def State.copyToStandby (s : State) : State :=
  if s.isManager then
    s.say .standbyCopy (s.mgr.roles.flatMap (fun r => [r.1, r.2]) ++ (s.mgr.archive.filter fun a => a.1 == s.stepNo).flatMap fun a => [a.1, a.2.1, a.2.2])
  else s

/-- Start instant of segment `k` of a descriptor's step, in core cycles (R46). -/
def State.segInstant (s : State) (d : StepDesc) (k : Nat) : Nat :=
  s.atTb (d.start.toNat + ((segOf s.theTab k).map Seg.offset).getD 0)

/-- A new step starts with its descriptor (R46, R442) (log 29). -/
def State.startStep (s : State) (d : StepDesc) : State :=
  match segOf s.theTab 0 with
  | none => s
  | some g =>
    let t := s.segInstant d 0
    let s := s.reach t
    let other := if s.job.cur == some d then s.job.next else none
    let s := { s with
      job := { s.job with
        cur := some d, next := other, inStep := true, stepDone := false, applyStarted := false, digested := [], normNodes := []
        commitRow := 0, buddyDone := false, heldInputs := sinsert s.job.heldInputs d.step.toNat
        lateIn := [], lastApply := if s.job.lastApply == some d.step.toNat then none else s.job.lastApply }
      mgt := { s.mgt with envRaised := false }
      benches := s.benches.map fun (p : Nat × BenchState) => (p.1, { p.2 with nodes := [], normOut := none })
      hubs := s.hubs.map fun (p : Nat × HubState) => (p.1, { p.2 with fence := none, haulLinks := [], haul := none })
      ports := s.ports.map fun (p : Nat × PortState) => (p.1, { p.2 with
        outXfer := [], inXfer := [], ctrlUsed := [], retryFails := 0, sentHash := [], recvHash := [] }) }
    s.beginSegment 0 t g

/-- A segment start instant (R46 to R48): the next segment of the step, the first of the next step, or the end of a step. -/
def State.segmentStart (s : State) : State :=
  if s.job.inStep then
    match s.job.cur with
    | none => s
    | some d =>
      let k := s.job.seg + 1
      let last := hdrSegments s.theTab ≤ k
      let t := if last then s.atTb (d.start.toNat + hdrStepNs s.theTab) else s.segInstant d k
      let s := (s.reach t).boundary
      let s := if last then s.copyToStandby else s
      if s.job.abandon then s.endStep true
      else if last then
        match s.job.next with
        | some e => if s.tabState = tabRunning then s.startStep e else s.endStep true
        | none =>
          -- the next step's descriptor did not come in time (R49)
          (if s.tabState = tabRunning then s.missStep (d.step.toNat + 1) else s).endStep false
      else match segOf s.theTab k with
        | some g => s.beginSegment k t g
        | none => s
  else if s.tabState = tabRunning then
    match s.nextDesc with
    | some d => s.startStep d
    | none => s
  else s

/-! Deadline faults at the manager (R56). -/

/-- A unit as one number of a report. -/
def unitNum (u : UnitRef) : Nat := ((u.pos * 64 + u.die) * 256 + u.bench.toNat) * 128 + u.core.toNat

/-- Every module stops the step at its next segment boundary (R56). -/
def State.stopHere (s : State) (step : Nat) : State :=
  { s with job := { s.job with abandon := s.job.abandon || (s.job.inStep && s.stepNo == step) } }

/-- The step that runs, or that was stopped last. -/
def State.haltedStep (s : State) : Nat := (s.job.cur.map fun d => d.step.toNat).getD (s.job.stoppedStep.getD 0)

/-- Must the manager restore the last commit before it runs the step again: after an apply pass of it (R360), or for a step-skew fault
(R361)? -/
def State.mustRestore (s : State) (step : Nat) (applied skew : Bool) : Bool :=
  applied || skew || s.job.lastApply == some step

/-- A fault of a step, reported to the manager. The step stops on every module and runs again, once for the faults of one run, and from the
last commit where R360 or R361 asks for it; a unit of an earlier run's fault is failed (R56) (log 29). -/
def State.managerFault (s : State) (u : UnitRef) (step : Nat) (applied skew : Bool) : State :=
  let s := s.stopHere step
  if !s.isManager then s
  else
    let run := nget s.mgr.runs step 0
    let again := s.mgr.faults.any fun f => f.1 == step && f.2.1 == unitNum u && f.2.2.1 < run
    let mine := s.mgr.faults.filter fun f => f.1 == step && f.2.2.1 == run
    let restore := s.mustRestore step applied skew
    let s := { s with mgr := { s.mgr with faults := (step, unitNum u, run, restore.toNat) :: s.mgr.faults } }
    if again then s.say .unitFailed [u.pos, u.die, u.bench.toNat]
    else
      let s := if mine.isEmpty then s.say .stopStep [step] else s
      let s := if restore && mine.all (·.2.2.2 == 0) then s.say .restoreFrom [s.mgr.committed.getD 0] else s
      if mine.isEmpty then s.say .rerunStep [if skew then s.mgr.committed.getD 0 + 1 else step] else s

/-! Meanings. -/

def execTabLoadRequest (pos positions : Nat) (s : State) : Out := .next (s.loadRequest pos positions)
/-- All sections of the module have arrived, and the checks begin (R41). -/
def execTabSectionsReceived (img : TabImage) (s : State) : Out :=
  .next (if s.tabState = tabReceiving then { s with tab := { s.tab with received := some img } }.setTabState tabChecking
    else s.say .ack [])
def execTabTransferAborted (s : State) : Out := .next (if s.tabState = tabReceiving then s.loadAbandon else s.say .ack [])
/-- 10 s without data (R41): the timebase reaches that instant. -/
def execTabReceiveTimeout (s : State) : Out :=
  .next (if s.tabState = tabReceiving then (s.reach (s.atTb (10000000000 + s.tab.rxSince))).loadAbandon
    else s.say .ack [])
def execTabChecksComplete (s : State) : Out := .next s.checksDone
def execTabDiscard (s : State) : Out := .next s.discardTab
def execJobStart (s : State) : Out := .next s.startJob
/-- R41: a stop and a fault that ends the job take RUNNING to STOPPING alike; there only the stop is acknowledged. -/
def execJobStop (byFault : Bool) (s : State) : Out :=
  .next (if byFault && s.tabState = tabRunning then { s with job := { s.job with abandon := true } }.setTabState tabStopping
    else s.stopJob)
def execStoppingIdle (s : State) : Out := .next (if s.tabState = tabStopping then s.stopped else s.say .ack [])
def execStepDescriptorSend (d : StepDesc) (s : State) : Out := .next (s.sendDesc d)
def execStepDescriptor (d : StepDesc) (s : State) : Out := .next (s.takeDesc d)
def execDescriptorDeadline (s : State) : Out := .next s.descDeadline
def execSegmentStart (s : State) : Out := .next s.segmentStart
def execDeadlineFault (u : UnitRef) (fault : StepFault) (s : State) : Out :=
  .next (s.managerFault u fault.step.toNat fault.applied fault.skew)

end Sys2Proof.Machine
end

