-- ==== Sys2Proof/Machine/Dresser.lean ====
section
/-!
DEFINITION. The dresser's passes (R349 to R362, R365 to R385), the step counter it checks (R361 to R364) and schedule-bank loads (R370
to R372). A pass reads and writes its scratch when it starts; its end or its deadline settles the rest.
-/
namespace Sys2Proof.Machine

/-! Scratch (R349). -/

/-- Reads scratch: 0 with the bytes, 2 when a word is poisoned, 3 outside scratch. -/
def State.scr (s : State) (b : BenchId) (off n : Nat) : Nat × List Byte × State :=
  if 2 ^ 20 * s.scratchMiB b < off + n then (3, [], s)
  else
    let r := s.load (scratchKey b off) n
    (if r.2.1 then 2 else 0, r.1, r.2.2)

/-- Reads several ranges, up to the first that stops the pass. -/
def State.scrAll (s : State) (b : BenchId) : List (Nat × Nat) → Nat × List (List Byte) × State
  | [] => (0, [], s)
  | p :: ps =>
    let r := s.scr b p.1 p.2
    if r.1 != 0 then (r.1, [], r.2.2)
    else
      let q := State.scrAll r.2.2 b ps
      (q.1, r.2.1 :: q.2.1, q.2.2)

def State.putScr (s : State) (b : BenchId) (off : Nat) (bs : List Byte) : State :=
  let r := s.store (scratchKey b off) bs false
  if r.1 then r.2.poisonRange (scratchKey b off) bs.length else r.2

/-! Faults and registers. -/

def drsStatus (b : BenchId) : Nat := benchKey b 0x330

/-- A dresser fault of a cause at an entry (R358, R361); the first of a segment is recorded. -/
def State.drsFault (s : State) (b : BenchId) (cause entry : Nat) : State :=
  let s := s.countBench b 0x57 none 1
  let s := s.setFld (drsStatus b) 1 0 3
  let s := if (s.bench b).drsFaulted then s
    else ((s.setReg (benchKey b 0x338) (faultWord (cause + 8) s.stepNo)).setFld (drsStatus b) 47 32 entry).updBench b fun x =>
      { x with drsFaulted := true }
  -- R361: the manager stops the step and recovers from the last commit
  if cause = 1 then
    (s.say .stepSkew [s.tab.pos, b.die, b.bench, s.stepNo]).managerFault
      ⟨s.tab.pos, Fin.ofNat 64 ((s.dieLog b.die).getD 0x3f), BitVec.ofNat 8 ((s.benchLog b).getD 0xff), 64⟩ s.stepNo false true
  else s.benchDeadline b

/-- Poisons ranges as far as they lie in the bench's own scratch (R349). -/
def State.poisonOuts (s : State) (b : BenchId) (outs : List (Nat × Nat)) : State :=
  outs.foldl (fun s p => s.poisonRange (scratchKey b p.1) (min p.2 (2 ^ 20 * s.scratchMiB b - p.1))) s

/-! What a pass overwrites (R359). -/

def State.oldRange (s : State) (b : BenchId) (p : Nat × Nat) : OldRange :=
  ⟨p.1, s.peek (scratchKey b p.1) p.2, (unitsOf (scratchKey b p.1) p.2).filter fun u => smem s.poison u⟩
/-- A range holds again what it held, as far as it lies in scratch. -/
def State.putBack (s : State) (b : BenchId) (r : OldRange) : State :=
  let bs := r.bytes.take (2 ^ 20 * s.scratchMiB b - r.off)
  let k := scratchKey b r.off
  { s with
    mem := putBytes s.mem k bs
    poison := (unitsOf k bs.length).foldl (fun m u => if r.bad.contains u then sinsert m u else serase m u) s.poison }

/-! The work list (R351 to R353). -/

structure Entry where
  gidx : Nat
  grp : Nat
  mapped : Bool
  mapBit : Nat
  blocks : Nat
  map : Nat
  w : Nat
  g : Nat
  m : Nat
  ms : Nat
  v : Nat
  vs : Nat
  k : Nat
  deriving DecidableEq, Repr

def entryOf (raw : List Byte) : Entry :=
  let u := fun o n => leNat ((raw.drop o).take n)
  ⟨bitsOf (u 0 8) 47 0, bitsOf (u 0 8) 55 48, (u 0 8).testBit 56, bitsOf (u 0 8) 59 57, u 8 4, u 0xc 4, u 0x10 4, u 0x14 4, u 0x18 4,
    u 0x1c 4, u 0x20 4, u 0x24 4, u 0x28 4⟩

def kronBytes : Nat := 16448
/-- Does a rule keep a second moment (R350)? -/
def keepsV (rule : Nat) : Bool := rule == 0 || rule == 3

/-- What an apply pass writes of an entry. -/
def Entry.outs (e : Entry) (rule : Nat) : List (Nat × Nat) :=
  [(e.w, 64 * e.blocks), (e.m, 64 * e.blocks), (e.ms, e.blocks)] ++
  (if keepsV rule then [(e.v, 64 * e.blocks), (e.vs, e.blocks)] else []) ++
  (if rule = 3 then [(e.k, kronBytes * (e.blocks / 32))] else [])

/-- The rules of R352 and R353. -/
def entryOk (raw : List Byte) (groups : List Group) (size : Nat) : Bool :=
  let e := entryOf raw
  match groups[e.grp]? with
  | none => false
  | some g =>
    (leNat (raw.take 8)) / 2 ^ 60 == 0 && (raw.drop 0x2c).all (· == 0#8) && 1 ≤ e.blocks && e.blocks ≤ 2 ^ 24 && e.gidx % 32 == 0 &&
    [e.w, e.g, e.m, e.v, e.k].all (· % 64 == 0) &&
    (keepsV g.rule || (e.v == 0 && e.vs == 0)) && (g.rule == 3 || e.k == 0) &&
    (g.rule != 3 || (e.gidx % 1024 == 0 && e.blocks % 32 == 0)) &&
    (if e.mapped then e.blocks == 32 && e.map < size else e.map == 0) &&
    ((e.g, 128 * e.blocks) :: e.outs g.rule).all fun p => p.1 + p.2 ≤ size

/-! Passes over the entries. -/

/-- A pass under way: state, cause of its stop (0 none), entry in progress, norm sums (key 0 NG, 1 + 2g UN, 2 + 2g WN), what it writes. -/
structure Run where
  s : State
  cause : Nat := 0
  entry : Nat := 0
  acc : NMap Nat := []
  outs : List (Nat × Nat) := []
  blocks : List (List OldRange) := []

/-- Adds the three terms of one parameter block (R373). -/
def addNorm (acc : NMap Nat) (grp : Nat) (g u w : List FV) : NMap Nat :=
  let put := fun (m : NMap Nat) k xs => nset m k (dadd (nget m k 0) (squares xs))
  put (put (put acc 0 g) (1 + 2 * grp) u) (2 + 2 * grp) w

def lanes16 (bs : List Byte) : List Nat := lanesOf 16 32 (leNat bs)
def lanes32 (bs : List Byte) : List Nat := lanesOf 32 32 (leNat bs)
/-- Exact FP32 codes of 32 moments (R136, R376). -/
def moments (sig scale : List Byte) : List Nat := (lanes16 sig).map fun q => fp32.rne (bs16Val (leNat scale) q)

/-- Ranges of block `j` of an entry: gradient, weights, m, and v when kept. -/
def Entry.reads (e : Entry) (rule j : Nat) : List (Nat × Nat) :=
  [(e.g + 128 * j, 128), (e.w + 64 * j, 64), (e.m + 64 * j, 64), (e.ms + j, 1)] ++
  (if keepsV rule then [(e.v + 64 * j, 64), (e.vs + j, 1)] else [])

/-- Elements of a block as read: gradient, weights (BF16), m, v. -/
structure Block32 where
  g : List Nat
  w : List Nat
  m : List Nat
  v : List Nat

def blockOfBytes (l : List (List Byte)) : Block32 :=
  let p := fun i => l.getD i []
  ⟨lanes32 (p 0), lanes16 (p 1), moments (p 2) (p 3), if l.length = 6 then moments (p 4) (p 5) else List.replicate 32 0⟩

/-- Moments stored (R377): by RNE, or by SR with the domain of the moment. -/
def storeMoment (msr : Bool) (step domain gidx : Nat) (xs : List Nat) : Nat × List Nat :=
  toBs16 .rne (if msr then some ((List.range 32).map fun i => srDraw Config.jobSeed step domain (gidx + i)) else none) xs

/-- What block `j` of an entry writes, its Kron record apart. -/
def Entry.blockOuts (e : Entry) (rule j : Nat) : List (Nat × Nat) :=
  [(e.w + 64 * j, 64), (e.m + 64 * j, 64), (e.ms + j, 1)] ++ (if keepsV rule then [(e.v + 64 * j, 64), (e.vs + j, 1)] else [])
/-- Notes what the next block of an apply pass overwrites. -/
def Run.note (r : Run) (b : BenchId) (outs : List (Nat × Nat)) : Run :=
  { r with outs := r.outs ++ outs, blocks := r.blocks ++ [outs.map fun p => r.s.oldRange b p] }

/-- Writes block `j` with its new values: direction, m, v per element (R376, R377, R379). -/
def State.writeBlock (s : State) (b : BenchId) (e : Entry) (g : Group) (x : Scal) (j : Nat) (k : Block32) (new : List (Nat × Nat × Nat)) : State :=
  let step := s.stepNo
  let base := e.gidx + 32 * j
  let ws := (new.zip k.w).zipIdx.map fun p => newWeight x p.1.1.1 p.1.2 step (base + p.2)
  let ms := new.map fun p => p.2.1
  let vs := new.map fun p => p.2.2
  let sm := storeMoment g.msr step 1 base ms
  let sv := storeMoment g.msr step 2 base vs
  let s := s.putScr b (e.w + 64 * j) (leBytes 64 (packLanes 16 ws))
  let s := (s.putScr b (e.m + 64 * j) (leBytes 64 (packLanes 16 sm.2))).putScr b (e.ms + j) (leBytes 1 sm.1)
  let s := if keepsV g.rule then (s.putScr b (e.v + 64 * j) (leBytes 64 (packLanes 16 sv.2))).putScr b (e.vs + j) (leBytes 1 sv.1) else s
  let bad := (ws.filter fun w => (bf16.dec w).isNan || (bf16.dec w).isInf).length + (ms.filter nonfin32).length +
    (if keepsV g.rule then (vs.filter nonfin32).length else 0)
  let s := if bad = 0 then s else (s.satFld (benchKey b 0x340) 63 32 bad).countBench b 0x54 none bad
  s.countBench b 0x51 none 1

/-- One block of an AdamW, Lion or Nesterov group. -/
def Run.block (r : Run) (norm : Bool) (b : BenchId) (e : Entry) (g : Group) (x : Scal) (j : Nat) : Run :=
  if r.cause != 0 then r
  else
    let q := r.s.scrAll b (e.reads g.rule j)
    if q.1 != 0 then { r with s := q.2.2, cause := q.1 }
    else
      let k := blockOfBytes q.2.1
      let new := ((k.g.zip k.m).zip k.v).map fun p => elemDir g x (fmul x.c p.1.1) p.1.2 p.2
      if norm then { r with s := q.2.2, acc := addNorm r.acc e.grp (k.g.map f32) (new.map fun p => f32 p.1) (k.w.map bf16.dec) }
      else
        let r := ({ r with s := q.2.2 } : Run).note b (e.blockOuts g.rule j)
        { r with s := r.s.writeBlock b e g x j k new }

def matBytes (x : Mat) : List Byte := (x.map fun row => leBytes 128 (packLanes 32 row)).flatten
def matOfBytes (bs : List Byte) : Mat := (List.range 32).map fun i => lanes32 ((bs.drop (128 * i)).take 128)

/-- One Kron block of 32 parameter blocks (R382 to R385). -/
def Run.kron (r : Run) (norm : Bool) (b : BenchId) (e : Entry) (g : Group) (x : Scal) (n : Nat) : Run :=
  if r.cause != 0 then r
  else
    let rows := (List.range 32).map fun i => 32 * n + i
    let o := e.k + kronBytes * n
    let rec' := (List.range 4).map fun i => (o + 4096 * i, 4096)
    let q := r.s.scrAll b ((rows.map (e.reads g.rule)).flatten ++ rec' ++ [(16384 + o, 8)])
    if q.1 != 0 then { r with s := q.2.2, cause := q.1 }
    else
      let s := q.2.2
      let ks := (List.range 32).map fun i => blockOfBytes ((q.2.1.drop (6 * i)).take 6)
      let mat := fun i => matOfBytes (q.2.1.getD (192 + i) [])
      let sing0 := (leNat (q.2.1.getD 196 [])).testBit 0
      let gp := ks.map fun k => k.g.map fun v => fmul x.c v
      let new := (ks.zip gp).map fun p => ((p.2.zip p.1.m).zip p.1.v).map fun y => elemDir g x y.1.1 y.1.2 y.2
      -- an apply pass folds the gradient in and refreshes when due
      let gl := foldGram g.b2 (mat 0) gp
      let gr := foldGram g.b2 (mat 1) ((List.range 32).map (Mat.col gp))
      let kb := e.gidx / 1024 + n
      let due := !norm && refreshDue g kb
      let roots := if due then refreshRoots g gl gr else none
      let sing := if due then roots.isNone else sing0
      let ql := (roots.map Prod.fst).getD (mat 2)
      let qr := (roots.map Prod.snd).getD (mat 3)
      let mh := new.map fun row => row.map fun p => fmul p.2.1 g.ibc1
      let u := if sing then new.map fun row => row.map fun p => p.1 else matMul (matMul ql mh) qr
      if norm then
        { r with s := s, acc := ((ks.zip u).foldl (fun acc p => addNorm acc e.grp (p.1.g.map f32) (p.2.map f32) (p.1.w.map bf16.dec)) r.acc) }
      else
        let outs := (rows.map (e.blockOuts g.rule)).flatten ++ [(o, 8192)] ++ (if roots.isSome then [(8192 + o, 8192)] else []) ++
          (if due then [(16384 + o, 8)] else [])
        let r := ({ r with s := s } : Run).note b outs
        let s := (s.putScr b o (matBytes gl)).putScr b (4096 + o) (matBytes gr)
        let s := match roots with
          | some p => (s.putScr b (8192 + o) (matBytes p.1)).putScr b (12288 + o) (matBytes p.2)
          | none => s
        let s := if due then
            let s := (s.countBench b 0x56 none 1).putScr b (16384 + o) (leBytes 8 (if sing then 1 else 0))
            if roots.isNone then (s.satFld (benchKey b 0x340) 31 0 1).countBench b 0x55 none 1 else s
          else s
        let out := (ks.zip (new.zip u)).zipIdx
        { r with s := out.foldl (fun s p => s.writeBlock b e g x (32 * n + p.2) p.1.1
            ((p.1.2.1.zip p.1.2.2).map fun y => (y.2, y.1.2.1, y.1.2.2))) s }

/-- One entry: fetched and checked (R353), skipped when frozen or inactive (R380), else its blocks (log 34). -/
def Run.doEntry (r : Run) (norm : Bool) (b : BenchId) (list : Nat) (groups : List Group) (scal : Nat → Scal) (i : Nat) : Run :=
  if r.cause != 0 then r
  else
    let q := r.s.scr b (list + 64 + 64 * i) 64
    let r := { r with s := q.2.2, entry := i, cause := q.1 }
    if r.cause != 0 then r
    else if !entryOk q.2.1 groups (2 ^ 20 * r.s.scratchMiB b) then { r with cause := 3 }
    else
      let e := entryOf q.2.1
      match groups[e.grp]? with
      | none => { r with cause := 3 }
      | some g =>
        if !g.active then { r with s := (r.s.countBench b 0x52 none e.blocks).countBench b 0x5e none e.blocks }
        else
          let m := if e.mapped then r.s.scr b e.map 1 else (0, [], r.s)
          if m.1 != 0 then { r with s := m.2.2, cause := m.1 }
          else if e.mapped && !(leNat m.2.1).testBit e.mapBit then { r with s := m.2.2.countBench b 0x52 none e.blocks }
          else
            let r := { r with s := m.2.2 }
            if g.rule = 3 then (List.range (e.blocks / 32)).foldl (fun r n => r.kron norm b e g (scal e.grp) n) r
            else (List.range e.blocks).foldl (fun r j => r.block norm b e g (scal e.grp) j) r

/-- A norm record of sums (R374). -/
def normRecord (acc : NMap Nat) : List Byte :=
  leBytes 64 (nget acc 0 0) ++ ((List.range 256).map fun g => leBytes 8 (nget acc (1 + 2 * g) 0) ++ leBytes 8 (nget acc (2 + 2 * g) 0)).flatten
def normBytes : Nat := 4160
/-- UN and WN of a group in a norm record. -/
def recUn (bs : List Byte) (g : Nat) : Nat := leNat ((bs.drop (0x40 + 16 * g)).take 8)
def recWn (bs : List Byte) (g : Nat) : Nat := leNat ((bs.drop (0x48 + 16 * g)).take 8)

/-! Starting and ending a pass (R355, R357 to R359). -/

/-- The pass that DRS_CMD names starts, once a segment: the state at its start with STATE running (log 34). -/
def State.passStart (s : State) (b : BenchId) (pass : Nat) : Option State :=
  if s.job.inStep && s.fld (benchKey b 0x300) 1 0 == pass && (s.bench b).passSeg != some s.job.segStart && (s.benchLog b).isSome &&
      !s.benchFenced b then
    let s := s.reach (s.job.segStart + 2 * s.fld (benchKey b 0x308) 25 0)
    let s := s.updBench b fun x => { x with passSeg := some s.job.segStart, pass := none }
    some (((((s.setFld (drsStatus b) 1 0 1).setFld (drsStatus b) 3 2 pass).setFld (drsStatus b) 31 16 0)).countBench b 0x50 none 1)
  else none

/-- A pass that runs on to its end, with what it writes. -/
def State.passRuns (s : State) (b : BenchId) (pass : Nat) (outs : List (Nat × Nat)) (blocks : List (List OldRange) := []) : State :=
  s.updBench b fun x => { x with
    pass := some ⟨pass, s.job.segStart + 2 * (s.fld (benchKey b 0x308) 57 32 + 1), s.stepNo, outs, blocks⟩ }

/-- Offset of the work list: the value of LIST, a byte offset of 24 bits whose low six are 0 (R386) (log 34). -/
def State.drsList (s : State) (b : BenchId) : Nat := s.fld (benchKey b 0x300) 31 8

/-- A pass stops with a fault that it detected; its output record, if it has one, is poisoned (R359). -/
def State.passFault (s : State) (b : BenchId) (cause entry : Nat) (outs : List (Nat × Nat)) : State :=
  (s.poisonOuts b outs).drsFault b cause entry

/-- A header that R351 allows: its reserved bytes 0, its three offsets below the scratch size. -/
def listHeadOk (h : List Byte) (size : Nat) : Bool :=
  (h.drop 0xc).all (· == 0#8) && [0, 4, 8].all fun o => decide (leNat ((h.drop o).take 4) < size)

/-- Step check, header and value record (R351, R361, R369): cause, header, value record (log 34). -/
def State.setup (s : State) (b : BenchId) : Nat × List Byte × List Byte × State :=
  let h := s.scr b (s.drsList b) 64
  let u := fun o => leNat ((h.2.1.drop o).take 4)
  if s.stepNo != (s.fld (benchKey b 0x310) 39 0 + 1) % 2 ^ 40 then (1, if h.1 = 0 then h.2.1 else [], [], h.2.2)
  else if h.1 != 0 then (h.1, [], [], h.2.2)
  else if !listHeadOk h.2.1 (2 ^ 20 * s.scratchMiB b) then (3, h.2.1, [], h.2.2)
  else
    let v := h.2.2.scr b (u 0) 16448
    if v.1 != 0 then (v.1, h.2.1, [], v.2.2)
    else
      let n := leNat ((v.2.1.drop 0x12).take 2)
      if n = 0 || 256 < n then (3, h.2.1, [], v.2.2) else (0, h.2.1, v.2.1, v.2.2)

def groupsOf (val : List Byte) : List Group :=
  (List.range (leNat ((val.drop 0x12).take 2))).map fun g => groupOf ((val.drop (0x40 + 64 * g)).take 64)

/-- The norm pass (R373, R374). -/
def State.normPass (s : State) (b : BenchId) : State :=
  let t := s.setup b
  let out := [(leNat ((t.2.1.drop 8).take 4), normBytes)]
  let outs := if t.2.1.isEmpty then [] else out
  let s := t.2.2.2
  let s := s.updBench b fun x => { x with normOut := outs.head?.map fun p => (s.stepNo, p.1) }
  if t.1 != 0 then s.passFault b t.1 0 outs
  else
    let gs := groupsOf t.2.2.1
    -- the record must lie in scratch as a whole (R351)
    if gs.any (fun g => 3 < g.rule) || 2 ^ 20 * s.scratchMiB b < (out.map fun p => p.1 + p.2).headD 0 then s.passFault b 3 0 outs
    else
      let sc := gs.map fun g => scalOf g kOne kOne
      let r := (List.range (s.fld (benchKey b 0x300) 47 32)).foldl
        (fun (r : Run) i => r.doEntry true b (s.drsList b) gs (fun g => sc.getD g ⟨0, 0, 0, 0, 0⟩) i) { s := s }
      let s := r.s.setFld (drsStatus b) 31 16 r.entry
      if r.cause != 0 then s.passFault b r.cause r.entry outs
      else (s.putScr b (leNat ((t.2.1.drop 8).take 4)) (normRecord r.acc)).passRuns b 1 out

/-- The apply pass (R375 to R379): every block of every trainable entry in order, or, when the gradient norm is not finite, the skipped pass
of R378, which writes nothing, sets NFSKIP and reports the event. From its start on the step needs a restore to run again (R360). -/
def State.applyPass (s : State) (b : BenchId) : State :=
  let s := { s with job := { s.job with applyStarted := true, lastApply := some s.stepNo } }
  let t := s.setup b
  let s := t.2.2.2
  if t.1 != 0 then s.passFault b t.1 0 []
  else
    let gs := groupsOf t.2.2.1
    let n := s.scr b (leNat ((t.2.1.drop 4).take 4)) normBytes
    let s := n.2.2
    if gs.any fun g => 3 < g.rule then s.passFault b 3 0 []
    else if n.1 != 0 then s.passFault b n.1 0 []
    else
      let ng := leNat (n.2.1.take 8)
      let tau := leNat (t.2.2.1.take 4)
      if ngSkips ng then
        (((s.setFld (drsStatus b) 4 4 1).countBench b 0x53 none 1).say .nonFiniteStep [s.tab.pos, b.die, b.bench, s.stepNo]).passRuns b 2 []
      else
        let s := s.setFld (drsStatus b) 4 4 0
        let c := clipOf ng tau
        let sc := gs.zipIdx.map fun p => scalOf p.1 c (trustOf p.1 (recUn n.2.1 p.2) (recWn n.2.1 p.2))
        let r := (List.range (s.fld (benchKey b 0x300) 47 32)).foldl
          (fun (r : Run) i => r.doEntry false b (s.drsList b) gs (fun g => sc.getD g ⟨0, 0, 0, 0, 0⟩) i) { s := s }
        let s := r.s.setFld (drsStatus b) 31 16 r.entry
        if r.cause != 0 then s.passFault b r.cause r.entry [] else s.passRuns b 2 r.outs r.blocks

/-! The schedule pass and its banks. -/

def bankBytes : Nat := 278592
/-- ACTIVE, HELD and HELD_BANK (R370) (log 34). -/
def State.activeBank (s : State) : Nat := match s.job.cur with | some d => d.bank.toNat | none => 0
def State.heldBank (s : State) : Option Nat := s.job.next.map fun d => d.bank.toNat
def State.bankOff (s : State) (b : BenchId) (bank : Nat) : Nat := s.fld (benchKey b 0x318) 31 8 + bankBytes * bank

/-- Reads and evaluates the groups of a bank in order: cause and the entries of the value record. -/
def State.evalGroups (s : State) (b : BenchId) (base : Nat) : List Nat → Nat × List (List Byte) × State
  | [] => (0, [], s)
  | g :: gs =>
    let r := s.scr b (base + 0x40 + 64 * g) 64
    if r.1 != 0 then (r.1, [], r.2.2)
    else if !groupOk r.2.1 then (4, [], r.2.2)
    else
      let n := leNat ((r.2.1.drop 1).take 1)
      let k := r.2.2.scr b (0x4040 + base + 1024 * g) (16 * n)
      if k.1 != 0 then (k.1, [], k.2.2)
      else
        let ks := (List.range n).map fun j => knotOf (leNat ((k.2.1.drop (16 * j)).take 16))
        if !knotsOk ks then (4, [], k.2.2)
        else
          let t := State.evalGroups k.2.2 b base gs
          (t.1, valueEntry s.stepNo r.2.1 ks :: t.2.1, t.2.2)

/-- The schedule pass (R368, R369). It refuses with cause 4 a bank that is loading or that a load left invalid (R372, R318). -/
def State.schedPass (s : State) (b : BenchId) : State :=
  let h := s.scr b (s.drsList b) 64
  let s := h.2.2
  let val := leNat (h.2.1.take 4)
  let out := [(val, 16448)]
  if h.1 != 0 then s.passFault b h.1 0 []
  else if !listHeadOk h.2.1 (2 ^ 20 * s.scratchMiB b) || 2 ^ 20 * s.scratchMiB b < 16448 + val then s.passFault b 3 0 out
  else
    let bank := s.activeBank
    let x := s.bench b
    if x.schedLoad.any (fun l => l.1 == bank) || x.schedBad.contains bank || 2 ^ 20 * s.scratchMiB b < bankBytes + s.bankOff b bank then
      s.passFault b 4 0 out
    else
      let base := s.bankOff b bank
      let r := s.scr b base 64
      let n := leNat ((r.2.1.drop 4).take 2)
      if r.1 != 0 then r.2.2.passFault b r.1 0 out
      else if n = 0 || 256 < n then r.2.2.passFault b 4 0 out
      else
        let t := r.2.2.evalGroups b base (List.range n)
        if t.1 != 0 then t.2.2.passFault b t.1 0 out
        else
          let head := r.2.1.take 4 ++ leBytes 4 0 ++ leBytes 8 (s.stepNo % 2 ^ 40) ++ leBytes 2 bank ++ leBytes 2 n ++ leBytes 44 0
          (t.2.2.putScr b val (head ++ t.2.1.flatten ++ leBytes (64 * (256 - n)) 0)).passRuns b 3 out

/-- The DEADLINE cycle has ended with the pass running (R357) (log 34). -/
def State.passLate (s : State) (b : BenchId) (p : PassRec) : State :=
  ((s.updBench b fun x => { x with pass := none }).poisonOuts b p.outs).drsFault b 5 (s.fld (drsStatus b) 31 16)

/-- A write of the pass meets a row that has left scratch: it is dropped and its destination poisoned (R318). A norm or schedule pass has
then written no record; an apply pass stops at that block, and its later blocks are not touched (R359). -/
def State.passDropped (s : State) (b : BenchId) (p : PassRec) : State :=
  let fits := fun (r : OldRange) => decide (r.off + r.bytes.length ≤ 2 ^ 20 * s.scratchMiB b)
  let s := if p.pass = 2 then
      let late := (p.blocks.dropWhile fun x => x.all fits).reverse
      let s := ((late.take (late.length - 1)).flatten).foldl (fun s r => s.putBack b r) s
      s.poisonOuts b ((late.getLastD []).map fun r => (r.off, r.bytes.length))
    else s.poisonOuts b p.outs
  s.drsFault b 6 (s.fld (drsStatus b) 31 16)

/-- The pass ends with its last write (R357, R362); a write that its scratch no longer takes is dropped (R318) (log 34). -/
def State.passEnd (s : State) (b : BenchId) : State :=
  match (s.bench b).pass with
  | none => s
  | some p =>
    if p.deadline ≤ s.now then s.passLate b p
    else
      let s := s.updBench b fun x => { x with pass := none }
      if p.outs.any fun o => 2 ^ 20 * s.scratchMiB b < o.1 + o.2 then s.passDropped b p
      else
        let s := s.setFld (drsStatus b) 1 0 2
        if p.pass = 2 then s.setFld (benchKey b 0x310) 39 0 p.step else s

/-- Software writes DRS_STEP (R363): discarded while RUNNING. -/
def State.wDrsStep (s : State) (b : BenchId) (v : Word64) : Bool × State :=
  if s.tabState = tabRunning then (true, s) else (false, s.setFld (benchKey b 0x310) 39 0 (bitsOf v.toNat 39 0))

/-- The management controller resets DRS_STEP.LAST of every dresser bench for the rerun of step `n` (R364). -/
def State.drsStepReset (s : State) (n : Nat) : State :=
  if s.jobRuns then s.liveBenches.foldl (fun s b => s.setFld (benchKey b.1 0x310) 39 0 ((2 ^ 40 + n - 1) % 2 ^ 40)) s else s

/-- The physical pages of a bank's source: none when one fails translation or is not LPDDR6. The dresser has no translation cache (R311). -/
def State.bankSource (s : State) (src : Nat) : Option (List (Nat × Nat)) × State :=
  (pageParts (bankBytes / 4096 + 2) src bankBytes).foldl (fun (acc : Option (List (Nat × Nat)) × State) p =>
    let t := acc.2.translateBare p.1 false
    (match acc.1, t.1 with
      | some l, .ok a => (match placeOf a with | .lpddr _ _ => some (l ++ [(a, p.2)]) | _ => none)
      | _, _ => none, t.2)) (some [], s)

/-- A write of DRS_SCHED_CTL (R371). -/
def State.wSchedCtl (s : State) (b : BenchId) (v : Word64) : State :=
  let k := benchKey b 0x328
  let bank := v.toNat % 2
  let src := s.fld (benchKey b 0x320) 47 0
  if !v.getLsbD 1 then s
  else if bank = s.activeBank || s.heldBank == some bank then s.setFld k 4 3 2
  else if (s.bench b).schedLoad.isSome || src % 64 != 0 || 2 ^ 20 * s.scratchMiB b < bankBytes + s.bankOff b bank then s.setFld k 4 3 3
  else
    let r := s.bankSource src
    if r.1.isNone then r.2.setFld k 4 3 3
    else ((r.2.setFld k 2 2 1).setFld k 4 3 0).updBench b fun x => { x with schedLoad := some (bank, src, false) }

/-- The load ends (R371): done, or 3 when a write was lost (R318). -/
def State.schedDone (s : State) (b : BenchId) : State :=
  match (s.bench b).schedLoad with
  | none => s
  | some (bank, src, lost) =>
    let k := benchKey b 0x328
    let r := s.bankSource src
    let lost := lost || decide (2 ^ 20 * s.scratchMiB b < bankBytes + s.bankOff b bank) || r.1.isNone
    let dst := scratchKey b (s.bankOff b bank)
    let s := if lost then r.2
      else (((r.1.getD []).map fun p => (List.range (p.2 / 32)).map fun i => p.1 + 32 * i).flatten.foldl (fun (acc : Nat × State) a =>
        -- poison travels by the source's codeword (R610)
        let d := acc.2.loadAt a 32
        let w := d.2.2.store acc.1 d.1 d.2.1
        (acc.1 + 32, if w.1 then w.2.poisonRange acc.1 32 else w.2)) (dst, r.2)).2
    let s := ((s.setFld k 2 2 0).setFld k 4 3 (if lost then 3 else 1)).setFld k 5 5 bank
    s.updBench b fun x => { x with
      schedLoad := none, schedBad := if lost then sinsert x.schedBad bank else serase x.schedBad bank }

/-! Meanings. -/

def execDresserNorm (b : BenchId) (s : State) : Out :=
  .next (match s.passStart b 1 with | some t => t.normPass b | none => s)
def execDresserApply (b : BenchId) (s : State) : Out :=
  .next (match s.passStart b 2 with | some t => t.applyPass b | none => s)
def execDresserSched (b : BenchId) (s : State) : Out :=
  .next (match s.passStart b 3 with | some t => t.schedPass b | none => s)
def execDresserPassEnd (b : BenchId) (s : State) : Out := .next (s.passEnd b)
/-- The end of the DEADLINE fabric cycle with a pass that has not ended (R357). -/
def execDresserPassDeadline (b : BenchId) (s : State) : Out :=
  .next (match (s.bench b).pass with
    | some p => (s.reach p.deadline).passLate b p
    | none => s)
def execDrsStepWrite (o : Origin) (b : BenchId) (v : Word64) (s : State) : Out :=
  .next (s.originWrite o (keyAddr (benchKey b 0x310)) fun s => s.wDrsStep b v)
def execDrsStepReset (n : BitVec 40) (s : State) : Out := .next (s.drsStepReset n.toNat)
def execSchedBankLoad (o : Origin) (b : BenchId) (v : Word64) (s : State) : Out :=
  .next (s.originWrite o (keyAddr (benchKey b 0x328)) fun s => (false, s.wSchedCtl b v))
def execSchedBankLoadDone (b : BenchId) (s : State) : Out := .next (s.schedDone b)

end Sys2Proof.Machine
end

