-- ==== Sys2Proof/Machine/Reduction.lean ====
section
/-!
DEFINITION. Gradient reduction, norm records, parameter distribution (R388 to R411) and transfer digests (R412 to R416, R419).
-/
namespace Sys2Proof.Machine

/-! The tree (R403, R404). -/

def powBelow : Nat → Nat → Nat → Nat
  | 0, l, _ => l
  | f + 1, l, n => if 2 * l < n then powBelow f (2 * l) n else l
def splitMid (lo hi : Nat) : Nat := lo + powBelow 64 1 (hi - lo)

/-- Nodes (lo, mid, hi) that leaf `l` hosts, from its leaf up. -/
def hosted : Nat → Nat → Nat → Nat → List (Nat × Nat × Nat)
  | 0, _, _, _ => []
  | f + 1, lo, hi, l =>
    if hi < lo + 2 then []
    else
      let mid := splitMid lo hi
      if l = lo then hosted f lo mid l ++ [(lo, mid, hi)]
      else if l < mid then hosted f lo mid l
      else hosted f mid hi l
def hostedBy (n l : Nat) : List (Nat × Nat × Nat) := hosted (n + 1) 0 n l

/-- The leaf that hosts the parent of the node that begins at leaf `l` as a right child. -/
def parentGo : Nat → Nat → Nat → Nat → Option Nat
  | 0, _, _, _ => none
  | f + 1, lo, hi, l =>
    if hi < lo + 2 then none
    else
      let mid := splitMid lo hi
      if l = mid then some lo else if l < mid then parentGo f lo mid l else parentGo f mid hi l
def parentLeaf (n l : Nat) : Option Nat := parentGo (n + 1) 0 n l

/-! Folding and selection (R395 to R397). -/

/-- Selection key of an FP32 value. -/
def selKey (x : Nat) : Nat := if (f32 x).isNan then 0x7fc00000 else x % 2 ^ 31

/-- The largest bin from which the counts reach `need`, and what stands above it. -/
def scanBins (hist : List Nat) (need : Nat) : Nat → Nat → Nat × Nat
  | 0, acc => (0, acc)
  | b + 1, acc => if acc + hist.getD (b + 1) 0 < need then scanBins hist need b (acc + hist.getD (b + 1) 0) else (b + 1, acc)

/-- One radix pass over key bits `[hi:lo]`: the prefix and the count still needed. -/
def radixPass (keys : List Nat) (p : Nat × Nat) (hi lo : Nat) : Nat × Nat :=
  let w := hi + 1 - lo
  let mine := keys.filter fun k => k >>> (hi + 1) == p.1
  let hist := mine.foldl (fun h k => let d := bitsOf k hi lo; lset h d (h.getD d 0 + 1)) (List.replicate (2 ^ w) 0)
  let r := scanBins hist p.2 (2 ^ w - 1) 0
  (p.1 * 2 ^ w + r.1, p.2 - r.2)

/-- Threshold key and the count of elements of that key to take. -/
def threshold (keys : List Nat) (k : Nat) : Nat × Nat :=
  radixPass keys (radixPass keys (radixPass keys (0, k) 30 20) 19 10) 9 0

/-- Exact top-k selection: ascending index, lower indexes first among ties. -/
def selectGo (t : Nat) : Nat → List Nat → List Bool
  | _, [] => []
  | need, x :: xs =>
    if t < x then true :: selectGo t need xs
    else if x = t && 0 < need then true :: selectGo t (need - 1) xs
    else false :: selectGo t need xs
def select (xs : List Nat) (n : Nat) : List Bool :=
  let keys := xs.map selKey
  let r := threshold keys (xs.length >>> n)
  selectGo r.1 r.2 keys

/-! Values at a node (R401, R405). -/

/-- Is the value of a node of `c` leaves sparse? (log 35) -/
def isSparse (thin elems c : Nat) : Bool := thin != 0 && 2 * c * (elems >>> thin) < elems

/-- Entries expanded to every element. -/
def expand (elems : Nat) (es : List (Nat × Nat)) : List (Nat × Nat) :=
  (nover 0 (fun v _ => v) es ((List.range elems).map fun i => (i, 0)))

/-- Merge of two ascending entry lists, left operand first. -/
def mergeEntries : Nat → List (Nat × Nat) → List (Nat × Nat) → List (Nat × Nat)
  | 0, _, _ => []
  | _ + 1, [], bs => bs
  | _ + 1, as, [] => as
  | f + 1, (i, v) :: as, (j, w) :: bs =>
    if i < j then (i, v) :: mergeEntries f as ((j, w) :: bs)
    else if j < i then (j, w) :: mergeEntries f ((i, v) :: as) bs
    else (i, fadd v w) :: mergeEntries f as bs

/-- Combines two children, in the form R401 gives the node. -/
def combine (thin elems : Nat) (a b : RedVal) : RedVal :=
  let es := mergeEntries (a.elems.length + b.elems.length + 1) a.elems b.elems
  let sp := isSparse thin elems (b.hi - a.lo)
  ⟨a.bucket, a.lo, b.hi, sp, if sp || (!a.sparse || !b.sparse) then es else expand elems es, a.poison || b.poison⟩

/-! Buckets (R388, R389). -/

/-- A bucket as this module sees it: record, placement, job positions by leaf, its own leaf. -/
structure MyBucket where
  g : GBucket
  p : BPlace
  leaves : List Nat
  leaf : Nat

def State.myBucket (s : State) (bucket : Nat) : Option MyBucket :=
  match (gbucketsOf s.theTab).find? fun g => g.bucket == bucket, s.myPlaces.find? fun p => p.bucket == bucket with
  | some g, some p =>
    let grp := redGroup s.theTab g.group
    let n := grp.length
    let leaves := (List.range n).map fun l => grp.getD ((l + g.owner) % n) 0
    (leaves.findIdx? fun x => x == s.tab.pos).map fun l => ⟨g, p, leaves, l⟩
  | _, _ => none

def State.thinNow (s : State) : Nat := match s.job.cur with | some d => d.thin.toNat | none => 0
/-- THIN that acts on a bucket (R393). -/
def State.thinOf (s : State) (m : MyBucket) : Nat := if m.g.thinnable then s.thinNow else 0

/-- Header of a message (R399). -/
def msgHead (step kind thin bucket count : Nat) : List Byte :=
  leBytes 8 (step % 2 ^ 40 + 2 ^ 40 * kind + 2 ^ 44 * thin) ++ leBytes 4 bucket ++ leBytes 4 count ++ leBytes 16 0

/-- Body of a sparse message. -/
def sparseBody : Nat → List (Nat × Nat) → List Byte
  | _, [] => []
  | prev, (i, v) :: r => leBytes 8 (v + 2 ^ 32 * (i + 1 - prev)) ++ sparseBody (i + 1) r

/-- The message is placed where its outbound link entry takes it from, when it leaves by one (R435) (log 35). -/
def State.placeMsg (s : State) (out : Option (BitVec 24)) (poison : Bool) (bytes : List Byte) : State :=
  match out.bind fun i => s.myLinks[i.toNat]? with
  | some e => if e.dir = 0 then s.storeLong e.loc (bytes.take e.bytes) poison else s
  | none => s
/-- A message leaves for a job position; a poisoned value travels as poisoned. -/
def State.sendMsg (s : State) (kind : MsgKind) (dest : Nat) (out : Option (BitVec 24)) (poison : Bool) (bytes : List Byte) : State :=
  (s.placeMsg out poison bytes).say kind ([dest, poison.toNat] ++ bytes.map BitVec.toNat)

/-- What a receiver reads of a message at its deadline: bytes, and whether it is late or poisoned, so that nothing in it is used (R52, R54, R402).
A landed one is read from its entry's place in the deadline cycle of the entry (R406) (log 35). -/
def State.takeMsg (s : State) (msg : MsgIn) : List Byte × Bool × Bool × State :=
  match msg with
  | .bytes bs late poison => (bs, late, poison, s)
  | .landed i => match s.myLinks[i.toNat]? with
    | some e =>
      let late := decide (s.landedBytes i.toNat < e.bytes)
      let s := s.reach (s.entryDue e)
      let s := if late then { s with job := { s.job with lateIn := i.toNat :: s.job.lateIn } } else s
      let r := s.loadLong e.loc e.bytes
      (r.1, late, r.2.1, r.2.2)
    | none => ([], true, false, s)
/-- Can the message come: is its entry an inbound one of the segment (R435)? -/
def State.msgComes (s : State) (msg : MsgIn) : Bool :=
  match msg with
  | .bytes _ _ _ => true
  | .landed i => s.myLinks[i.toNat]?.any fun e => e.dir == 1 && e.vc == 0 && e.seg == s.job.seg && !s.haulEntry i.toNat

/-! The dressers' places of a bucket (R350, R407, R410). -/

/-- Work-list entries of the live benches' norm and apply passes: bench and entry (log 35). -/
def State.workEntries (s : State) (pass : Nat → Bool) : List (BenchId × Entry) :=
  (s.liveBenches.map fun b =>
    let cmds := ((List.range (hdrSegments s.theTab)).filterMap fun k => benchImage s.theTab s.tab.pos s.tab.variant k b.2.1 b.2.2 4).eraseDups
    ((cmds.filter fun v => pass (v % 4)).map fun v =>
      (List.range (bitsOf v 47 32)).map fun i => (b.1, entryOf (s.peek (scratchKey b.1 (bitsOf v 31 8 + 64 + 64 * i)) 64))).flatten).flatten

/-- Parks the root's value at the G_OFF places of its parameters (R407) (log 35). -/
def State.park (s : State) (m : MyBucket) (v : RedVal) : State :=
  let es := expand m.g.elems v.elems
  let at' := fun i => (es.getD i (0, 0)).2
  ((s.workEntries fun p => p == 1 || p == 2).eraseDups).foldl (fun s be =>
    let e := be.2
    (List.range e.blocks).foldl (fun s j =>
      let x := e.gidx + 32 * j
      if m.g.gbase ≤ x && x + 32 ≤ m.g.gbase + m.g.elems then
        let k := scratchKey be.1 (e.g + 128 * j)
        if v.poison then s.poisonRange k 128
        else s.putScr be.1 (e.g + 128 * j) (leBytes 128 (packLanes 32 ((List.range 32).map fun i => at' (x - m.g.gbase + i))))
      else s) s) s

/-! Reduction (R392, R395 to R407). -/

/-- The first reduction fault of a segment is recorded; each is reported (R402, R417). -/
def State.redFault (s : State) (b : BenchId) (cause bucket src : Nat) : State :=
  let s := s.countBench b 0x5c none 1
  let s := if (s.bench b).redFaulted then s
    else ((s.setReg (benchKey b 0x230) (faultWord (cause + 8) s.stepNo)).setReg (benchKey b 0x238)
      (BitVec.ofNat 64 (bucket % 2 ^ 32 + 2 ^ 32 * (src % 2 ^ 12)))).updBench b fun x => { x with redFaulted := true }
  s.benchDeadline b

/-- What the module's finished value of a bucket becomes: the root is parked, any other goes to its parent's host. -/
def State.redDone (s : State) (b : BenchId) (m : MyBucket) (out : List (BitVec 24)) (v : RedVal) : State :=
  match parentLeaf m.leaves.length m.leaf with
  | none => s.park m v
  | some l =>
    let body := if v.sparse then sparseBody 0 v.elems else (v.elems.map fun e => leBytes 4 e.2).flatten
    let head := msgHead s.stepNo (if v.sparse then 1 else 0) s.thinNow m.g.bucket (if v.sparse then v.elems.length else m.g.elems)
    let s := if v.sparse then s.countBench b 0x5f none 1 else s
    s.sendMsg .redMessage (m.leaves.getD l 0) out.head? v.poison (head ++ body)

/-- Combines the module's value with the children that have landed, node by node (R405). -/
def State.redAdvance (s : State) (b : BenchId) (m : MyBucket) (out : List (BitVec 24)) : List (Nat × Nat × Nat) → State
  | [] => match (s.bench b).nodes.find? fun v => v.bucket == m.g.bucket && v.lo == m.leaf with
    | some v =>
      let s := s.updBench b fun x => { x with nodes := x.nodes.filter fun y => !(y.bucket == m.g.bucket && y.lo == m.leaf) }
      s.redDone b m out v
    | none => s
  | (lo, mid, hi) :: ns =>
    let own := (s.bench b).nodes.find? fun v => v.bucket == m.g.bucket && v.lo == lo
    let kid := (s.bench b).nodes.find? fun v => v.bucket == m.g.bucket && v.lo == mid
    match own, kid with
    | some a, some c =>
      if a.hi = mid then
        let v := combine (s.thinOf m) m.g.elems a c
        let s := s.updBench b fun x => { x with nodes := v :: (x.nodes.filter fun y => !(y.bucket == m.g.bucket && (y.lo == lo || y.lo == mid))) }
        (s.countBench b 0x59 none 1).redAdvance b m out ns
      else if a.hi = hi then s.redAdvance b m out ns else s
    | some a, none => if hi ≤ a.hi then s.redAdvance b m out ns else s
    | none, _ => s

/-- A bucket starts: folding, selection, and the module's leaf (R392, R395, R396). -/
def State.redStart (s : State) (b : BenchId) (m : MyBucket) (out : List (BitVec 24)) : State :=
  let s := s.reach (s.job.segStart + 2 * m.g.start)
  let e := m.g.elems
  let n := s.stepNo
  let thin := s.thinOf m
  let g := s.loadLong m.p.base (4 * e)
  let gs := lanesOf 32 e (leNat g.1)
  let put := fun (s : State) (xs : List (Nat × Nat)) (poison : Bool) =>
    s.updBench b fun x => { x with nodes := ⟨m.g.bucket, m.leaf, m.leaf + 1, isSparse thin e 1, xs, poison⟩ ::
      (x.nodes.filter fun v => !(v.bucket == m.g.bucket && v.lo == m.leaf)) }
  let s :=
    if !m.g.thinnable then put g.2.2 (gs.zipIdx.map fun p => (p.2, p.1)) g.2.1
    else
      let bank := fun i => if i = 0 then m.p.stock0 else m.p.stock1
      let r := g.2.2.loadLong (bank ((n + 1) % 2)) (4 * e)
      let bad := g.2.1 || r.2.1
      let xs := (gs.zip (lanesOf 32 e (leNat r.1))).map fun p => fadd p.1 p.2
      if thin = 0 then
        put (r.2.2.storeLong (bank (n % 2)) (List.replicate (4 * e) 0) bad) (xs.zipIdx.map fun p => (p.2, p.1)) bad
      else
        let sel := select xs thin
        let both := (xs.zip sel).zipIdx
        let kept := both.map fun p => if p.1.2 then 0 else p.1.1
        let sent := both.filterMap fun p => if p.1.2 then some (p.2, p.1.1) else none
        let t := (threshold (xs.map selKey) (e >>> thin)).2
        let s := r.2.2.storeLong (bank (n % 2)) (kept.map (leBytes 4)).flatten bad
        let s := ((s.countBench b 0x5a none sent.length).countBench b 0x5b none t).countBench b 0x5d none (kept.filter fun v => v != 0).length
        put s (if isSparse thin e 1 then sent else expand e sent) bad
  s.redAdvance b m out (hostedBy m.leaves.length m.leaf)

/-- Entries of a sparse body: index and value, in order; none for a DELTA of 0 or an index at or above E (R402). -/
def sparseRead (elems : Nat) : Nat → List Byte → Nat → Option (List (Nat × Nat))
  | 0, _, _ => some []
  | f + 1, bs, prev =>
    let w := leNat (bs.take 8)
    let d := bitsOf w 56 32
    let i := prev + d
    -- `prev` is the index before plus one
    if d = 0 || elems < i then none
    else (sparseRead elems f (bs.drop 8) i).map fun r => (i - 1, w % 2 ^ 32) :: r

/-- Are the reserved bits of a message clear? (log 35) -/
def msgReserved (msg : List Byte) (sparse : Bool) (count : Nat) : Bool :=
  bitsOf (leNat (msg.take 8)) 63 48 == 0 && ((msg.drop 16).take 16).all (· == 0#8) &&
  (!sparse || (List.range count).all fun i => bitsOf (leNat ((msg.drop (32 + 8 * i)).take 8)) 63 57 == 0)

/-- The checks of R402 on a message of a slot: 0, or the lowest cause of R417 (log 35). -/
def msgCheck (msg : List Byte) (step kind thin bucket limit elems : Nat) : Nat :=
  let w := leNat (msg.take 8)
  let count := leNat ((msg.drop 12).take 4)
  let sparse := kind == 1
  let body := if sparse then 8 * count else if kind = 0 then 4 * elems else if kind = 2 then 2 * elems else normBytes
  if bitsOf w 39 0 != step % 2 ^ 40 || bitsOf w 43 40 != kind || bitsOf w 47 44 != thin || leNat ((msg.drop 8).take 4) != bucket ||
      (count ≤ limit && msg.length < 32 + body) then 1
  else if limit < count then 2
  else if sparse && (sparseRead elems count (msg.drop 32) 0).isNone then 3
  else if !msgReserved msg sparse count then 4
  else 0

/-- A message is read at the bench of the node whose right child the sender hosts (R402, R404, R406). One that is late or poisoned makes the
node's value poisoned, and its content is not judged; the bench reports a late one (R52, R54) (log 35). -/
def State.redMessage (s : State) (b : BenchId) (m : MyBucket) (src : Nat) (inp : MsgIn) (out : List (BitVec 24)) : State :=
  match (hostedBy m.leaves.length m.leaf).find? fun n => m.leaves.getD n.2.1 4096 == src with
  | none => s
  | some (_, mid, hi) =>
    let e := m.g.elems
    let thin := s.thinOf m
    let sp := isSparse thin e (hi - mid)
    let limit := if sp then (hi - mid) * (e >>> thin) else e
    let (msg, late, poison, s) := s.takeMsg inp
    let c := if late || poison then 0 else msgCheck msg s.stepNo (if sp then 1 else 0) s.thinNow m.g.bucket limit e
    let bad := late || poison || c != 0
    let s := s.countBench b 0x58 none 1
    let s := if late then s.benchDeadline b else if c = 0 then s else s.redFault b c m.g.bucket src
    let es := if bad then [] else if sp then (sparseRead e (leNat ((msg.drop 12).take 4)) (msg.drop 32) 0).getD []
      else ((lanesOf 32 e (leNat (msg.drop 32))).zipIdx.map fun p => (p.2, p.1))
    let v : RedVal := ⟨m.g.bucket, mid, hi, sp, if bad && !sp then expand e [] else es, bad⟩
    let s := s.updBench b fun x => { x with nodes := v :: (x.nodes.filter fun y => !(y.bucket == m.g.bucket && y.lo == mid)) }
    s.redAdvance b m out (hostedBy m.leaves.length m.leaf)

/-- Is the bench the reduction bench of the bucket's placement? -/
def State.redBench (s : State) (b : BenchId) (m : MyBucket) : Bool := s.benchAt m.p.die m.p.bench == some b

/-! Norm records (R408, R409). -/

/-- The 513 sums of a record: NG, then UN and WN of each group. -/
def normVals (bs : List Byte) : List Nat :=
  leNat (bs.take 8) :: ((List.range 256).map fun g => [recUn bs g, recWn bs g]).flatten
def normOfVals (v : List Nat) : List Byte := normRecord (v.zipIdx.map fun p => (p.2, p.1))
def addVals (a b : List Nat) : List Nat := (a.zip b).map fun p => dadd p.1 p.2

/-- Folds leaves `lo` to `hi - 1` over the layout of R403. -/
def treeRecords (leaves : List (List Nat × Bool)) : Nat → Nat → Nat → List Nat × Bool
  | 0, _, _ => ([], false)
  | f + 1, lo, hi =>
    if hi < lo + 2 then leaves.getD lo ([], false)
    else
      let mid := splitMid lo hi
      let a := treeRecords leaves f lo mid
      let b := treeRecords leaves f mid hi
      (addVals a.1 b.1, a.2 || b.2)

/-- The module's record: the benches that ran the norm pass of the step, in ascending logical die, then bench; +0 when none did (R409) (log 55). -/
def State.moduleNorm (s : State) : List Nat × Bool × State :=
  let ran := s.liveBenches.filterMap fun b => match (s.bench b.1).normOut with
    | some (n, off) => if n = s.stepNo then some (b.2.1 * 256 + b.2.2, b.1, off) else none
    | none => none
  let ran := ran.mergeSort fun a b => a.1 ≤ b.1
  let r := ran.foldl (fun (acc : List (List Nat × Bool) × State) b =>
    let t := acc.2.load (scratchKey b.2.1 b.2.2) normBytes
    (acc.1 ++ [(normVals t.1, t.2.1)], t.2.2)) ([], s)
  if ran.isEmpty then (List.replicate 513 0, false, s)
  else
    let v := treeRecords r.1 (r.1.length + 1) 0 r.1.length
    (v.1, v.2, r.2)

/-- Benches with an apply pass and their NIN_OFF places. -/
def State.ninPlaces (s : State) : List (BenchId × Nat) :=
  (s.liveBenches.map fun b =>
    let cmds := ((List.range (hdrSegments s.theTab)).filterMap fun k => benchImage s.theTab s.tab.pos s.tab.variant k b.2.1 b.2.2 4).eraseDups
    (cmds.filter fun v => v % 4 == 2).map fun v => (b.1, s.peekNat (scratchKey b.1 (bitsOf v 31 8 + 4)) 4)).flatten

/-- The global record goes to every NIN_OFF and to the children of the nodes this module hosts (R409) (log 55). -/
def State.normGlobal (s : State) (out : List (BitVec 24)) (v : List Nat) (poison : Bool) : State :=
  let bytes := normOfVals v
  let s := s.ninPlaces.foldl (fun s p => if poison then s.poisonRange (scratchKey p.1 p.2) normBytes else s.putScr p.1 p.2 bytes) s
  let n := hdrModules s.theTab
  ((hostedBy n s.tab.pos).reverse.zipIdx).foldl (fun s x =>
    s.sendMsg .normMessage x.1.2.1 out[x.2]? poison (msgHead s.stepNo 3 s.thinNow 0xffffffff 0 ++ bytes)) s

/-- Combines records that have arrived up this module's nodes (log 55). -/
def State.normAdvance (s : State) (out : List (BitVec 24)) : List (Nat × Nat × Nat) → State
  | [] => match s.job.normNodes.find? fun v => v.1 == s.tab.pos with
    | some v =>
      let s := { s with job := { s.job with normNodes := s.job.normNodes.filter fun y => y.1 != s.tab.pos } }
      match parentLeaf (hdrModules s.theTab) s.tab.pos with
      | none => s.normGlobal out v.2.2.1 v.2.2.2
      | some l => s.sendMsg .normMessage l out.head? v.2.2.2 (msgHead s.stepNo 3 s.thinNow 0xffffffff 0 ++ normOfVals v.2.2.1)
    | none => s
  | (lo, mid, hi) :: ns =>
    let own := s.job.normNodes.find? fun v => v.1 == lo
    let kid := s.job.normNodes.find? fun v => v.1 == mid
    match own, kid with
    | some a, some c =>
      if a.2.1 = mid then
        let v := (lo, hi, addVals a.2.2.1 c.2.2.1, a.2.2.2 || c.2.2.2)
        let s := { s with job := { s.job with normNodes := v :: (s.job.normNodes.filter fun y => y.1 != lo && y.1 != mid) } }
        s.normAdvance out ns
      else if a.2.1 = hi then s.normAdvance out ns else s
    | some a, none => if hi ≤ a.2.1 then s.normAdvance out ns else s
    | none, _ => s

/-- The bench that checks norm messages: the first that ran the norm pass, else the first of the module (log 16). -/
def State.normBench (s : State) : Option BenchId :=
  match s.liveBenches.find? fun b => (s.bench b.1).normOut.isSome with
  | some b => some b.1
  | none => s.liveBenches.head?.map fun b => b.1

/-- A norm record: the module's own (`src` is its position), one from below, or the global one from above; late and poisoned ones as in
`redMessage`. -/
def State.normMessage (s : State) (src : Nat) (down : Bool) (inp : MsgIn) (out : List (BitVec 24)) : State :=
  let n := hdrModules s.theTab
  let me := s.tab.pos
  let nodes := hostedBy n me
  if !s.job.inStep then s
  else if src = me && !down then
    let r := s.moduleNorm
    let s := { r.2.2 with job := { r.2.2.job with normNodes := (me, me + 1, r.1, r.2.1) :: (r.2.2.job.normNodes.filter fun y => y.1 != me) } }
    s.normAdvance out nodes
  else
    let (msg, late, poison, t) := s.takeMsg inp
    let c := if late || poison then 0 else msgCheck msg s.stepNo 3 s.thinNow 0xffffffff 0 0
    let bad := late || poison || c != 0
    let fault := fun (s : State) => match s.normBench with
      | some b => if late then s.benchDeadline b else if c = 0 then s else s.redFault b c 0xffffffff src
      | none => s
    let v := if bad then List.replicate 513 0 else normVals (msg.drop 32)
    if down then
      if parentLeaf n me == some src then (fault t).normGlobal out v bad else s
    else match nodes.find? fun x => x.2.1 == src with
      | none => s
      | some (_, mid, hi) =>
        let s := fault t
        let s := { s with job := { s.job with normNodes := (mid, hi, v, bad) :: (s.job.normNodes.filter fun y => y.1 != mid) } }
        s.normAdvance out nodes

/-! Distribution (R410, R411). -/

/-- The bucket's weights as the owner's dressers hold them, with poison. -/
def State.ownerWeights (s : State) (m : MyBucket) : List Byte × Bool × State :=
  let parts := (((s.workEntries fun p => p == 2).eraseDups).map fun be =>
    (List.range be.2.blocks).filterMap fun j =>
      let x := be.2.gidx + 32 * j
      if m.g.gbase ≤ x && x + 32 ≤ m.g.gbase + m.g.elems then some ((x - m.g.gbase) / 32, scratchKey be.1 (be.2.w + 64 * j)) else none).flatten
  let place : NMap Nat := parts.foldl (fun mm p => nset mm p.1 p.2) []
  (List.range (m.g.elems / 32)).foldl (fun (acc : List Byte × Bool × State) i =>
    match nget? place i with
    | some k =>
      let r := acc.2.2.load k 64
      (acc.1 ++ r.1, acc.2.1 || r.2.1, r.2.2)
    | none => (acc.1 ++ leBytes 64 0, acc.2.1, acc.2.2)) ([], false, s)

/-- A KIND 2 message goes to the children of the nodes this module hosts, from the largest down (log 55). -/
def State.paramSend (s : State) (m : MyBucket) (out : List (BitVec 24)) (poison : Bool) (body : List Byte) : State :=
  ((hostedBy m.leaves.length m.leaf).reverse.zipIdx).foldl (fun s n =>
    s.sendMsg .paramMessage (m.leaves.getD n.1.2.1 0) out[n.2]? poison (msgHead s.stepNo 2 s.thinNow m.g.bucket m.g.elems ++ body)) s

/-- Has the step's apply pass ended without a fault for every block of a bucket (R362, R410): does LAST of each bench that applies one of them
hold the step, with no pass running? -/
def State.appliedAll (s : State) (m : MyBucket) : Bool :=
  let mine := fun (e : Entry) => (List.range e.blocks).any fun j =>
    m.g.gbase ≤ e.gidx + 32 * j && e.gidx + 32 * j + 32 ≤ m.g.gbase + m.g.elems
  (s.workEntries fun p => p == 2).all fun be => !mine be.2 ||
    (s.fld (benchKey be.1 0x310) 39 0 == s.stepNo % 2 ^ 40 && (s.bench be.1).pass.isNone)

/-- The owner starts the distribution of a bucket, or a message of it arrives from above; late and poisoned ones as in `redMessage`
(log 55). -/
def State.paramStep (s : State) (m : MyBucket) (src : Nat) (inp : MsgIn) (out : List (BitVec 24)) : State :=
  if !s.job.inStep then s
  else if m.leaf = 0 then
    if src = s.tab.pos && s.appliedAll m then
      let r := s.ownerWeights m
      r.2.2.paramSend m out r.2.1 r.1
    else s
  else if (parentLeaf m.leaves.length m.leaf).map (fun l => m.leaves.getD l 4096) == some src then
    let (msg, late, poison, s) := s.takeMsg inp
    let c := if late || poison then 0 else msgCheck msg s.stepNo 2 s.thinNow m.g.bucket m.g.elems m.g.elems
    let bad := late || poison || c != 0
    let s := match s.benchAt m.p.die m.p.bench with
      | some b => if late then s.benchDeadline b else if c = 0 then s else s.redFault b c m.g.bucket src
      | none => s
    let body := if bad then List.replicate (2 * m.g.elems) 0 else (msg.drop 32).take (2 * m.g.elems)
    (s.storeLong m.p.params body bad).paramSend m out bad body
  else s

/-! Digests (R412 to R416, R419). -/

/-- One word of a port's hash (R412). -/
def hashWord (h w : Nat) : Nat :=
  let p := 2 ^ 64 - 59
  (h * 0x9e3779b97f4a7c15 + w % p + 1) % p
/-- The hash over the whole words of a byte run. -/
def hashBytes : Nat → Nat → List Byte → Nat
  | 0, h, _ => h
  | f + 1, h, bs => if bs.isEmpty then h else hashBytes f (hashWord h (leNat (bs.take 8))) (bs.drop 8)

/-- A hub writes its ports' records of the step to the digest table of the Job record and starts new hashes (R413, R414, R616) (log 35). -/
def State.digestWrite (s : State) (h : Hub) : State :=
  let n := s.stepNo
  if s.job.cur.isNone || s.job.digested.contains h.val then s
  else
    let recs := ((List.finRange 8).map fun (p : Fin 8) =>
      let x := s.port ⟨h, p⟩
      let bs := (x.sentHash.map Prod.fst ++ x.recvHash.map Prod.fst).foldl sinsert []
      bs.map fun b => ((PortId.key ⟨h, p⟩, b, nget x.sentHash b 0, nget x.recvHash b 0) : Nat × Nat × Word64 × Word64)).flatten
    let s := (List.finRange 8).foldl (fun s (p : Fin 8) =>
      if (nget? s.ports (PortId.key ⟨h, p⟩)).isSome then s.updPort ⟨h, p⟩ fun x => { x with sentHash := [], recvHash := [] } else s) s
    let old := match s.mgt.digests.find? fun d => d.1 == n && !s.job.digested.isEmpty with | some d => d.2 | none => []
    let all := (old ++ recs).mergeSort fun a b => a.1 < b.1 || (a.1 == b.1 && a.2.1 ≤ b.2.1)
    let keep := (s.mgt.digests.filter fun d => d.1 != n)
    let s := s.countHub h 0xa6 recs.length
    let size := jobField s.theTab s.tab.pos s.tab.variant 40 8
    let bytes := (all.map fun r => leBytes 4 r.1 ++ leBytes 4 r.2.1 ++ leBytes 8 r.2.2.1.toNat ++ leBytes 8 r.2.2.2.toNat).flatten
    let s := s.storeLong (jobField s.theTab s.tab.pos s.tab.variant 32 8 + n % 64 * size) (bytes.take size) false
    { s with
      mgt := { s.mgt with digests := ((n, all) :: keep).take 64 }
      job := { s.job with digested := sinsert s.job.digested h } }

/-- The manager archives a module's step digest, of the first run or of a replay; digests of steps before the last 64 go (R414). -/
def State.archiveDigest (s : State) (n pos v : Nat) (again : Bool) : State :=
  let put := fun (l : List (Nat × Nat × Nat)) => (n, pos, v) :: l.filter fun a => !(a.1 == n && a.2.1 == pos) && n < a.1 + 64
  if !s.isManager then s
  else if again then { s with mgr := { s.mgr with replayArchive := put s.mgr.replayArchive } }
  else { s with mgr := { s.mgr with archive := put s.mgr.archive } }

/-- The step digest: SHA3-256 over the step number and the records (R413, R419). -/
def State.stepDigest (s : State) : State :=
  let n := s.stepNo
  match s.mgt.digests.find? fun d => d.1 == n, s.job.digested.length == 6 && !(s.mgt.hostDown.contains 0 && s.mgt.hostDown.contains 1) with
  | some d, true =>
    let bytes := leBytes 8 n ++ (d.2.map fun r => leBytes 4 r.1 ++ leBytes 4 r.2.1 ++ leBytes 8 r.2.2.1.toNat ++ leBytes 8 r.2.2.2.toNat).flatten
    let v := leNat (sha3 bytes)
    let s := (List.range 4).foldl (fun s i => s.setReg (mgtKey (0x180 + 8 * i)) (BitVec.ofNat 64 (v >>> (64 * i)))) s
    let s := s.setReg (mgtKey 0x1a0) (BitVec.ofNat 64 (2 ^ 40 + n))
    let again : Bool := match s.job.cur with | some c => c.replay | none => false
    let s := s.archiveDigest n s.tab.pos v again
    s.say .stepDigest [s.tab.pos, n, v]
  | _, _ => s

/-- The first port and bucket whose sent hash differs between two runs. -/
def firstDiff : List (Nat × Nat × BitVec 64 × BitVec 64) → List (Nat × Nat × BitVec 64 × BitVec 64) → Option (Nat × Nat)
  | a :: as, b :: bs => if a.1 = b.1 && a.2.1 = b.2.1 && a.2.2.1 = b.2.2.1 then firstDiff as bs else some (a.1, a.2.1)
  | a :: _, [] => some (a.1, a.2.1)
  | [], b :: _ => some (b.1, b.2.1)
  | [], [] => none

/-- The manager's comparison (R416): the first row that applies, a suspect's records with it. -/
def State.digestCompare (s : State) (n : Nat) (pairs : List DigestPair) (first replay : List DigestRun) : State :=
  let latest := match s.mgr.lastSent with | some d => d.step.toNat | none => s.stepNo
  let own := fun (l : List (Nat × Nat × Nat)) => (l.filter fun a => a.1 == n).map fun a => (⟨a.2.1, BitVec.ofNat 256 a.2.2, []⟩ : DigestRun)
  let first := first ++ own s.mgr.archive
  let replay := replay ++ own s.mgr.replayArchive
  if !s.isManager then s
  else if n + 64 ≤ latest || latest < n then s.say .notComparable [n]
  else match pairs.filter fun p => p.sent != p.recv with
    | p :: ps => (p :: ps).foldl (fun s p => (s.log 0 2 true 416 0 p.bucket.toNat).say .linkPath [n, p.sender, p.receiver, p.bucket.toNat]) s
    | [] =>
      let sus := replay.filter fun r => first.any fun f => f.pos == r.pos && f.digest != r.digest
      if sus.isEmpty then s.say .noModuleMarked [n]
      else sus.foldl (fun s r =>
        let f := (first.find? fun f => f.pos == r.pos).map DigestRun.recs
        match firstDiff (f.getD []) r.recs with
        | some d => s.say .suspect [n, r.pos, d.1, d.2]
        | none => s.say .suspect [n, r.pos]) s

/-! Meanings. -/

/-- R392: at the start of the bucket, in its segment, on its reduction bench. -/
def execReductionStart (b : BenchId) (bucket : BucketOut) (s : State) : Out :=
  .next (match s.myBucket bucket.bucket.toNat with
    | some m => if s.job.inStep && s.job.seg == m.g.seg && s.redBench b m then s.redStart b m bucket.out else s
    | none => s)
def execReductionMessage (b : BenchId) (bucket : BitVec 32) (src : Nat) (msg : MsgHop) (s : State) : Out :=
  .next (match s.myBucket bucket.toNat with
    | some m => if s.job.inStep && s.redBench b m && s.msgComes msg.msg then s.redMessage b m src msg.msg msg.out else s
    | none => s)
def execNormRecordMessage (src : Nat) (down : Bool) (msg : MsgHop) (s : State) : Out :=
  .next (if s.msgComes msg.msg then s.normMessage src down msg.msg msg.out else s)
def execParamDistribution (bucket : BitVec 32) (src : Nat) (msg : MsgHop) (s : State) : Out :=
  .next (match s.myBucket bucket.toNat with
    | some m => if s.msgComes msg.msg then s.paramStep m src msg.msg msg.out else s
    | none => s)
def execDigestRecordsWrite (h : Hub) (s : State) : Out := .next (s.digestWrite h)
def execStepDigest (s : State) : Out := .next s.stepDigest
def execDigestCompare (n : BitVec 40) (pairs : List DigestPair) (first replay : List DigestRun) (s : State) : Out :=
  .next (s.digestCompare n.toNat pairs first replay)

end Sys2Proof.Machine
end

