-- ==== Sys2Proof/Machine/Links.lean ====
section
/-!
DEFINITION. Asvex ports (R420 to R437), roles, heartbeats and takeover (R439, R440, R443), the timebase (R444 to R446) and UCIe link
faults (R31).
-/
namespace Sys2Proof.Machine

/-! Torus (R5, R16, R430, R440). Directions 0 to 5: +x, +y, +z, -x, -y, -z. -/

def State.torus (s : State) : Nat × Nat × Nat :=
  let t := Config.torus s.sec.imageHash
  (2 * t.1 + 2, 2 * t.2.1 + 2, t.2.2 + 2)
def State.myModule (s : State) : Nat := (Config.moduleNumber s.sec.imageHash).toNat
def State.dimOf (s : State) (axis : Nat) : Nat := match axis with | 0 => s.torus.1 | 1 => s.torus.2.1 | _ => s.torus.2.2
def coordOf (m axis : Nat) : Nat := match axis with | 0 => m % 16 | 1 => m / 16 % 16 | _ => m / 256
def withCoord (m axis v : Nat) : Nat :=
  let c := fun a => if a = axis then v else coordOf m a
  256 * c 2 + 16 * c 1 + c 0
/-- Neighbour of a module in a direction. -/
def State.neighbour (s : State) (m dir : Nat) : Nat :=
  let k := s.dimOf (dir % 3)
  let c := coordOf m (dir % 3)
  withCoord m (dir % 3) (if dir < 3 then (c + 1) % k else (c + k - 1) % k)
/-- Step of a ring towards a coordinate: none when there; the minus side when both are equally far. -/
def State.towards (s : State) (axis a t : Nat) : Option Nat :=
  let k := s.dimOf axis
  let up := (t + k - a) % k
  let down := (a + k - t) % k
  if up = 0 then none else if up < down then some axis else some (axis + 3)
/-- The module that acts as manager by the term (log 17). -/
def State.managerModule (s : State) : Nat :=
  if s.fld (mgtKey 0x1c0) 63 32 = 0 then (Config.managerNumber s.sec.imageHash).toNat else (Config.standbyNumber s.sec.imageHash).toNat
/-- Direction of a module's parent in the broadcast tree. -/
def State.parentDir (s : State) (m : Nat) : Option Nat :=
  let g := s.managerModule
  ((s.towards 2 (coordOf m 2) (coordOf g 2)).or (s.towards 1 (coordOf m 1) (coordOf g 1))).or (s.towards 0 (coordOf m 0) (coordOf g 0))
/-- Directions of this module's children. -/
def State.childDirs (s : State) : List Nat :=
  (List.range 6).filter fun d => s.parentDir (s.neighbour s.myModule d) == some ((d + 3) % 6)

/-! Registers of a port (R447). -/

def lnkKey (p : PortId) (off : Nat) : Nat := hubKey p.hub (portOff p.port + off)
def lnkDown : Nat := 0
def lnkTraining : Nat := 1
def lnkCheck : Nat := 2
def lnkUp : Nat := 3
def lnkFenced : Nat := 4
def State.lnkState (s : State) (p : PortId) : Nat := s.fld (lnkKey p 0) 2 0
def State.setLnk (s : State) (p : PortId) (x : Nat) : State := s.setFld (lnkKey p 0) 2 0 x

/-- The first link fault of a segment is recorded; each is counted. -/
def State.linkFault (s : State) (p : PortId) (cause : Nat) : State :=
  let s := s.countHub p.hub 0x9c
  if (s.port p).faulted then s
  else (s.setReg (lnkKey p 0x10) (faultWord (cause + 8) s.stepNo)).updPort p fun x => { x with faulted := true }

def portsOf (h : Hub) : List PortId := (List.finRange 8).map (PortId.mk h)
/-- Lowest-numbered UP port of a direction. -/
def State.upPort (s : State) (dir : Nat) : Option PortId :=
  (finOf? 6 dir).bind fun h => (portsOf h).find? fun p => s.lnkState p == lnkUp

/-- SYNC, PARENT and the hold of the timebase follow the ports to the parent (R446, R448). -/
def State.tbFollow (s : State) : State :=
  match s.parentDir s.myModule with
  | none => s.setFld (mgtKey 0x1c8) 4 2 7
  | some d =>
    let s := s.setFld (mgtKey 0x1c8) 4 2 d
    match s.upPort d, s.mgt.tbHold with
    | some _, _ => { s with mgt := { s.mgt with tbHold := none } }
    | none, some _ => s
    | none, none =>
      let s := { s with mgt := { s.mgt with tbHold := some s.now } }
      if s.fld (mgtKey 0x1c8) 1 0 = 1 then s.setFld (mgtKey 0x1c8) 1 0 2 else s

/-- A port becomes FENCED; while a tab is RUNNING it is reported (R433, R434). -/
def State.fence (s : State) (p : PortId) (cause : Nat) : State :=
  let s := (s.linkFault p cause).setLnk p lnkFenced
  let s := s.updPort p fun x => { x with replay := [], onward := [], sparePending := none }
  let s := if s.tabState = tabRunning then s.say .portFence [s.tab.pos, p.key, s.fld (lnkKey p 0) 19 8] else s
  s.tbFollow

/-- A failed retry (R427); the second in a step fences the port (R433). -/
def State.retryFailed (s : State) (p : PortId) : State :=
  let n := (s.port p).retryFails + 1
  let s := (s.updPort p fun x => { x with retryFails := n }).linkFault p 1
  if n = 2 then s.fence p 1 else s

/-! Transfers and their hashes (R412, R435). -/

/-- A haul descriptor's transfer is whole: the engine is idle when it ran it (R480); bytes in units of 64 are counted (R589). -/
def State.haulDone (s : State) (h : Hub) (entry bytes : Nat) (out : Bool) : State :=
  let s := s.countHub h (if out then 0x9e else 0x9f) (bytes / 64)
  match (s.hub h).haul with
  | some d => if bitsOf d.toNat (8 * 0x2c - 1) (8 * 0x28) = entry then
      (s.setReg (hubKey h 0x508) 0).updHub h fun x => { x with haul := none }
    else s
  | none => s

/-- Bytes of a message by its header (R399, R400). -/
def msgLength (head : List Byte) (elems : Nat) : Nat :=
  let w := leNat (head.take 8)
  let n := leNat ((head.drop 12).take 4)
  32 + (match bitsOf w 43 40 with | 0 => 4 * elems | 1 => 8 * n | 2 => 2 * elems | _ => normBytes)
def State.elemsOf (s : State) (bucket : Nat) : Nat := (((gbucketsOf s.theTab).find? fun g => g.bucket == bucket).map GBucket.elems).getD 0

/-- Progress of a transfer after one more flit; `h` gives and takes the hash of a bucket. -/
def State.progress (s : State) (p : XferProg) (msg : Bool) (body : List Byte) (h : NMap Word64) : XferProg × NMap Word64 :=
  let bucket := if p.flits = 0 then leNat ((body.drop 8).take 4) else p.bucket
  let left := if p.flits = 0 then (if msg then msgLength body (s.elemsOf bucket) else 0) else p.left
  let now := body.take (min left body.length)
  let q : XferProg := ⟨p.flits + 1, p.bytes + body.length, bucket, left - now.length⟩
  (q, if now.isEmpty then h else nset h bucket (BitVec.ofNat 64 (hashBytes (now.length / 8 + 1) (nget h bucket 0).toNat now)))

/-! Sending (R421 to R425). -/

/-- Bits [95:0] of a data flit's header (R421). -/
def flitHead (seq vc : Nat) (last : Bool) (xfer fidx valid : Nat) : Nat :=
  seq % 2 ^ 32 + 2 ^ 32 * vc + 2 ^ 34 + 2 ^ 36 * last.toNat + 2 ^ 40 * (xfer % 2 ^ 24) + 2 ^ 64 * (fidx % 2 ^ 24) + 2 ^ 88 * valid
def flitCrc (head : Nat) (body : List Byte) : BitVec 32 := crc32 (leBytes 12 head ++ body)
def padBody (bs : List Byte) : List Byte := bs ++ List.replicate (240 - bs.length) 0
/-- A flit of TYPE 0 or 2 on the wire: header of TYPE alone, CRC, body (R421). DESIGN CHOICE (log 36): every other header field is 0. -/
def bareFlit (type : Nat) (body : List Byte) : List Nat :=
  [2 ^ 34 * type + 2 ^ 96 * (flitCrc (2 ^ 34 * type) (padBody body)).toNat] ++ (padBody body).map BitVec.toNat

/-- Does credit on a VC allow a data flit (R424)? -/
def PortState.credit (x : PortState) (vc : Nat) : Bool := (2 ^ 32 + nget x.sent vc 0 - nget x.credSeen vc 0) % 2 ^ 32 < 1024
/-- May a data flit of a VC leave now: credit, replay buffer, and a slot that is no control slot? -/
def PortState.mayDo (x : PortState) (vc : Nat) : Bool := x.credit vc && x.replay.length < 2048 && x.flits % 64 != 63

/-- A control slot that the link slot table still has for a VC 1 flit of this segment: an outbound entry of VC 1 with flits left (R423). -/
def State.ctrlSlot (s : State) (p : PortId) : Option (LinkEnt × Nat) :=
  s.myLinks.zipIdx.find? fun e => e.1.seg == s.job.seg && e.1.dir == 0 && e.1.port == p.port.val && e.1.vc == 1 &&
    decide (nget (s.port p).ctrlUsed e.2 0 < e.1.flits)
/-- Core cycle after the flit slots of an entry: FLITS flit times of 1.2096 ns (R420) from its START. -/
def State.slotsEnd (s : State) (e : LinkEnt) : Nat := s.job.segStart + 2 * e.start + (e.flits * 48384 + 9999) / 10000
/-- Is the flit time one that VC 0 and VC 1 leave free (R423): no flit of theirs waits to go onward, and no VC 0 entry has its slots now with
bytes to send? -/
def State.flitTimeFree (s : State) (p : PortId) : Bool :=
  !(s.port p).onward.any (fun e => decide (e.2.vc.toNat < 2) && (s.port p).mayDo e.2.vc.toNat) &&
  !(s.tabRuns && s.myLinks.zipIdx.any fun e => e.1.seg == s.job.seg && e.1.dir == 0 && e.1.port == p.port.val && e.1.vc == 0 &&
    decide (s.job.segStart + 2 * e.1.start ≤ s.now) && decide (s.now < s.slotsEnd e.1) &&
    decide ((nget (s.port p).outXfer e.2 ⟨0, 0, 0, 0⟩).bytes < e.1.bytes))
/-- Does the schedule let a data flit of a VC leave (R75, R423, R443)? While a tab runs, VC 1 goes in the control slots of the link slot table;
a port that a window frees carries nothing scheduled; a manager of an older term sends nothing on VC 1. -/
def State.mayLeave (s : State) (p : PortId) (vc : Nat) : Bool :=
  if vc = 2 then s.flitTimeFree p
  else !s.freedNow (portUnit p) &&
    (vc != 1 || ((!s.tabRuns || (s.ctrlSlot p).isSome) && !(s.role == roleManager && s.mgr.silenced)))
/-- A VC 1 flit takes a flit of its control slot, at or after the slot's START. -/
def State.takeSlot (s : State) (p : PortId) (vc : Nat) : State :=
  match vc == 1 && s.tabRuns, s.ctrlSlot p with
  | true, some e =>
    (s.reach (s.job.segStart + 2 * e.1.start)).updPort p fun x => { x with ctrlUsed := nset x.ctrlUsed e.2 (nget x.ctrlUsed e.2 0 + 1) }
  | _, _ => s

/-- A flit on the wire of a port. -/
def State.wire (s : State) (p : PortId) (f : Flit) : State :=
  s.say .dataFlit ([p.key, flitHead f.seq.toNat f.vc.toNat f.last f.xfer.toNat f.fidx.toNat f.valid.toNat + 2 ^ 96 * f.crc.toNat] ++
    f.body.map BitVec.toNat)

/-- Sends a new data flit. -/
def State.sendFlit (s : State) (p : PortId) (vc xfer fidx : Nat) (last : Bool) (bytes : List Byte) : State :=
  let x := s.port p
  let seq := nget x.sent vc 0 % 2 ^ 32
  let valid := bytes.length
  let body := padBody bytes
  let f : Flit := ⟨BitVec.ofNat 32 seq, BitVec.ofNat 2 vc, last, BitVec.ofNat 24 xfer, BitVec.ofNat 24 fidx, BitVec.ofNat 8 valid, body,
    flitCrc (flitHead seq vc last xfer fidx valid) body⟩
  let s := s.updPort p fun x => { x with
    flits := x.flits + 1, sent := nset x.sent vc (nget x.sent vc 0 + 1), replay := x.replay ++ [f] }
  (s.countHub p.hub (0x90 + vc)).wire p f

/-- The four words of the timebase exchange that a port sends (R444): towards a child the exchange that the child's answer completed, else a
new t1; towards the parent t1, t2 and t3, once t1 has come (log 36). -/
def State.exchange (s : State) (p : PortId) : List Nat :=
  let ts := (s.port p).ts
  if s.parentDir s.myModule == some p.hub.val then (if ts.length = 2 then ts ++ [s.tbNow, 0] else [0, 0, 0, 0])
  else if s.childDirs.contains p.hub.val then (if ts.length = 4 then ts else [s.tbNow, 0, 0, 0])
  else [0, 0, 0, 0]
/-- The exchange at a port after four words came: an end stamps their arrival (log 36). -/
def State.heard (s : State) (p : PortId) (ws : List Nat) : List Nat :=
  let w := fun i => ws.getD i 0
  if s.parentDir s.myModule == some p.hub.val then
    (if w 0 = 0 then (s.port p).ts else if w 1 = 0 then [w 0, s.tbNow] else [])
  else if s.childDirs.contains p.hub.val && w 0 != 0 && w 1 != 0 && w 2 != 0 then [w 0, w 1, w 2, s.tbNow]
  else (s.port p).ts

/-- Body of a control flit (R422): the port's counts, its NAK, the timestamps, the term and the heartbeat count. One VC asks for its resend at
a time, the lowest (log 36). -/
def State.controlBody (s : State) (p : PortId) : List Byte :=
  let x := s.port p
  let four := fun (m : NMap Nat) => ((List.range 4).map fun v => leBytes 4 (nget m v 0 % 2 ^ 32)).flatten
  let nak := x.nak.head?
  four x.freed ++ four x.expect ++ leBytes 4 ((nak.map Prod.snd).getD 0) ++ leBytes 4 ((nak.map fun n => 2 ^ n.1).getD 0) ++
    (s.exchange p).flatMap (leBytes 8) ++
    leBytes 4 (s.fld (mgtKey 0x1c0) 63 32) ++ leBytes 4 (s.mgr.heartbeats % 2 ^ 32)
/-- A control flit leaves. -/
def State.sendControl (s : State) (p : PortId) : State :=
  (s.updPort p fun x => { x with flits := x.flits + 1, ts := if x.ts.length = 4 then [] else x.ts }).say .controlFlit (p.key :: bareFlit 2 (s.controlBody p))
/-- A flit time in which the port sends nothing else: an idle flit (R421). -/
def State.sendIdle (s : State) (p : PortId) : State :=
  (s.updPort p fun x => { x with flits := x.flits + 1 }).say .idleFlit (p.key :: bareFlit 0 [])

/-- Key under which a port follows a transfer that passes through, apart from its own entries and VC 1 and VC 2 traffic. -/
def passKey (arr : Nat) (f : Flit) : Nat := 2 ^ 32 * (arr + 1) + 2 ^ 24 * f.vc.toNat + f.xfer.toNat

/-- Flits that wait to go onward leave while they may, the oldest first of those whose VC may; the buffer of their arrival port is freed (R429)
(log 36). -/
def State.drain : Nat → State → PortId → State
  | 0, s, _ => s
  | n + 1, s, p =>
    match (s.port p).onward.find? fun e => (s.port p).mayDo e.2.vc.toNat && s.mayLeave p e.2.vc.toNat with
    | some (arr, f) =>
      if s.lnkState p == lnkUp then
        let s := (s.takeSlot p f.vc.toNat).updPort p fun x => { x with onward := x.onward.erase (arr, f) }
        let k := passKey arr f
        let q := nget (s.port p).outXfer k ⟨0, 0, 0, 0⟩
        let g := s.progress q (f.vc == 0#2) (f.body.take f.valid.toNat) (s.port p).sentHash
        let s := s.updPort p fun x => { x with
          sentHash := g.2, outXfer := if f.last then nerase x.outXfer k else nset x.outXfer k g.1 }
        let s := s.sendFlit p f.vc.toNat f.xfer.toNat f.fidx.toNat f.last (f.body.take f.valid.toNat)
        let v := f.vc.toNat
        let s := match nget? s.ports arr with
          | some y => { s with ports := nset s.ports arr { y with
              freed := nset y.freed v (nget y.freed v 0 + 1), buffered := nset y.buffered v (nget y.buffered v 0 - 1) } }
          | none => s
        State.drain n s p
      else s
    | none => s

/-- FLIT_SEND: the next flit of an outbound entry from memory, at or after its START, or of VC 1 and VC 2 traffic from its body (R423,
R424, R435). -/
def State.flitSend (s : State) (p : PortId) (entry vc : Nat) (last : Bool) (body : List Byte) : State :=
  let x := s.port p
  if s.lnkState p != lnkUp || vc = 3 then s
  else if !x.credit vc then (if vc = 0 then s.countHub p.hub 0x9a else s)
  else if !x.mayDo vc || !s.mayLeave p vc then s
  else if vc = 0 then
    match s.myLinks[entry]? with
    | none => s
    | some e =>
      let q := nget x.outXfer entry ⟨0, 0, 0, 0⟩
      if !s.job.inStep || e.seg != s.job.seg || e.dir != 0 || e.port != p.port.val || e.vc != 0 || e.flits ≤ q.flits || e.bytes ≤ q.bytes ||
          (s.haulEntry entry && !(s.hub p.hub).haulLinks.contains entry) then s
      else
        let s := s.reach (s.job.segStart + 2 * e.start)
        let n := min 240 (e.bytes - q.bytes)
        let r := s.loadLong (e.loc + q.bytes) n
        -- a hub sends nothing of what it read poisoned; the transfer then lands late (log 18)
        if r.2.1 then (if s.haulEntry entry then r.2.2.haulFault p.hub 4 true else r.2.2.hubDeadline p.hub)
        else
          let s := r.2.2
          let fin := e.bytes ≤ q.bytes + n
          let g := s.progress q (!s.haulEntry entry) r.1 x.sentHash
          let s := s.updPort p fun x => { x with sentHash := g.2, outXfer := nset x.outXfer entry g.1 }
          let s := if fin && s.haulEntry entry then s.haulDone p.hub entry e.bytes true else s
          s.sendFlit p 0 entry q.flits fin r.1
  else
    let q := nget x.outXfer (2 ^ 24 * vc + entry) ⟨0, 0, 0, 0⟩
    let s := (s.takeSlot p vc).updPort p fun x => { x with
      outXfer := if last then nerase x.outXfer (2 ^ 24 * vc + entry) else nset x.outXfer (2 ^ 24 * vc + entry) { q with flits := q.flits + 1 } }
    s.sendFlit p vc entry q.flits last body

/-! Receiving (R424, R426, R437). -/

/-- Lands the bytes of a flit: a local-store line takes its mark when its last byte lands (R313, R314, R436). -/
def State.landBytes (s : State) (a : Nat) (bs : List Byte) (poison fin : Bool) (deadline : Nat) : State :=
  (List.range (bs.length / 64 + 2)).foldl (fun s i =>
    let l := a / 64 * 64 + 64 * i
    let lo := max a l
    let hi := min (a + bs.length) (l + 64)
    if hi ≤ lo then s
    else
      let part := (bs.drop (lo - a)).take (hi - lo)
      match (s.keyOf l).bind coreOfKey, s.keyOf l with
      | some c, some k =>
        let line := k % 2 ^ 16 / 64
        let whole : Bool := hi = l + 64 || (fin && hi = a + bs.length)
        s.landAt c line (if whole then some deadline else none) fun s => s.storeLong lo part poison
      | _, _ => s.storeLong lo part poison) s

/-- A flit that its port accepted is matched to an entry (R437) or goes onward (R429, R440). -/
def State.matchFlit (s : State) (p : PortId) (f : Flit) : State :=
  let vc := f.vc.toNat
  let xfer := f.xfer.toNat
  let n := f.valid.toNat
  let body := f.body.take n
  let freeOne := fun (s : State) => s.updPort p fun x => { x with freed := nset x.freed vc (nget x.freed vc 0 + 1) }
  let onward := fun (s : State) (q : PortId) => (s.updPort q fun x => { x with onward := x.onward ++ [(p.key, f)] })
  let hold := fun (s : State) => s.updPort p fun x => { x with buffered := nset x.buffered vc (nget x.buffered vc 0 + 1) }
  let ent := if s.job.inStep && vc < 2 then s.myLinks.zipIdx.find? fun e => e.1.dir != 0 && e.1.port == p.port.val && e.1.vc == vc && e.1.xfer == xfer
    else none
  match ent with
  | some (e, i) =>
    let q := nget (s.port p).inXfer i ⟨0, 0, 0, 0⟩
    let g := s.progress q (vc == 0 && !s.haulEntry i) body (s.port p).recvHash
    if e.dir = 2 then
      let s := (hold s).updPort p fun x => { x with recvHash := g.2, inXfer := if f.last then nerase x.inXfer i else nset x.inXfer i g.1 }
      match finOf? 6 (e.out / 8), finOf? 8 (e.out % 8) with
      | some h, some o => (onward s ⟨h, o⟩).drain 4096 ⟨h, o⟩
      | _, _ => s
    else
      let a := e.loc + 240 * f.fidx.toNat
      let ok := f.fidx.toNat < e.flits && 1 ≤ n && 240 * f.fidx.toNat + n ≤ e.bytes && (!f.last || q.bytes + n == e.bytes)
      let s := freeOne s
      -- a replica lands only under a receive descriptor that started (R452, R461)
      if s.haulEntry i && !(s.hub p.hub).haulLinks.contains i then s
      else if !ok then ((s.linkFault p 4).poisonLong e.loc e.bytes)
      else
        let told := s.job.lateIn.contains i
        let late : Bool := told || e.seg < s.job.seg || (e.seg == s.job.seg && s.entryDue e ≤ s.now)
        let s := s.updPort p fun x => { x with recvHash := g.2, inXfer := nset x.inXfer i g.1 }
        let s := s.landBytes a body late f.last (2 * e.deadline)
        let s := if f.last && s.haulEntry i then s.haulDone p.hub i e.bytes false else s
        if late && f.last && !told then
          ({ s with job := { s.job with lateIn := i :: s.job.lateIn } } : State).consumerDeadline e.loc
        else s
  | none =>
    if vc = 1 then
      -- the broadcast tree: on to the children (R440)
      let kids := if s.parentDir s.myModule == some p.hub.val then s.childDirs else []
      let s := freeOne s
      kids.foldl (fun s d => match s.upPort d with
        | some q => ((s.updPort q fun x => { x with onward := x.onward ++ [(48, f)] })).drain 4096 q
        | none => s) s
    else if vc = 2 then freeOne s
    else (freeOne s).linkFault p 4

/-- A port of a job position, whose retrain the manager asked for, is UP again within 1 s: the job restarts from the last commit (R434). -/
def State.retrained (s : State) (pos port : Nat) : State :=
  let mine := fun (r : Nat × Nat × Nat) => r.2.1 == port && r.1 == pos
  if s.isManager && s.mgr.retrains.any fun r => mine r && decide (s.now ≤ r.2.2 + 4000000000) then
    ({ s with mgr := { s.mgr with retrains := [] } } : State).say .restartJob [s.mgr.committed.getD 0]
  else s

/-- The standby's copy of the manager's role table and of a step's digests; digests of steps before the last 64 go (R414, R439). -/
def MgrState.copied (m : MgrState) (roles : List (Nat × Nat)) (ds : List (Nat × Nat × Nat)) : MgrState :=
  { m with
    roles := roles
    archive := ds ++ m.archive.filter fun a => ds.all fun d => !(a.1 == d.1 && a.2.1 == d.2.1) && decide (d.1 < a.1 + 64) }

/-- A message that the module has received in full says something to it as the manager or the standby (log 53). -/
def State.hear (s : State) (r : Report) : State :=
  match r with
  | .tabOutcome pos got => s.loadReported pos got
  | .stepDigest pos n v again => s.archiveDigest n.toNat pos v.toNat again
  | .portUp pos port => s.retrained pos port
  | .standbyCopy roles ds =>
    if s.role = roleStandby then { s with mgr := s.mgr.copied roles (ds.map fun d => (d.1.toNat, d.2.1, d.2.2.toNat)) } else s
  | .commitIdentity epoch => if s.role = roleStandby then { s with mgr := { s.mgr with committed := some epoch.toNat } } else s

/-- FLIT_RECEIVE (R424, R426). -/
def State.flitReceive (s : State) (p : PortId) (f : Flit) (rx : FlitIn) : State :=
  let vc := f.vc.toNat
  if s.lnkState p != lnkUp then s
  else if !rx.codewordOk then (s.satFld (lnkKey p 8) 63 32 1).countHub p.hub 0x99
  else if flitCrc (flitHead f.seq.toNat vc f.last f.xfer.toNat f.fidx.toNat f.valid.toNat) f.body != f.crc then s
  else if 1024 ≤ nget (s.port p).buffered vc 0 then s.linkFault p 3
  else
    let e := nget (s.port p).expect vc 0
    let d := (2 ^ 32 + f.seq.toNat - e % 2 ^ 32) % 2 ^ 32
    if d = 0 then
      let s := s.updPort p fun x => { x with expect := nset x.expect vc ((e + 1) % 2 ^ 32), nak := nerase x.nak vc }
      let s := (s.countHub p.hub (0x94 + vc)).matchFlit p f
      match rx.report with
      | some r => if vc = 0 then s else s.hear r
      | none => s
    else if 2 ^ 32 - 2 ^ 20 ≤ d then s
    else if d < 2 ^ 20 then s.updPort p fun x => { x with nak := nset x.nak vc (e % 2 ^ 32) }
    else s.linkFault p 2

/-- A NAK for a VC (R427): the flits from its SEQ on go once more, or the retry has failed. -/
def State.resend (s : State) (p : PortId) (vc seq : Nat) : State :=
  let x := s.port p
  if x.resent.contains (vc, seq) then s.retryFailed p
  else
    let again := x.replay.filter fun f => f.vc.toNat == vc && (2 ^ 32 + f.seq.toNat - seq) % 2 ^ 32 < 2 ^ 31
    let s := (s.satFld (lnkKey p 8) 31 0 1).countHub p.hub 0x98
    let s := s.updPort p fun x => { x with resent := x.resent ++ again.map fun f => (vc, f.seq.toNat) }
    again.foldl (fun s f =>
      let s := if (s.port p).flits % 64 = 63 then s.sendControl p else s
      ((s.updPort p fun x => { x with flits := x.flits + 1 })).wire p f) s

/-- The offset of R444 from four timestamps in ns, in units of 1/16 ns. -/
def offsetOf (ts : List (BitVec 64)) : Int :=
  let t := fun i => ((ts.getD i 0).toNat : Int)
  8 * ((t 1 - t 0) - (t 3 - t 2))

/-- The timebase fault of R446, a fault beyond the module (R477). -/
def State.tbFault (s : State) : State :=
  if s.fld (mgtKey 0x1c8) 1 0 = 3 then s
  else ((s.setFld (mgtKey 0x1c8) 1 0 3).beyond 40 0xf0 446).say .timebaseFault [s.tab.pos]
/-- Does the measured offset exceed 5 ns (R446), in 1/16 ns? -/
def State.tbBeyond (s : State) : Bool := s.mgt.tbOff < -80 || 80 < s.mgt.tbOff

/-- Synchronisation to the parent (R444 to R446): offset measured, rate slewed by at most 200 ppm, a fault beyond 5 ns. DESIGN CHOICE (log 36):
a free-running module that lags, with no tab RUNNING, takes the offset in one forward step; free-running, it locks within 5 ns and an offset
beyond them is no fault yet. -/
def State.syncTo (s : State) (ts : List (BitVec 64)) : State :=
  let o := offsetOf ts
  let free := s.fld (mgtKey 0x1c8) 1 0 == 0
  let lim : Int := ((s.now - s.lastSync) / 5000 : Nat)
  let step : Bool := free && !s.jobRuns && decide (o < 0)
  let corr := if step then -(o / 4) else clampInt (-(o / 4)) (-lim) lim
  let s := { s with tbBase := s.tbBase + corr, lastSync := s.now, mgt := { s.mgt with tbOff := if step then 0 else o } }
  let s := s.setFld (mgtKey 0x1c8) 31 16 (wrapInt 16 (clampInt o (-32768) 32767))
  if !s.tbBeyond then s.setFld (mgtKey 0x1c8) 1 0 1
  else if free then s
  else s.tbFault

/-- CONTROL_FLIT_RECEIVE (R422, R424, R427, R443, R444). -/
def State.controlReceive (s : State) (p : PortId) (f : CtrlFlit) (ok : Bool) : State :=
  if s.lnkState p != lnkUp then s
  else if !ok then s.countHub p.hub 0x9d
  else
    let cred := (List.range 4).map fun v => (v, (f.cred.getD v 0).toNat)
    let acked := fun (g : Flit) => (2 ^ 32 + (f.ack.getD g.vc.toNat 0).toNat - g.seq.toNat - 1) % 2 ^ 32 < 2 ^ 31
    let gone := fun (r : Nat × Nat) => (2 ^ 32 + (f.ack.getD r.1 0).toNat - r.2 - 1) % 2 ^ 32 < 2 ^ 31
    let s := s.updPort p fun x => { x with
      credSeen := cred, replay := x.replay.filter fun g => !acked g, resent := x.resent.filter fun r => !gone r
      ts := s.heard p (f.ts.map BitVec.toNat) }
    let s := (List.range 4).foldl (fun s v => if f.nak.getLsbD v && s.lnkState p == lnkUp then s.resend p v f.nakSeq.toNat else s) s
    let s := s.raiseTerm f.term.toNat
    -- the heartbeat count runs modulo 2^32 (R422)
    let ahead := (2 ^ 32 + f.hb.toNat - s.mgr.heartbeats % 2 ^ 32) % 2 ^ 32
    let s := if 0 < ahead && ahead < 2 ^ 31 && !s.isManager then
        { s with mgr := { s.mgr with heartbeats := f.hb.toNat }, mgt := { s.mgt with lastHb := s.now } }
      else s
    let s := if s.parentDir s.myModule == some p.hub.val && f.ts.all fun t => t != 0#64 then s.syncTo f.ts else s
    s.drain 4096 p

/-! Training (R432, R433). -/

/-- Is training permitted: no tab RUNNING, or a class-1 window frees the port? -/
def State.mayTrain (s : State) (p : PortId) : Bool :=
  s.tabState != tabRunning || s.job.windows.any fun i => match s.myWindows[i]? with
    | some w => w.cls.testBit 1 && w.units.any fun u => (u / 2 ^ 28 == 4 && bitsOf u 5 0 == p.key) || (u / 2 ^ 28 == 2 && u % 8 == p.hub.val)
    | none => false

def State.trainStart (s : State) (p : PortId) (request : Bool) : State :=
  let st := s.lnkState p
  if s.mayTrain p && (st == lnkDown || (st == lnkFenced && request)) then
    (s.setLnk p lnkTraining).updPort p fun x => { x with trainSince := s.now, replay := [], onward := [] }
  else s
/-- 50 ms of training in core cycles. -/
def trainLimit : Nat := 200000000
def State.lanesLocked (s : State) (p : PortId) : State :=
  if s.lnkState p == lnkTraining && s.now ≤ (s.port p).trainSince + trainLimit then
    -- the end sends its module number, hub and port (R432)
    (s.setLnk p lnkCheck).say .identity [p.key, s.myModule, p.hub, p.port]
  else s
def State.trainTimeout (s : State) (p : PortId) : State :=
  if s.lnkState p == lnkTraining then
    ((s.reach ((s.port p).trainSince + trainLimit)).setLnk p lnkDown).linkFault p 5
  else s

/-- The identity exchange ends (R432, R433). -/
def State.identity (s : State) (p : PortId) (mod hub port : Nat) : State :=
  if s.lnkState p != lnkCheck then s
  else
    let s := s.setFld (lnkKey p 0) 19 8 mod
    if mod == s.neighbour s.myModule p.hub && hub == (p.hub.val + 3) % 6 && port == p.port.val then
      ((s.setLnk p lnkUp).updPort p fun x => { x with
        flits := 0, sent := [], credSeen := [], replay := [], resent := [], expect := [], buffered := [], freed := [], nak := []
        outXfer := [], inXfer := [], ctrlUsed := [], ts := [] }).tbFollow.retrained s.tab.pos p.key
    else ((s.setLnk p lnkDown).linkFault p 6).log 0 2 true 432 (hubKey p.hub 0 / 2 ^ 17) mod

/-- A lane is lost (R433, R472, R477). -/
def State.loseLane (s : State) (p : PortId) (lane : Nat) : State :=
  let st := s.lnkState p
  if st == lnkFenced then s.beyond (32 + p.hub) 0xf0 477
  else if st != lnkUp then s
  else
    let s := s.countHub p.hub 0x9b
    if s.fld (lnkKey p 0) 3 3 = 0 && (s.port p).sparePending.isNone then s.updPort p fun x => { x with sparePending := some lane }
    else s.fence p 5

/-- At the next segment boundary, or at once with no step under way, the spare takes the lane's place (R433, R476). -/
def State.spareSwitch (s : State) (p : PortId) : State :=
  match (s.port p).sparePending with
  | some l =>
    if s.job.inStep && !(s.port p).spareDue then s
    else (((s.setFld (lnkKey p 0) 3 3 1).setFld (lnkKey p 0) 6 4 l).updPort p fun x => { x with sparePending := none, spareDue := false }).service 2
  | none => s

/-! The manager (R434, R439, R443, R477). -/

/-- The manager moves the job positions of a module to the next system spare of the role table (R477, R478). -/
def State.moveModule (s : State) (m : Nat) : State :=
  match s.mgr.roles.find? fun r => r.2 == m, s.mgr.spares with
  | some r, sp :: rest =>
    { s with mgr := { s.mgr with
      roles := s.mgr.roles.map fun (x : Nat × Nat) => if x.1 == r.1 then (x.1, sp.1) else x, spares := rest } }.say .movePosition [r.1, m, sp.1, sp.2]
  | some r, [] => s.say .movePosition [r.1, m]
  | none, _ => s

/-- Stop on every module at the next segment boundary (R41). -/
def State.stopAll (s : State) (why : Nat) : State :=
  let s := { s with job := { s.job with abandon := true } }
  let s := if s.tabState == tabRunning then s.setTabState tabStopping else s
  s.say .stopJob [why]

/-- The manager handles a fenced port (R434): `u.pos` is the job position of its module. -/
def State.portFenced (s : State) (u : UnitRef) (p : PortId) (carries : Bool) (neighbour : Nat) : State :=
  if !s.isManager then s
  else if !carries then s
  else
    let s := { s with mgr := { s.mgr with retrains := s.mgr.retrains ++ [(u.pos, p.key, s.now)] } }
    ((s.stopAll 434).say .retrainPort [u.pos, p.key]).say .retrainPort [neighbour, ((p.hub.val + 3) % 6) * 8 + p.port.val]

/-- The port did not reach UP within 1 s (R434). -/
def State.retrainFailed (s : State) (a b : Nat) (aOk bOk : Bool) : State :=
  if !s.isManager then s
  else
    let s := match s.mgr.retrains with | r :: _ => s.reach (r.2.2 + 4000000000) | [] => s
    let s := ({ s with mgr := { s.mgr with retrains := [] } } : State).beyond 0x3f 0xff 434
    let s := if aOk then s else s.moveModule a
    let s := if bOk then s else s.moveModule b
    let s := if aOk && bOk then s.moveModule (max a b) else s
    s.say .restartJob []

/-- The manager's next heartbeat, 100 µs after the one before (R439). -/
def State.heartbeat (s : State) : State :=
  if s.isManager then
    let s := s.reach s.mgr.hbNext
    { s with mgr := { s.mgr with heartbeats := s.mgr.heartbeats + 1, hbNext := s.now + 400000 } }.say .heartbeat
      [s.fld (mgtKey 0x1c0) 63 32, s.mgr.heartbeats + 1]
  else s

/-- The standby takes over after 1 ms without a heartbeat (R443); the failed manager's job position moves to a system spare (R477). -/
def State.takeOver (s : State) : State :=
  if s.role != roleStandby then s
  else
    let s := s.reach (4000000 + s.mgt.lastHb)
    let t := (s.fld (mgtKey 0x1c0) 63 32 + 1) % 2 ^ 32
    let gone := s.managerModule
    let s := s.raiseTerm t
    let s := { s with mgr := { s.mgr with silenced := false, lastSent := none } }
    let s := (s.setFld (mgtKey 0x1c0) 1 0 roleManager).tbFollow
    ((s.say .newTerm [t]).moveModule gone).say .restartJob [s.mgr.committed.getD 0]

/-- 40 µs without an UP port to the parent, or a measured offset beyond 5 ns (R446, R477). -/
def State.holdTimeout (s : State) : State :=
  match s.mgt.tbHold with
  | some t => (s.reach (160000 + t)).tbFault
  | none => if s.tbBeyond && s.fld (mgtKey 0x1c8) 1 0 != 0 then s.tbFault else s

/-- A UCIe connection fails its retry: a link fault of the die that owns the receiving end (R31) (log 36). -/
def State.ucieFault (s : State) (die : Nat) : State :=
  match blockOf die 0xf0 0 with
  | some .compute => (match finOf? 28 die with | some d => s.countDie d 0x73 | none => s).log 0 2 false 31 (0xf0 * 2 ^ 7 + 2 ^ 15 * die) 0
  | some .hub => (match finOf? 6 (die - 32) with | some h => s.countHub h 0x9c | none => s).log 0 2 false 31 (0xf0 * 2 ^ 7 + 2 ^ 15 * die) 0
  | some .mgmt => s.log 0 2 false 31 (0xf0 * 2 ^ 7 + 2 ^ 15 * die) 0
  | _ => s

/-! Meanings. -/

def execFlitSend (p : PortId) (entry : BitVec 24) (vc : BitVec 2) (last : Bool) (body : List Byte) (s : State) : Out :=
  .next (s.flitSend p entry.toNat vc.toNat last body)
/-- The control slot of a run of 64 flits (R422); another flit time, in which what waits goes out or, with nothing that may leave, an idle flit
does, so that the port comes to its control slot with little to send (R421). -/
def execControlFlitSend (p : PortId) (s : State) : Out :=
  .next (if s.lnkState p == lnkUp then
      if (s.port p).flits % 64 = 63 then (s.sendControl p).drain 4096 p
      else
        let t := s.drain 4096 p
        if (t.port p).flits = (s.port p).flits then t.sendIdle p else t
    else s)
def execFlitReceive (p : PortId) (f : Flit) (rx : FlitIn) (s : State) : Out := .next (s.flitReceive p f rx)
def execControlFlitReceive (p : PortId) (f : CtrlFlit) (ok : Bool) (s : State) : Out := .next (s.controlReceive p f ok)
def execPortTrainingStart (p : PortId) (request : Bool) (s : State) : Out := .next (s.trainStart p request)
def execPortLanesLocked (p : PortId) (s : State) : Out := .next (s.lanesLocked p)
def execPortTrainingTimeout (p : PortId) (s : State) : Out := .next (s.trainTimeout p)
def execPortIdentityResult (p : PortId) (mod : BitVec 12) (hub : Hub) (port : Fin 8) (s : State) : Out :=
  .next (s.identity p mod.toNat hub port)
def execLaneLost (p : PortId) (lane : Fin 8) (s : State) : Out := .next (s.loseLane p lane)
def execSpareLaneSwitch (p : PortId) (s : State) : Out := .next (s.spareSwitch p)
def execPortFenceFault (u : UnitRef) (p : PortId) (carries : Bool) (neighbour : BitVec 12) (s : State) : Out :=
  .next (s.portFenced u p carries neighbour.toNat)
def execPortRetrainTimeout (a b : BitVec 12) (aLocked bLocked : Bool) (s : State) : Out :=
  .next (s.retrainFailed a.toNat b.toNat aLocked bLocked)
def execUcieLinkFault (die : Fin 64) (s : State) : Out := .next (s.ucieFault die)
def execHeartbeatSend (s : State) : Out := .next s.heartbeat
def execManagerTakeover (s : State) : Out := .next s.takeOver
def execTimebaseHoldTimeout (s : State) : Out := .next s.holdTimeout

end Sys2Proof.Machine
end

