-- ==== Sys2Proof/Machine/Haul.lean ====
section
/-!
DEFINITION. Haul engines, epochs and commits (R449 to R462), the vault (R456, R574) and restart (R463 to R466, R478).
-/
namespace Sys2Proof.Machine

/-! Haul descriptors (R452). -/

structure HaulDesc where
  stream : Nat
  home : Nat
  region : Nat
  src : Nat
  dst : Nat
  bytes : Nat
  link : Nat
  deadline : Nat
  reserved : Nat
  deriving DecidableEq, Repr

def parseHaul (b : BitVec 512) : HaulDesc :=
  let u := fun off n => (b.toNat >>> (8 * off)) % 2 ^ (8 * n)
  ⟨u 0x08 1, u 0x09 1, u 0x0c 4, u 0x10 8, u 0x18 8, u 0x20 8, u 0x28 4, u 0x2c 4, u 0x0a 2 + u 0x30 16⟩

/-- Do the addresses lie in one aligned 16 GiB region (R295)? -/
def oneRegion (a n : Nat) : Bool := n = 0 || a / 2 ^ 34 == (a + n - 1) / 2 ^ 34

/-- The checks of R293 to R296 on a haul descriptor; a run of consecutive bytes is injective (log 37). -/
def State.haulOk (s : State) (d : HaulDesc) : Bool :=
  d.stream ≤ 2 && d.home ≤ 1 && d.reserved == 0 && d.src < 2 ^ 48 && d.dst < 2 ^ 48 && d.deadline < s.workFabric &&
    (if d.stream = 2 then d.link == 0xffffffff else d.link < s.myLinks.length) &&
    d.src % 64 == 0 && d.dst % 64 == 0 && d.bytes % 64 == 0 && oneRegion d.src d.bytes && oneRegion d.dst d.bytes

/-- Words of a line up to the first poisoned one, by their place from address `b`. -/
def stageWords (b : Nat) : List (List Byte × Bool) → NMap (Nat × Bool)
  | [] => []
  | w :: ws => if w.2 then [] else (w.1.zipIdx.map fun x => (b + x.2, x.1.toNat, false)) ++ stageWords (b + 8) ws
/-- Stages lines through the hub's translation cache, up to the first poisoned word (R307, R311, R455): a line of a local store lands under
R313. Cause 0 when all went, 4 at a poisoned word, 5 where an address fails translation (log 37). -/
def State.stage (h : Hub) (deadline : Nat) : Nat → State → Nat → Nat → Nat × State
  | 0, s, _, _ => (0, s)
  | n + 1, s, a, b =>
    let r := s.translate (.hub h) a false
    let w := r.2.translate (.hub h) b true
    match r.1, w.1 with
    | .ok x, .ok y => match w.2.keyOf y with
      | some k =>
        let l := (List.range 8).foldl (fun (acc : List (List Byte × Bool) × State) i =>
          let t := acc.2.loadAt (x + 8 * i) 8
          (acc.1 ++ [(t.1, t.2.1)], t.2.2)) ([], w.2)
        let st := stageWords b l.1
        let s := if st.isEmpty then l.2 else l.2.landLine k b st (some deadline)
        if l.1.any Prod.snd then (4, s) else State.stage h deadline n s (a + 64) (b + 64)
      | none => (5, w.2)
    | _, _ => (5, w.2)

/-- K of the job (R480). -/
def State.vaultK (s : State) : Nat := s.fld (hubKey 0 0x500) 15 0

/-- Vault staging of epoch `n` (R456): skipped while the drain of the epoch before it, begun or not, has not committed. -/
def State.stageVault (s : State) (h : Hub) (d : HaulDesc) : State :=
  let n := s.stepNo
  if s.vaultK = 0 || n % s.vaultK != 0 then s
  else if s.mgt.draining.isSome || s.mgt.staged.any (· != n) then
    if (s.hub h).skipped == some n then s
    else
      let s := ((s.satFld (hubKey h 0x520) 63 48 1).countHub h 0xa0).updHub h fun x => { x with skipped := some n }
      (s.log 0 1 false 456 (hubKey h 0 / 2 ^ 17) n).say .warning [456, n]
  else if (s.hub h).skipped == some n then s
  else
    let old := if s.mgt.staged == some n then s.mgt.stagedRegions else []
    let r := State.stage h (2 * d.deadline) (d.bytes / 64) { s with mgt := { s.mgt with
      staged := some n, stagedSeed := (s.job.cur.map fun x => x.seedEpoch.toNat).getD 0, stagedRegions := old } } d.src d.dst
    if r.1 = 0 then { r.2 with mgt := { r.2.mgt with stagedRegions := nset r.2.mgt.stagedRegions d.region (d.dst, d.bytes) } } else r.2.haulFault h r.1 true

/-- The haul start of the running tab's hub slot table that holds a descriptor on a hub: its SEG and START (R452, R616). -/
def State.haulSlot (s : State) (h : Hub) (b : BitVec 512) : Option (Nat × Nat) :=
  if !s.tabRuns then none
  else (s.myHubRecs.find? fun r => r.1 == 3 && tabU s.theTab (r.2.1 + 8) 1 == h.val && haulDesc s.theTab r.2.1 == b).map fun _ =>
    (bitsOf b.toNat 31 0, bitsOf b.toNat 63 32)

/-- HAUL_START. A descriptor of the running tab's table starts in its segment at its START; a hub that a window frees, and one that waits for a
table swap, starts nothing (R75, R310). Then the checks, the fence, the vault skip, and the stream runs (R452, R455, R456, R461) (log 31,
37). -/
def State.haulStart (s : State) (h : Hub) (b : BitVec 512) : State :=
  match s.haulSlot h b with
  | some (k, t) => if k = s.job.seg then go (s.reach (s.job.segStart + 2 * t)) else s
  | none => go s
where
 go (s : State) : State :=
  let d := parseHaul b
  if s.swapHolds || s.freedNow (hubUnit h) then s
  else if !s.haulOk d then s.haulFault h 5 false
  else
    let f := s.fenceHit h
    let s := f.2
    if f.1 then s
    else if d.stream = 2 then s.stageVault h d
    else (s.setReg (hubKey h 0x508) (BitVec.ofNat 64 (1 + d.stream * 4 + 2 ^ 32 * d.region))).updHub h fun x =>
      { x with haul := some b, haulLinks := sinsert x.haulLinks d.link }

/-! Manifests and records (R451, R457, R458). -/

def insertRegion (r : RegionRec) : List RegionRec → List RegionRec
  | [] => [r]
  | x :: xs => if r.region ≤ x.region then r :: x :: xs else x :: insertRegion r xs
/-- Regions in ascending REGION. -/
def State.regionsUp (s : State) : List RegionRec := s.myRegions.foldr insertRegion []

/-- The hash of R412 over a run of memory, and whether a word of it is poisoned. -/
def State.hashAt (s : State) (a n : Nat) : Nat × Bool × State :=
  let r := s.loadLong a n
  (hashBytes (n / 8 + 1) 0 r.1, r.2)

def manifestEntry (g : RegionRec) (hash : Nat) : List Byte :=
  leBytes 4 g.region ++ leBytes 1 g.home ++ leBytes 3 0 ++ leBytes 8 g.addr0 ++ leBytes 8 g.bytes ++ leBytes 8 hash

/-- The manifest of an epoch (R451): bytes and whether a source word was poisoned (log 37). -/
def State.manifest (s : State) (n : Nat) : List Byte × Bool × State :=
  let rs := s.regionsUp
  let total := rs.foldl (fun t g => t + g.bytes) 0
  let head := leBytes 8 n ++ leBytes 4 rs.length ++ leBytes 8 total ++ leBytes 44 0
  rs.foldl (fun (acc : List Byte × Bool × State) g =>
    let r := acc.2.2.hashAt (g.place n) g.bytes
    (acc.1 ++ manifestEntry g r.1, acc.2.1 || r.2.1, r.2.2)) (head, false, s)

/-- A commit-record copy (R457). -/
def recordBytes (kind copy epoch pos mod seed cursor bank : Nat) (tab mhash : List Byte) (maddr : Nat) : List Byte :=
  let bs := leBytes 4 0xc0a1e064 ++ leBytes 2 1 ++ leBytes 1 kind ++ leBytes 1 copy ++ leBytes 8 epoch ++ leBytes 2 pos ++ leBytes 2 mod ++
    leBytes 4 0 ++ leBytes 8 seed ++ leBytes 8 cursor ++ leBytes 1 bank ++ leBytes 7 0 ++ tab ++ mhash ++ leBytes 8 maddr ++ leBytes 4 0
  bs ++ leBytes 4 (crc32 bs).toNat

/-- Is a record copy intact, and what the copies of a committed record agree in: every byte but COPY and CRC (R458)? -/
def recordIntact (bs : List Byte) : Bool :=
  leNat (bs.take 4) == 0xc0a1e064 && leNat ((bs.drop 4).take 2) == 1 && leNat ((bs.drop 0x7c).take 4) == (crc32 (bs.take 0x7c)).toNat
def recordCore (bs : List Byte) : List Byte := bs.take 7 ++ (bs.drop 8).take 0x74
/-- The record of an epoch that a store holds committed: two intact copies that agree (R458). -/
def committedCopy (epoch : Nat) (cs : List (List Byte)) : Option (List Byte) :=
  let good := cs.filter recordIntact
  good.find? fun c => leNat ((c.drop 8).take 8) == epoch && decide (1 < (good.filter fun d => recordCore d == recordCore c).length)
/-- Is the own bank of a region an intact source for an epoch (R464): the own record is committed, its manifest hashes to MHASH, and the region
hashes to its entry's HASH? -/
def State.ownIntact (s : State) (epoch : Nat) (g : RegionRec) : Bool :=
  let copies := (List.range 3).map fun c => s.peekAt (Config.recordAddr s.sec.imageHash 0 (epoch % 2) c) 128
  g.home == 0 && match committedCopy epoch copies with
    | none => false
    | some r =>
      let a := leNat ((r.drop 0x70).take 8) % 2 ^ 48
      let n := leNat ((s.peekAt a 12).drop 8)
      let man := s.peekAt a (64 + 32 * n)
      let h := s.hashAt (g.place epoch) g.bytes
      sha3 man == (r.drop 0x50).take 32 && !h.2.1 && (List.range n).any fun i =>
        leNat ((man.drop (64 + 32 * i)).take 4) == g.region && leNat ((man.drop (88 + 32 * i)).take 8) == h.1

/-- Writes copies 0, 1 and 2 of a record to the places of its kind and parity (R458). -/
def State.writeRecord (s : State) (kind epoch pos cursor : Nat) (man : List Byte) (maddr : Nat) : State :=
  let seed := match s.job.cur with | some d => d.seedEpoch.toNat | none => 0
  let tab := leBytes 32 (hdrTabId256 s.theTab).toNat
  (List.range 3).foldl (fun s c =>
    s.storeLong (Config.recordAddr s.sec.imageHash kind (epoch % 2) c)
      (recordBytes kind c epoch pos s.myModule seed cursor (epoch % 2) tab (sha3 man) maddr) false) s

/-- Address of the own manifest of an epoch's parity (R451, R616). -/
def State.manAddr (s : State) (n : Nat) : Nat := jobField s.theTab s.tab.pos s.tab.variant (if n % 2 = 0 then 16 else 24) 8

/-- Loader position for a step (R457). -/
def State.cursorFor (s : State) (step : Nat) : Nat := match nget? s.loader.marks step with | some p => p.1 | none => s.loader.cursor

/-- Offset of each manifest entry's region in a replica bank: each at a multiple of 4 KiB (R453). -/
def replicaOffs : Nat → List Nat → List Nat
  | _, [] => []
  | o, n :: ns => o :: replicaOffs ((o + n + 4095) / 4096 * 4096) ns

/-- The buddy's check of every region hash against the manifest (R459, row 4) (log 37). -/
def State.replicaOk (s : State) (man : List Byte) : Bool × State :=
  let n := leNat (man.take 8)
  let count := leNat ((man.drop 8).take 4)
  let field := fun i o k => leNat ((man.drop (64 + 32 * i + o)).take k)
  let sizes := (List.range count).map fun i => field i 16 8
  let base := Config.replicaBase s.sec.imageHash (n % 2)
  ((List.range count).zip (replicaOffs 0 sizes)).foldl (fun (acc : Bool × State) e =>
    let r := acc.2.hashAt (base + e.2) (field e.1 16 8)
    (acc.1 && !r.2.1 && r.1 == field e.1 24 8, r.2.2)) (true, s)

/-! Commits (R459 to R461). -/

/-- Rows complete in order. -/
def State.rowDone (s : State) (r : Nat) (f : State → State) : State :=
  if s.job.inStep && s.job.commitRow + 1 = r then f { s with job := { s.job with commitRow := r } } else s

/-- Haul engine of HB2 and of HB5, the buddy's side (R459). -/
def hub2 : Hub := 2
def hub5 : Hub := 5

/-- Row 3: the manifest, unless a source word is poisoned (R455) (log 37). -/
def State.manifestRow (s : State) : State :=
  let n := s.stepNo
  if s.job.inStep && s.job.commitRow = 2 then
    let m := s.manifest n
    if m.2.1 then m.2.2.haulFault hub2 4 true
    else
      let s := m.2.2.storeLong (s.manAddr n) m.1 false
      (s.rowDone 3 fun s => s.setFld (hubKey hub2 0x508) 1 0 2).say .manifest (n :: m.1.map BitVec.toNat)
  else s

/-- Row 4 at the buddy. -/
def State.buddyCheck (s : State) (pos cursor : Nat) (man : List Byte) : State :=
  let n := leNat (man.take 8)
  let r := s.replicaOk man
  let s := r.2
  if r.1 then
    let maddr := Config.replicaManifest s.sec.imageHash (n % 2)
    let s := (s.storeLong maddr man false).writeRecord 1 n pos cursor man maddr
    ({ s with job := { s.job with buddyDone := true } }.say .commitAck [n, pos])
  else (s.countHub hub5 0xa3).haulFault hub5 2 false

/-- Row 1: the last write of the copy engines is committed. -/
def State.copiesDone (s : State) : Bool := s.hubs.all fun p => p.2.engines.isEmpty
/-- Row 2: every replica send of the step has gone to its last byte. -/
def State.replicasSent (s : State) : Bool :=
  s.myLinks.zipIdx.all fun e => e.1.dir != 0 || !s.haulEntry e.2 ||
    s.ports.any fun p => p.1 % 8 == e.1.port && decide (e.1.bytes ≤ (nget p.2.outXfer e.2 ⟨0, 0, 0, 0⟩).bytes)

def State.commitRow (s : State) (row : CommitRow) : State :=
  let n := s.stepNo
  match row with
  | .copyOut => if s.copiesDone then s.rowDone 1 id else s
  | .replica => if s.replicasSent then s.rowDone 2 id else s
  | .manifest => s.manifestRow
  | .buddyCheck pos cursor man => s.buddyCheck pos cursor.toNat man
  | .acknowledged => s.rowDone 4 id
  | .ownRecord => s.rowDone 5 fun s =>
      let maddr := s.manAddr n
      let man := s.peekAt maddr (64 + 32 * s.regionsUp.length)
      (s.writeRecord 0 n s.tab.pos (s.cursorFor (n + 1)) man maddr).setFld (hubKey hub2 0x508) 1 0 0
  | .report => s.rowDone 6 fun s =>
      let s := allHubs.foldl (fun s h => s.setReg (hubKey h 0x510) (BitVec.ofNat 64 (2 ^ 40 + n))) s
      (s.countHub hub2 0xa2).say .commitReport [s.tab.pos, n]

/-- The commit deadline of the STEP_END segment (R459): the hub whose row has not completed records cause 1 (log 38). -/
def State.commitLate (s : State) : State :=
  let seg : Bool := match s.segNow with | some g => g.stepEnd | none => false
  if !s.job.inStep || !seg then s
  else
    let s := s.reach (s.job.segStart + 2 * jobField s.theTab s.tab.pos s.tab.variant 8 4)
    let copying := allHubs.filter fun h => !(s.hub h).engines.isEmpty
    let own := if s.job.commitRow = 6 then [] else if s.job.commitRow = 0 && !copying.isEmpty then copying else [hub2]
    let s := own.foldl (fun s h => s.haulFault h 1 true) s
    if s.job.buddyDone || own.contains hub5 then s else s.haulFault hub5 1 true

/-- The manager collects commit reports (R460). -/
def State.commitReported (s : State) (pos epoch : Nat) : State :=
  if !s.isManager then s
  else
    let rs := if s.mgr.reports.contains (epoch, pos) then s.mgr.reports else (epoch, pos) :: s.mgr.reports
    let s := { s with mgr := { s.mgr with reports := rs } }
    let want := if s.mgr.roles.isEmpty then List.range s.tab.rxPositions else s.mgr.roles.map Prod.fst
    if !want.isEmpty && want.all fun p => rs.contains (epoch, p) then
      let s := { s with mgr := { s.mgr with committed := some epoch, reports := rs.filter fun r => r.1 != epoch } }
      (s.say .commitNotice [epoch]).say .commitIdentity [epoch]
    else s

/-- The notice at a module (R32, R460). -/
def State.commitNoticed (s : State) (epoch : Nat) : State :=
  let s := allHubs.foldl (fun s h => s.setReg (hubKey h 0x518) (BitVec.ofNat 64 (2 ^ 40 + epoch % 2 ^ 40))) s
  { s with job := { s.job with heldInputs := s.job.heldInputs.filter fun n => epoch < n } }

/-! The vault (R456). -/

def State.allHubFld (s : State) (off hi lo v : Nat) : State := allHubs.foldl (fun s h => s.setFld (hubKey h off) hi lo v) s
def State.vaultSlot (s : State) (v : Nat) : Nat := (v / max s.vaultK 1) % 2
/-- Is a drive of the slot out (R574)? (log 38) -/
def State.slotStopped (s : State) (slot : Nat) : Bool := s.mgt.drivesOut.any fun d => (Config.vaultSlotOf s.sec.imageHash d).val == slot

/-- The drain of the staged epoch begins (log 38). -/
def State.vaultDrain (s : State) : State :=
  match s.mgt.staged, s.mgt.draining with
  | some v, none =>
    let ex := if s.fld (hubKey 0 0x500) 16 16 = 1 then some v else none
    ({ s with mgt := { s.mgt with staged := none, draining := some v, exporting := ex } } : State).allHubFld 0x520 41 41 1
  | _, _ => s

/-- What the drain of an epoch leaves in its slot: the staged regions in manifest order, their manifest, the record copies of KIND 2, and the
descriptor log. DESIGN CHOICE (log 38): MADDR of a vault record is 0, for the spec gives no address on a drive. -/
def State.vaultImage (s : State) (v : Nat) : VaultSlot :=
  let rs := s.regionsUp.map fun g => (g, match nget? s.mgt.stagedRegions g.region with | some a => s.peekAt a.1 a.2 | none => [])
  let total := rs.foldl (fun t g => t + g.1.bytes) 0
  let man := leBytes 8 v ++ leBytes 4 rs.length ++ leBytes 8 total ++ leBytes 44 0 ++
    rs.flatMap fun g => manifestEntry g.1 (hashBytes (g.2.length / 8 + 1) 0 g.2)
  { epoch := v, manifest := man, regions := rs.map fun g => (g.1.region, g.2)
    records := (List.range 3).map fun c => recordBytes 2 c v s.tab.pos s.myModule s.mgt.stagedSeed (s.cursorFor (v + 1)) (s.vaultSlot v)
      (leBytes 32 (hdrTabId256 s.theTab).toNat) (sha3 man) 0
    log := s.mgr.descLog }
/-- The manager's descriptor log goes back to the oldest vault epoch (R465). -/
def State.trimLog (s : State) : State :=
  match s.mgt.vault.map fun p => p.2.epoch with
  | [] => s
  | e :: es =>
    let low := es.foldl min e
    { s with mgr := { s.mgr with descLog := s.mgr.descLog.filter fun d => low ≤ d.step.toNat } }

/-- The drain commits: the slot holds the epoch; an export that has not finished is abandoned (log 38). -/
def State.vaultCommit (s : State) (exported : Bool) : State :=
  match s.mgt.draining with
  | some v =>
    if s.slotStopped (s.vaultSlot v) then s
    else
      let s := if s.mgt.exporting == some v && !exported then s.countHub hub2 0xa1 else s
      let s := ({ s with mgt := { s.mgt with
        draining := none, exporting := none, vault := nset s.mgt.vault (s.vaultSlot v) (s.vaultImage v) } } : State).trimLog
      allHubs.foldl (fun s h => ((s.setFld (hubKey h 0x520) 39 0 v).setFld (hubKey h 0x520) 41 40 1)) s
  | none => s

/-! Restore and restart (R463 to R466, R469). -/

/-- Writes a region from its source (R464): the own bank as it stands when it is intact, the buddy's replica as it came (bytes by their offset,
others 0), the own vault slot when it holds the epoch, else the vault's bytes as they came (log 39). -/
def State.restoreRegion (s : State) (epoch : Nat) (r : RestoreRegion) : State :=
  match s.myRegions.find? fun g => g.region == r.region with
  | none => s
  | some g =>
    if r.source = 1 then (if s.ownIntact epoch g then s else s.haulFault hub2 6 false)
    else if r.source = 2 || r.source = 3 then
      let sent := (List.range g.bytes).map fun i => (((r.bytes.find? fun b => b.1 == i).map Prod.snd).getD 0 : Byte)
      let kept := (s.mgt.vault.find? fun v => v.2.epoch == epoch).bind fun v => nget? v.2.regions g.region
      let bs := if r.source = 3 then kept.getD sent else sent
      (s.storeLong (g.place epoch) bs false).countHub hub2 0xa5 (g.bytes / 64)
    else s.haulFault hub2 6 false

/-- Restores what a candidate names, sets DRS_STEP and the loader, and waits for step e + 1 (R464, R465) (log 39). -/
def State.restoreFrom (s : State) (variant : Nat) (c : RestoreCandidate) : State :=
  let e := c.epoch.toNat
  let s := { s with tab := { s.tab with variant := variant } }
  let s := c.regions.foldl (fun s r => s.restoreRegion e r) s
  let s := s.liveBenches.foldl (fun s b => s.setFld (benchKey b.1 0x310) 39 0 e) s
  let held := match nget? s.loader.marks (e + 1) with | some p => p.2 | none => c.held
  let s := { s with
    loader := { s.loader with cursor := c.cursor.toNat, held := held, marks := [(e + 1, c.cursor.toNat, held)] }
    job := { s.job with
      cur := none, next := none, last := none, stepDone := false, abandon := false, missed := none
      heldInputs := s.job.heldInputs.filter (· == e + 1), restored := s.tabState != tabRunning } }
  if s.isManager then { s with mgr := { s.mgr with lastSent := none } }.say .restoreFrom [e] else s

/-- The latest of the candidates that have an intact source for every region of every position (R463). -/
def latestIntact (cs : List RestoreCandidate) : Option RestoreCandidate :=
  (cs.filter fun c => c.intact).foldl (fun b c => match b with
    | some x => if x.epoch < c.epoch then some c else b
    | none => some c) none

/-- RESTART: the latest candidate with an intact source for every region; one of another tab is refused (R82). DESIGN CHOICE (log 39): with no
tab loaded there is no TAB_ID to compare, and the epoch is restored. -/
def State.restart (s : State) (variant : Nat) (cands : List RestoreCandidate) : State :=
  if s.job.inStep then s
  else match latestIntact cands with
    | none => (s.haulFault hub2 6 false).say .restoreRefused []
    | some c =>
      if s.tab.loaded.isSome && c.tabId != hdrTabId256 s.theTab then s.say .restoreRefused [c.epoch.toNat]
      else s.restoreFrom variant c

/-! Meanings. -/

def execHaulStart (h : Hub) (d : BitVec 512) (s : State) : Out := .next (s.haulStart h d)
def execCommitEpoch (row : CommitRow) (s : State) : Out := .next (s.commitRow row)
def execCommitDeadline (s : State) : Out := .next s.commitLate
def execCommitReport (pos : Nat) (epoch : BitVec 40) (s : State) : Out := .next (s.commitReported pos epoch.toNat)
def execJobCommitNotice (epoch : BitVec 40) (s : State) : Out := .next (s.commitNoticed epoch.toNat)
def execVaultDrain (s : State) : Out := .next s.vaultDrain
def execVaultDrainCommit (exported : Bool) (s : State) : Out := .next (s.vaultCommit exported)
def execRestart (variant : Nat) (cands : List RestoreCandidate) (s : State) : Out := .next (s.restart variant cands)

end Sys2Proof.Machine
end

