-- ==== Sys2Proof/Machine/Ecc.lean ====
section
/-!
DEFINITION. Scrubbing, hard failures, remap and retirement, triplicated words and flip masks (R509 to R532).
-/
namespace Sys2Proof.Machine

/-! Stores. -/

def errAt (s : State) (st : StoreRef) (addr : Nat) : BitVec 288 :=
  match s.errs.find? fun e => e.1 == st && e.2.1 == addr with
  | some e => e.2.2
  | none => 0
/-- Sets the stored damage of a word. -/
def State.setErr (s : State) (st : StoreRef) (addr : Nat) (m : BitVec 288) : State :=
  let rest := s.errs.filter fun e => !(e.1 == st && e.2.1 == addr)
  { s with errs := if m = 0 then rest else (st, addr, m) :: rest }

/-- What an uncorrectable word of a register file poisons (log 32). -/
def State.poisonWord (s : State) (st : StoreRef) (addr : Nat) : State :=
  match st with
  | .accFile c => s.updCore c fun x => { x with bad := sinsert x.bad (aRegOf addr) }
  | .registers c => s.updCore c fun x => { x with bad := sinsert x.bad (if addr < 32 then addr else 64 + (addr - 32) / 8 % 64) }
  | _ => s
where
  aRegOf (a : Nat) : Nat := 128 + a / 8 % 64

/-- First word of its lap that a scrubber has not passed. -/
def State.scrubNext (s : State) (st : StoreRef) : Nat := ((s.scrubPos.find? fun e => e.1 == st).map Prod.snd).getD 0
/-- Is a word the scrubber's next access: a queued write-back, or a word that it has not passed in its lap (R512, R524)? Words passed over are
intact, and their scrub changes nothing (log 32). -/
def State.scrubDue (s : State) (st : StoreRef) (addr : Nat) : Bool := s.writeBacks.contains (st, addr) || s.scrubNext st ≤ addr
/-- The scrubber has read a word. -/
def State.scrubPass (s : State) (st : StoreRef) (addr : Nat) : State :=
  if s.writeBacks.contains (st, addr) then { s with writeBacks := s.writeBacks.erase (st, addr) }
  else { s with scrubPos := (st, addr + 1) :: s.scrubPos.filter fun e => e.1 != st }

/-- The next word of a scrubber (R512, R513, R515, R524): `strike` joins the damage the model stored (log 32). -/
def State.scrub (s : State) (st : StoreRef) (addr : Nat) (strike : BitVec 288) (claimed overwritten : Bool) : State :=
  let old := errAt s st addr
  let m := old ^^^ strike
  let own := (storeOwner st).1
  let code := (storeOwner st).2
  let s := s.setErr st addr m
  if !s.scrubDue st addr then s
  else if claimed then s.countStore st (some 0x63) none
  else
    let s := (s.scrubPass st addr).countStore st (some 0x62) (some 0x8e)
    let n := damage (isLpddr st) m
    let known := match st with
      | .localStore _ | .clusterStore _ | .lpddr _ => smem s.poison addr
      | _ => false
    if known || n = 0 then s
    else if n = 1 then
      let s := s.eccRecord own (s.eccAddr st addr) code false
      let s := s.setErr st addr 0
      if overwritten then s
      else
        let s := s.countStore st (some 0x64) none
        let place := cePlace st addr m
        if s.seenCe.contains place then s.hardFail st addr false else { s with seenCe := place :: s.seenCe }
    else if n = 2 then (s.foundUe own st addr).poisonWord st addr
    else s.drew

/-! Laps (R526, R530). -/

def State.lapLimit (s : State) : Nat := s.fld (mgtKey 0x230) 15 0 * 3600

/-- A lap ends: its length, the count, and the warning when it was too long. -/
def State.lapEnd (s : State) (st : StoreRef) (secs : Nat) : State :=
  let s := { s with seenCe := s.seenCe.filter fun e => e.1 != st, scrubPos := s.scrubPos.filter fun e => e.1 != st }
  let (k, s) : Nat × State := match (storeOwner st).1, st with
    | .inl b, _ => (benchKey b 0x270, (s.setFld (benchKey b 0x270) 31 0 secs).countBench b 0x65 none 1)
    | .inr h, .lpddr c =>
      let s := s.updHub h fun x => { x with laps := nset x.laps c.chan secs }
      let best := (s.hub h).laps.foldl (fun (a : Nat × Nat) p => if a.2 < p.2 then p else a) (c.chan.val, secs)
      (hubKey h 0x610, (s.setFld (hubKey h 0x610) 31 0 best.2).setFld (hubKey h 0x610) 53 48 best.1)
    | .inr h, _ => (hubKey h 0x610, s)
  let s := s.setFld k 47 32 ((s.fld k 47 32 + 1) % 2 ^ 16)
  if s.lapLimit < secs then
    (((s.setFld k 54 54 1).countStore st (some 0x6e) none).log 0 1 false 526 (k / 2 ^ 17) secs).say .warning [526, k]
  else s

/-! Triplicated words (R516 to R518). -/

/-- Registers stored as three copies. -/
def isTriple (k : Nat) : Bool :=
  let off := keyOff k
  match blockOf (keyDie k) (keyBench k) (keyCore k) with
  | some .mgmt => [0x40, 0x48, 0x50, 0x58, 0x60, 0x108, 0x110, 0x118, 0x120, 0x140, 0x148, 0x150, 0x1c0, 0x1e0].contains off ||
      (0x300 ≤ off && off ≤ 0x370)
  | some .compute => off == 0x100 || off == 0x148
  | some .hub => 0x1000 ≤ off && off < 0x1e00
  | _ => false

/-- The critical-state fault of the die that holds a triple (R517). -/
def State.criticalFault (s : State) (die : Nat) : State :=
  let s := ((s.setFld (mgtKey 0x238) 32 32 1).setFld (mgtKey 0x238) 38 33 die).say .criticalFault [die]
  if die < 28 then s.unitFailed die 0xf0 517 else s.beyond die 0xf0 517

/-- A triple is read with these three copies. A software write of the same cycle stays in all three (R518). -/
def State.vote (s : State) (k : Nat) (a b c : Word64) : State :=
  let put := fun (v : Word64) => if s.cycle.soft.contains k then s else s.setReg k v
  if !isTriple k then s
  else if a = b && b = c then s
  else if a = b || a = c || b = c then
    let v := if a = b || a = c then a else b
    (put v).satFld (mgtKey 0x238) 31 0 1
  else (put ((a &&& b) ||| (a &&& c) ||| (b &&& c))).criticalFault (keyDie k)

/-! Flip masks (R527 to R529). -/

/-- Is the offset a flip register of its block: 0 or 1? -/
def flipReg (k : Nat) : Option Nat :=
  match blockOf (keyDie k) (keyBench k) (keyCore k), keyOff k with
  | some .core, 0x48 => some 0
  | some .core, 0x50 => some 1
  | some .bench, 0x278 => some 0
  | some .bench, 0x280 => some 1
  | some .hub, 0x618 => some 0
  | some .hub, 0x620 => some 1
  | _, _ => none
/-- Key of FLIP1 beside either. -/
def flip1 (k : Nat) (n : Nat) : Nat := if n = 0 then k + 8 else k
def State.flipArmed (s : State) (k1 : Nat) : Bool := s.fld k1 10 10 == 1

/-- Writes a flip register: discarded while it is armed, and while RUNNING when it arms or changes the mask (R528) (log 32). -/
def State.wFlip (s : State) (k : Nat) (v : Word64) : Bool × State :=
  match flipReg k, blockOf (keyDie k) (keyBench k) (keyCore k) with
  | some n, some blk =>
    match regSpec blk (keyOff k) with
    | none => (false, s)
    | some sp =>
      let new := typedWrite sp (s.reg k) v
      let arms := n == 1 && v.getLsbD 10
      let changes := (new ^^^ s.reg k) &&& (if n = 0 then 0xffffffffffffffff#64 else 0xff#64) != 0
      if s.flipArmed (flip1 k n) then (true, s)
      else if s.tabState == tabRunning && (arms || changes) then (true, s)
      else
        let s := s.setReg k new
        let s := if arms then (match benchOfKey2 k with | some b => s.countBench b 0x6f none 1 | none => s) else s
        (false, s)
  | _, _ => (false, s)
where
  benchOfKey2 (k : Nat) : Option BenchId :=
    match finOf? 28 (keyDie k), finOf? 180 (keyBench k) with
    | some d, some b => some ⟨d, b⟩
    | _, _ => none

/-- FLIP1 of the block that holds a store, and the mask it puts on a codeword, when SEL, QUARTER and CHANNEL name the store (log 32). -/
def State.flipFor (s : State) (st : StoreRef) : Option (Nat × BitVec 288) :=
  let mask := fun k1 => (s.reg (k1 - 8)).toNat + 2 ^ 64 * s.fld k1 7 0
  let pick := fun k1 (sel : Nat) => if s.fld k1 9 8 = sel then some (k1, BitVec.ofNat 288 (mask k1)) else none
  match st with
  | .localStore c => pick (coreKey c 0x50) 0
  | .l1 c => pick (coreKey c 0x50) 1
  | .tabBuffer c => pick (coreKey c 0x50) 2
  | .accFile c => pick (coreKey c 0x50) 3
  | .clusterStore b => some (benchKey b 0x280, BitVec.ofNat 288 (mask (benchKey b 0x280)))
  | .lpddr c =>
    let k1 := hubKey c.hub 0x620
    if s.fld k1 16 11 = c.chan.val then some (k1, BitVec.ofNat 288 (mask k1 <<< (72 * s.fld k1 9 8))) else none
  | _ => none

/-- The next write to an armed block is stored with the mask, which then clears with ARMED (R527); a write in the cycle of the arming is stored
unchanged (R528) (log 32). -/
def State.flipWrite (s : State) (st : StoreRef) (addr : Nat) : State :=
  match s.flipFor st with
  | none => s
  | some (k1, m) =>
    if !s.flipArmed k1 || (s.freshBits k1).getLsbD 10 then s
    else
      let s := s.setErr st addr (errAt s st addr ^^^ m)
      (((s.setReg (k1 - 8) 0).setFld k1 7 0 0).setFld k1 10 10 0).countStore st (some 0x66) none

/-! Meanings. -/

def execScrubAccess (st : StoreRef) (addr : Nat) (strike : BitVec 288) (claimed : Bool) (overwritten : Bool) (s : State) : Out :=
  .next (s.scrub st addr strike claimed overwritten)
def execScrubLapEnd (st : StoreRef) (seconds : BitVec 32) (s : State) : Out := .next (s.lapEnd st seconds.toNat)
def execVoteRepair (addr : Addr) (c0 c1 c2 : Word64) (s : State) : Out := .next (s.vote (storeKey (addr.toNat % 2 ^ 38)) c0 c1 c2)

/-- The copy of a retired block to its spare is done; the entry becomes VALID at the next segment start (R522). -/
def execPageRetireCopy (c : ChanId) (k : Fin 8) (s : State) : Out :=
  .next (let key := retireKey c.hub c.chan k
    if s.fld key 24 24 = 1 && !(s.hub c.hub).retired.contains (8 * c.chan.val + k.val) then
      let src := 2 ^ 35 * c.key + 4096 * s.fld key 22 0
      let dst := 2 ^ 35 * c.key + retireBase + 4096 * k
      let s := (List.range 128).foldl (fun s i =>
        let r := s.load (src + 32 * i) 32
        (r.2.2.storeUnit (dst + 32 * i) r.1 r.2.1 (dst + 32 * i)).2) s
      (s.countHub c.hub 0x8d).updHub c.hub fun x => { x with retired := x.retired ++ [8 * c.chan.val + k.val] }
    else s)

def execFlipArm (o : Origin) (addr : Addr) (v : Word64) (s : State) : Out :=
  .next (s.originWrite o addr.toNat fun s => s.wFlip (addr.toNat % 2 ^ 38) v)
def execFlipCorruptWrite (st : StoreRef) (addr : Nat) (s : State) : Out := .next (s.flipWrite st addr)

end Sys2Proof.Machine
end

