-- ==== Sys2Proof/Machine/Windows.lean ====
section
/-!
DEFINITION. Tuning windows (R75 to R78, R617): their start and end, what a maintenance atom does in one (R342 to R345, R502, R505,
R524, R578 to R580), and requests queued to a window.
-/
namespace Sys2Proof.Machine

/-- An entry open now that carries a class and frees a unit. -/
def State.openFor (s : State) (entry cls u : Nat) : Bool :=
  s.job.windows.contains entry && match s.myWindows[entry]? with
    | some w => w.cls.testBit cls && w.frees u
    | none => false

/-- The entry opens in its segment (R75). -/
def State.windowOpen (s : State) (entry : Nat) : State :=
  match s.myWindows[entry]? with
  | none => s
  | some w =>
    if s.job.inStep && s.job.seg == w.seg && !s.job.windows.contains entry then
      let s := s.reach (s.job.segStart + 4 * w.start)
      { s with job := { s.job with windows := s.job.windows ++ [entry] } }
    else s

/-- Begin of an entry's window in the step that starts at `base` ns of the timebase. -/
def State.windowBegin (s : State) (base : Nat) (w : Window) : Nat := base + ((segOf s.theTab w.seg).map Seg.offset).getD 0 + w.start

/-- Start, in ns, of the step that runs or comes next. -/
def State.stepBase (s : State) : Option Nat :=
  if s.job.inStep then s.job.cur.map fun d => d.start.toNat
  else match s.nextDesc with
    | some d => some d.start.toNat
    | none => s.job.last.map fun d => d.start.toNat + hdrStepNs s.theTab

/-- The next window, with its begin, that frees all the units and carries a class: it begins in a later fabric cycle than this one (R78). -/
def State.nextWindow (s : State) (us : List Nat) (cls : Nat) : Option (Nat × Nat) :=
  match s.stepBase with
  | none => none
  | some base =>
    let at' := fun (w : Window) =>
      let t := s.windowBegin base w
      if s.now / 2 < s.atTb t / 2 then t else t + hdrStepNs s.theTab
    let fits := (s.myWindows.zipIdx.filter fun p => p.1.cls.testBit cls && us.all p.1.frees).map fun p => (p.2, at' p.1)
    fits.foldl (fun (b : Option (Nat × Nat)) p => match b with
      | some q => if p.2 < q.2 then some p else b
      | none => some p) none

/-- A request for self-test or calibration (R78): queued, or DEFERRED; without a running job no window begins (log 33). -/
def State.selfTestAsk (s : State) (rq : Rq) (us : List Nat) (cls deadline : Nat) : State :=
  if us.isEmpty || !us.all unitFormOk then s.reply rq stMalformed []
  else if !us.all unitExists then s.reply rq stNotFound []
  else match s.tabState == tabRunning, s.nextWindow us cls with
    | true, some p =>
      if p.2 < deadline then { s with job := { s.job with queued := s.job.queued ++ [(p.1, p.2, us, cls)] } }.reply rq stOk []
      else s.reply rq stDeferred []
    | _, _ => s.reply rq stDeferred []

/-! Atoms. -/

/-- Unit code of a physical die (CSR code): a compute die by its logical number, a free stack by kind 6. -/
def State.dieUnit (s : State) (die : Nat) : Nat :=
  if die < 28 then (match s.dieLog die with | some l => if l < 27 then 2 ^ 28 + l else 6 * 2 ^ 28 | none => 6 * 2 ^ 28)
  else if 32 ≤ die && die < 38 then 2 * 2 ^ 28 + (die - 32)
  else 5 * 2 ^ 28 + die % 2
/-- Key of a reading (R567). -/
def sensorKey (kind die index : Nat) : Nat := kind * 16384 + die * 256 + index
def putReadings (m : NMap (BitVec 16 × Bool × Nat)) (kind die t : Nat) (xs : List (BitVec 16)) : NMap (BitVec 16 × Bool × Nat) :=
  xs.zipIdx.foldl (fun m p => nset m (sensorKey kind die p.2) (p.1, true, t)) m

/-- Hottest thermal reading held, in 1/16 degree, with its die (R508): the lowest key first among equals (log 33). -/
def hottest (m : NMap (BitVec 16 × Bool × Nat)) : Option (Int × Nat) :=
  m.foldl (fun b p =>
    if p.1 < 16384 && p.2.2.1 then
      let v := p.2.1.toInt
      match b with
      | some q => if q.1 < v then some (v, p.1 / 256) else b
      | none => some (v, p.1 / 256)
    else b) none

/-- A sensor sweep of a die and what its hottest reading asks for, when it has one (R502, R565) (log 33). -/
def State.sweep (s : State) (die : Nat) (thermal volts amps : List (BitVec 16)) : State :=
  let m := putReadings s.mgt.sensors 0 die s.tbNow (thermal.take 16)
  let m := putReadings (putReadings m 1 die s.tbNow (volts.take 256)) 2 die s.tbNow (amps.take 256)
  let md : Md := if die = 41 then 1 else 0
  let s := ({ s with mgt := { s.mgt with sensors := m } } : State).countMd md 0xb7
  let hot := (thermal.take 16).foldl (fun (b : Int) v => max b v.toInt) (-32768)
  let s := match hottest m with
    | some (v, d) => ((s.setFld (mgtKey 0x208) 7 0 (wrapInt 8 (v.fdiv 16))).setFld (mgtKey 0x208) 13 8 d).setFld (mgtKey 0x208) 20 20
        (if 95 * 16 ≤ v then 1 else 0)
    | none => s
  let s := if 95 * 16 ≤ hot then
      let s := match finOf? 28 die with | some d => s.countDie d 0x7f | none => s
      s.log md 1 false 502 (0xf0 * 2 ^ 7 + 2 ^ 15 * die) (wrapInt 16 hot)
    else s
  if 105 * 16 < hot then s.thermal 1 die else if !thermal.isEmpty && decide (hot < 0) then s.thermal 3 die else s

/-- A bench's self-test ends (R578, R579); a spare that fails is consumed (log 33). -/
def State.tested (s : State) (b : BenchId) (result : Nat) : State :=
  let k := benchKey b 0x290
  if result = 0 then s.setFld k 1 0 1
  else
    let s := ((s.setFld k 1 0 2).setFld k 3 2 (result - 1)).satFld k 31 16 1
    if s.isSpare b && !s.benchFenced b && !(s.die b.die).spareUnfit.contains b.bench.val then
      (s.updDie b.die fun x => { x with spareUnfit := x.spareUnfit ++ [b.bench.val] }).service
        (if (s.dieLog b.die).any (· == 27) then 0 else 1)
    else s

/-- A unit is served for the requests whose window has begun; a request whose units are all served leaves the queue (log 33). -/
def State.served (s : State) (entry u cls : Nat) : State :=
  let serve := fun (q : Nat × Nat × List Nat × Nat) =>
    if q.1 == entry && decide (q.2.1 ≤ s.tbNow) && q.2.2.2 == cls then (q.1, q.2.1, q.2.2.1.filter (· != u), cls) else q
  { s with job := { s.job with queued := (s.job.queued.map serve).filter fun q => !q.2.2.1.isEmpty } }

/-- An atom completes in an open window that frees its unit for its class (R77) (log 33). -/
def State.atom (s : State) (entry : Nat) (a : Atom) : State :=
  match a with
  | .refresh c sub =>
    if s.openFor entry 0 (chanUnit c) then
      let k := 2 * c.chan.val + sub.val
      ((s.updHub c.hub fun x => { x with debt := nset x.debt k (nget x.debt k 0 - 1) }).countHub c.hub 0x84)
    else s
  | .zqLatch c => if s.openFor entry 0 (chanUnit c) then (s.countHub c.hub 0x86).served entry (chanUnit c) 0 else s
  | .rateRead c rate =>
    if s.openFor entry 0 (chanUnit c) && rate != 3#2 then
      let n := c.chan.val / 28
      let k := c.chan.val % 28
      let s := (s.setFld (hubKey c.hub (0x428 + 8 * n)) (2 * k + 1) (2 * k) rate.toNat).countHub c.hub 0x87
      if s.fld (hubKey c.hub 0x420) 1 0 ≤ rate.toNat then s.dramFault c.hub 1 c.chan 0 else s
    else s
  | .phyRetrain c => if s.openFor entry 1 (chanUnit c) then s.served entry (chanUnit c) 1 else s
  | .ucieRetrain => if s.openFor entry 1 (7 * 2 ^ 28) then s.served entry (7 * 2 ^ 28) 1 else s
  | .sensorSweep die t v i =>
    if (blockOf die 0xf0 0).isSome && s.openFor entry 2 (s.dieUnit die) then (s.sweep die t v i).served entry (s.dieUnit die) 2 else s
  | .scrub b words => if s.openFor entry 3 (s.benchUnit b) then s.countBench b 0x62 none words else s
  | .selfTest b r =>
    if s.openFor entry 4 (s.benchUnit b) then (s.served entry (s.benchUnit b) 4).tested b r else s
  | .service md => if s.openFor entry 5 (5 * 2 ^ 28 + md) then s.served entry (5 * 2 ^ 28 + md) 5 else s

/-- BENCH_SELFTEST.LAST of a self-test abandoned at the window's end (R579) (log 33). -/
def State.abandonTest (s : State) (u : Nat) : State :=
  if u / 2 ^ 28 = 0 then
    match s.benchAt (bitsOf u 12 8) (bitsOf u 7 0) with
    | some b => s.setFld (benchKey b 0x290) 1 0 3
    | none => s
  else s

/-- A unit of a queued request was not served: an abandoned self-test says so, an abandoned channel atom counts (R579). -/
def State.abandonAtom (s : State) (cls u : Nat) : State :=
  let s := if cls = 4 then s.abandonTest u else s
  if u / 2 ^ 28 = 3 then (match finOf? 6 (u % 2 ^ 28 / 256) with | some h => s.countHub h 0x85 | none => s) else s

/-- The window ends (R77): a queued request that it did not serve goes to the next window for it. -/
def State.windowEnd (s : State) (entry : Nat) : State :=
  match s.myWindows[entry]?, s.job.windows.contains entry with
  | some w, true =>
    let s := s.reach (s.job.segStart + 4 * (w.start + w.length))
    let s := { s with job := { s.job with windows := s.job.windows.erase entry } }
    let late := s.job.queued.filter fun q => q.1 == entry && q.2.1 < s.tbNow
    let s := { s with job := { s.job with queued := s.job.queued.filter fun q => !(q.1 == entry && q.2.1 < s.tbNow) } }
    late.foldl (fun s q =>
      let s := q.2.2.1.foldl (fun s u => s.abandonAtom q.2.2.2 u) s
      match s.nextWindow q.2.2.1 q.2.2.2 with
      | some p => { s with job := { s.job with queued := s.job.queued ++ [(p.1, p.2, q.2.2)] } }
      | none => s) s
  | _, _ => s

/-! Meanings. -/

def execTuningWindowOpen (entry : Nat) (s : State) : Out := .next (s.windowOpen entry)
def execMaintenanceAtom (entry : Nat) (a : Atom) (s : State) : Out := .next (s.atom entry a)
def execTuningWindowEnd (entry : Nat) (s : State) : Out := .next (s.windowEnd entry)
def execSelftestRequest (rq : Rq) (units : List (BitVec 32)) (cls : Fin 6) (deadline : BitVec 64) (s : State) : Out :=
  .next (s.onRequest rq 0x60 6 fun s => s.selfTestAsk rq (units.map BitVec.toNat) cls deadline.toNat)

end Sys2Proof.Machine
end

