-- ==== Sys2Proof/Machine/Absorb.lean ====
section
/-!
DEFINITION. Single-fault absorption (R467 to R477): status polls, spare stacks and benches, package retirement, the flash records of
spares, and faults beyond the module; and the record block as the controller updates it (R536 to R538).
-/
namespace Sys2Proof.Machine

/-! The record block in flash (R537, R538). -/

/-- SEQ in force. -/
def State.recordSeq (s : State) : Nat := s.flash.copies.foldl (fun m c => max m c.seq) 0
/-- Copies 0, 1 and 2 are written in turn with the same new SEQ. -/
def State.flushRecord (s : State) : State :=
  let q := s.recordSeq + 1
  { s with flash := { s.flash with copies := s.flash.copies.map fun _ => ⟨true, true, q, s.sec.record⟩ } }
def State.updRecord (s : State) (f : RecordBody → RecordBody) : State := { s with sec := { s.sec with record := f s.sec.record } }

/-- Service bits and retired package as MGT_SERVICE has them (R476, R481). -/
def State.noteService (s : State) : State :=
  s.updRecord fun r => { r with
    service := BitVec.ofNat 4 (s.fld (mgtKey 0x1e0) 3 0)
    retiredPkg := s.fld (mgtKey 0x1e0) 22 16 }
/-- The spare records: the fenced stack and the benches that replace others. -/
def State.noteSpares (s : State) : State :=
  let f := s.fld (mgtKey 0x60) 13 8
  let benches := (allDies.map fun (d : Die) => (List.range 4).filterMap fun k =>
    if s.spareLog d k < 176 then some (d.val, k, s.spareLog d k) else none).flatten
  s.updRecord fun r => { r with
    failedStack := if f < 28 then some f else none, spareBenches := benches
    service := r.service ||| (if f < 28 then 1#4 else 0#4) ||| (if benches.isEmpty then 0#4 else 2#4) }

/-! Status polls (R467, R563). -/

/-- Key of the unit polled within its die. -/
def pollKey (b : Option (Fin 180)) : Nat := match b with | some b => b.val | none => 0xf0
/-- Does MD0's controller restart now: within 50 ms of its watchdog's expiry? -/
def State.pollsPaused (s : State) : Bool :=
  match nget? s.mgt.ctrlRestart 0 with
  | some t => decide (s.now < 200000000 + t)
  | none => false

def State.poll (s : State) (d : Die) (b : Option (Fin 180)) (answered : Bool) : State :=
  let k := pollKey b
  if s.pollsPaused || s.dieFenced d then s
  else if answered then s.updDie d fun x => { x with missedPolls := nerase x.missedPolls k }
  else
    let n := nget (s.die d).missedPolls k 0 + 1
    let s := s.updDie d fun x => { x with missedPolls := nset x.missedPolls k n }
    if n = 3 then s.unitFailed d k 467 else s

/-! Absorption in the orders of R468. -/

def State.absorbed (s : State) (u : Nat) : Nat := nget s.mgt.absorbing u 0
def State.setAbsorbed (s : State) (u n : Nat) : State := { s with mgt := { s.mgt with absorbing := nset s.mgt.absorbing u n } }

/-- An order is taken when the one before it is done (order 4 does not apply to a bench, R471); orders 1 to 3 at any time (log 40). -/
def State.orderTurn (s : State) (u order : Nat) (bench : Bool) : Bool :=
  let d := s.absorbed u
  (1 ≤ order && order ≤ 3) || d + 1 == order && 3 ≤ d || (bench && order == 5 && d == 3)

/-- Order 3 of a new unit: an absorption under way begins again from its own order 3 (R475) (log 40). -/
def State.beginAbsorb (s : State) (u : Nat) : State :=
  let rest := s.mgt.absorbing.map fun (p : Nat × Nat) => if p.1 = u then p else (p.1, min p.2 2)
  ({ s with mgt := { s.mgt with absorbing := rest } } : State).setAbsorbed u 3

/-- Orders 1 and 2: the fault is recorded and reported; the manager stops the step at the next segment boundary. -/
def State.faultReported (s : State) (die bench : Nat) : State := s.unitFailed die bench 468
def State.stepStopped (s : State) : State :=
  let s := { s with job := { s.job with abandon := s.job.abandon || s.job.inStep } }
  if s.isManager then s.say .stopStep [s.stepNo] else s

/-- A bench is fenced: off, and nothing in it is kept (R486, R488). The cluster store keeps its contents (log 40). -/
def State.benchOff (s : State) (b : BenchId) : State :=
  let s := { s with cores := s.cores.filter fun p => p.1 / 64 != b.key }
  let s := s.dropRange (lsKey (b.coreAt 0) 0) (2 ^ 22 + lsKey (b.coreAt 0) 0)
  s.updBench b fun x => { x with power := 3, transit := .none, steps := [], mvotes := [], rvotes := [], pass := none, missRegs := [], runAhead := [] }

def State.setPhys (s : State) (l p : Nat) : State := s.setFld (mgtKey (0x40 + 8 * (l / 8))) (8 * (l % 8) + 5) (8 * (l % 8)) p
def State.spareDie (s : State) : Option Die := finOf? 28 (s.fld (mgtKey 0x60) 5 0)

/-- Transfers in flight towards a stack when it fails are discarded (R28): its own descriptors and cache accesses, the copies that write into
it, its queued misses. What is discarded never lands on the spare. -/
def State.dropTowards (s : State) (d : Die) : State :=
  let hits := fun (w : BitVec 1536) =>
    let x := parseDesc w
    x.dstBoxes.any fun b => match placeOf b.1.toNat with
      | .scratch l _ _ | .store l _ _ _ => s.dieLog d == some l
      | _ => false
  { s with
    cores := s.cores.map fun (p : Nat × CoreState) =>
      if p.1 / 64 / 180 = d.val then (p.1, { p.2 with descs := [], greqs := [], wait := none, landQ := [] })
      else (p.1, { p.2 with descs := p.2.descs.filter fun x => !hits x.1 })
    hubs := s.hubs.map fun (p : Nat × HubState) =>
      let gone := (p.2.engines.filter fun e => hits e.2.desc).map Prod.fst
      (p.1, { p.2 with
        engines := p.2.engines.filter fun e => !gone.contains e.1
        tags := p.2.tags.filter fun t => !gone.contains t.2
        misses := p.2.misses.map fun q => (q.1, q.2.filter fun m => m.1 != d.val) }) }

/-- Order 3 for a stack (R21, R22): fence it, map the spare; beyond the module when the spare is in service, failed or none. -/
def State.mapStack (s : State) (d : Die) : State :=
  if s.dieFenced d then s.beginAbsorb (d.val * 256 + 0xf0)
  else
    let off := fun (s0 : State) =>
      let s := s0.dropTowards d
      ((allBenches d).foldl (fun s b => s.benchOff b) s).updDie d fun x => { x with fenced := true, plucks := [], domReset := none }
    match s.dieLog d, s.spareDie with
    | some l, some p =>
      if s.fld (mgtKey 0x60) 7 6 != 0 || !(s.die p).spareUnfit.isEmpty then s.beyond d 0xf0 477
      else
        let s := ((off s).setPhys 27 0x3f).setFld (mgtKey 0x60) 13 8 d
        -- the spare itself failed: it is consumed without a map
        if l = 27 then ((s.setFld (mgtKey 0x60) 7 6 2).noteSpares).service 0
        else (((s.setPhys l p).setFld (mgtKey 0x60) 7 6 1)).beginAbsorb (d.val * 256 + 0xf0)
    | _, _ => s.beyond d 0xf0 477

/-- Free spare bench of a die that is fit. -/
def State.freeSpare (s : State) (d : Die) : Option Nat :=
  (List.range 4).find? fun k => s.spareLog d k == 0xff && !(s.die d).spareUnfit.contains (176 + k) && !(s.die d).failedBenches.contains (176 + k)

/-- Order 3 for a bench (R471): a spare bench takes its logical number. -/
def State.mapBench (s : State) (b : BenchId) : State :=
  if s.benchFenced b then s.beginAbsorb (b.die.val * 256 + b.bench.val)
  else match s.benchLog b, s.freeSpare b.die with
    | some l, some k =>
      let s := (s.benchOff b).updDie b.die fun x => { x with
        failedBenches := x.failedBenches ++ [b.bench.val], replacedBy := nset x.replacedBy b.bench (176 + k) }
      -- a spare in service that fails gives its number up
      let s := if 176 ≤ b.bench.val then s.setFld (dieKey b.die 0x100) (8 * (b.bench - 176) + 7) (8 * (b.bench - 176)) 0xff else s
      let s := (s.setFld (dieKey b.die 0x100) (8 * k + 7) (8 * k) l).setFld (dieKey b.die 0x100) 39 32 b.bench
      s.beginAbsorb (b.die.val * 256 + b.bench.val)
    | _, _ => s.beyond b.die b.bench 477

/-- Order 5: a spare bench comes into RUN, its bridges reset, its marks clear, its accumulators +0. -/
def State.spareRuns (s : State) (b : BenchId) : State :=
  let s := { s with cores := s.cores.map fun (p : Nat × CoreState) => if p.1 / 64 = b.key then (p.1, p.2.domainReset false) else p }
  if (nget? s.benches b.key).isSome then
    s.updBench b fun x => { x with power := 0, transit := .none, wokenBy := none, cycAdj := 0, lastPluck := none, mvotes := [], steps := [], rvotes := []
                                   missRegs := [], runAhead := [] }
  else s

/-- Logical die and bench of a scratch-homed region. -/
def RegionRec.unit (g : RegionRec) : Option (Nat × Nat) :=
  match g.home, placeOf g.addr0 with
  | 1, .scratch d b _ => some (d, b)
  | _, _ => none

/-- Order 6: scratch-homed regions, those of the replaced unit only unless a dresser of the system has started the apply pass: one of this module,
or as the manager says one of another (R469). -/
def State.absorbRestore (s : State) (mine : Nat × Nat → Bool) (applied : Bool) (rs : List RestoreRegion) : State :=
  let take := fun (r : RestoreRegion) => match s.myRegions.find? fun g => g.region == r.region with
    | some g => match g.unit with
      | some u => applied || s.job.lastApply == some s.haltedStep || mine u
      | none => false
    | none => false
  (rs.filter take).foldl (fun s r => s.restoreRegion (s.haltedStep - 1) r) s

/-- Order 7, and SPARE_RECORD_COMMIT: the spare record is committed in flash (R475) (log 40). -/
def State.commitSpares (s : State) : State := (s.noteService.noteSpares).flushRecord

/-- Order 8: DRS_STEP under R364, the rerun, the spare consumed (R468, R476). -/
def State.absorbEnd (s : State) (cls : Nat) : State :=
  let n := s.haltedStep
  let s := (s.drsStepReset n).service cls
  if s.isManager then s.say .rerunStep [n] else s

def State.finishAbsorb (s : State) (u : Nat) : State := { s with mgt := { s.mgt with absorbing := nerase s.mgt.absorbing u } }

/-- STACK_ABSORPTION (log 40). -/
def State.absorbStack (s : State) (d : Die) (order : Nat) (applied : Bool) (rs : List RestoreRegion) : State :=
  let u := d.val * 256 + 0xf0
  if !s.orderTurn u order false then s
  else match order with
    | 1 => s.faultReported d 0xf0
    | 2 => s.stepStopped
    | 3 => s.mapStack d
    -- alternate route table of the fenced stack (R26): at a segment boundary with no transfer in flight (R28, R48). DESIGN CHOICE
    -- (log 40): within a step the request waits for a segment with ROUTE set, and the order is not done; with the step stopped it switches.
    | 4 =>
      if s.job.inStep then { s with job := { s.job with routeWant := some (d.val + 1) } }
      else if s.idleTransfers then { s.setAbsorbed u 4 with job := { s.job with route := d.val + 1, routeWant := none } }
      else s
    | 5 =>
      let s := s.setAbsorbed u 5
      match s.spareDie with
      | some p => ((allBenches p).filter fun b => b.bench.val < 176).foldl (fun s b => s.spareRuns b) s
      | none => s
    | 6 =>
      let l := (s.spareDie.bind fun p => s.dieLog p).getD 0x3f
      (s.setAbsorbed u 6).absorbRestore (fun x => x.1 == l) applied rs
    | 7 => (s.setAbsorbed u 7).commitSpares
    | 8 => ((s.setFld (mgtKey 0x60) 7 6 2).absorbEnd 0).finishAbsorb u
    | _ => s

/-- BENCH_ABSORPTION (log 40). -/
def State.absorbBench (s : State) (b : BenchId) (order : Nat) (applied : Bool) (rs : List RestoreRegion) : State :=
  let u := b.die.val * 256 + b.bench.val
  if !s.orderTurn u order true then s
  else
    let spare := ((nget? (s.die b.die).replacedBy b.bench).bind fun x => finOf? 180 x).map (BenchId.mk b.die)
    match order with
    | 1 => s.faultReported b.die b.bench
    | 2 => s.stepStopped
    | 3 => s.mapBench b
    | 5 => match spare with
      | some x => (s.setAbsorbed u 5).spareRuns x
      | none => s
    | 6 =>
      let l := (s.dieLog b.die).getD 0x3f
      let m := (spare.bind fun x => s.benchLog x).getD 0xff
      (s.setAbsorbed u 6).absorbRestore (fun x => x.1 == l && x.2 == m) applied rs
    | 7 => (s.setAbsorbed u 7).commitSpares
    | 8 => (s.absorbEnd 1).finishAbsorb u
    | _ => s

/-! Package retirement (R473). -/

/-- Pages of one channel's 24 GB, and the first byte of its reserve (log 41). -/
def chanPages : Nat := chanBytes / 4096
def reserveBase : Nat := chanBytes - 300000000

/-- Where page `i` of a retired package goes: 4 KiB pages interleaved over the other 332 channels, ascending (log 41). -/
def reservePage (pkg i : Nat) : Nat :=
  let c := i % 332
  let ch := if c < 4 * pkg then c else c + 4
  2 ^ 35 * ch + (reserveBase + 4095) / 4096 * 4096 + 4096 * (i / 332)

/-- An address of the package on the reserve; any other address stays (log 41). -/
def retarget (pkg a : Nat) : Nat :=
  let ch := a / 2 ^ 35
  if ch / 4 = pkg && a % 2 ^ 35 < chanBytes then reservePage pkg (chanPages * (ch % 4) + a % 2 ^ 35 / 4096) + a % 4096 else a

/-- A table word with its target retargeted (R309) (log 41). -/
def retargetWord (pkg : Nat) (w : Word64) : Word64 :=
  if w.getLsbD 0 then putBits w 47 12 (retarget pkg (entryTarget w.toNat) / 4096) else w

def packageOf (a : Nat) : Option Nat := match placeOf a with | .lpddr c _ => some (c / 4) | _ => none

/-- The package is retired onto the reserve: its contents are lost and rebuilt there, the new root takes effect at a segment start, the
digest tables on it are not comparable (R473, R416), and the step runs again (log 41). -/
def State.retirePackage (s : State) (pkg : Nat) (root : Word64) (tables : List (Nat × Word64)) (rebuilt : List (Nat × Byte)) : State :=
  if s.fld (mgtKey 0x1e0) 22 16 != 0x7f then s.beyond 0x3f 0xff 477
  else
    -- a fault of another class: absorptions under way begin again from their order 3 (R475)
    let s := { s with mgt := { s.mgt with absorbing := s.mgt.absorbing.map fun (p : Nat × Nat) => (p.1, min p.2 2) } }
    let s := s.setFld (mgtKey 0x1e0) 22 16 pkg
    let s := s.dropRange (2 ^ 37 * pkg) (2 ^ 35 * (4 * pkg + 4))
    let s := rebuilt.foldl (fun s b => s.storeLong (retarget pkg b.1) [b.2] false) s
    let s := tables.foldl (fun s t => s.storeLong t.1 (leBytes 8 (retargetWord pkg t.2).toNat) false) s
    let other := if s.xlatInstalled then 1 - s.xlatActive else 0
    let s := (s.setFld (mgtKey (0x140 + 8 * other)) 47 12 (bitsOf root.toNat 47 12)).setFld (mgtKey 0x150) 1 1 1
    let s := if packageOf (jobField s.theTab s.tab.pos s.tab.variant 32 8) == some pkg && s.tab.loaded.isSome
      then { s with mgt := { s.mgt with digests := [] } } else s
    let s := (s.service 3).noteService.flushRecord
    let n := s.haltedStep
    let s := s.drsStepReset n
    if s.isManager then s.say .rerunStep [n] else s

/-! Beyond the module (R477, R478). -/

/-- The report, and at the manager the move of the job position, under the takeover variant of the spare, and the restart. -/
def State.beyondFault (s : State) (u : UnitRef) : State :=
  let s := if u.pos == s.tab.pos then s.beyond u.die u.bench.toNat 477 else s
  if !s.isManager then s
  else
    let m := ((s.mgr.roles.find? fun r => r.1 == u.pos).map Prod.snd).getD 0
    let var := (s.mgr.spares.head?.map Prod.snd).getD 0
    let s := (s.stopAll 477).moveModule m
    s.say .restartJob [s.mgr.committed.getD 0, var]

/-! Meanings. -/

def execStatusPoll (die : Die) (bench : Option (Fin 180)) (answered : Bool) (s : State) : Out := .next (s.poll die bench answered)
def execStackAbsorption (die : Die) (order : Fin 9) (restore : AbsorbIn) (s : State) : Out :=
  .next (s.absorbStack die order restore.applied restore.regions)
def execBenchAbsorption (b : BenchId) (order : Fin 9) (restore : AbsorbIn) (s : State) : Out :=
  .next (s.absorbBench b order restore.applied restore.regions)
def execPackageRetirement (pkg : Fin 84) (root : Word64) (tables : List (Nat × Word64)) (rebuilt : List (Nat × Byte)) (s : State) : Out :=
  .next (s.retirePackage pkg root tables rebuilt)
def execSpareRecordCommit (s : State) : Out := .next s.commitSpares
def execBeyondModuleFault (u : UnitRef) (s : State) : Out := .next (s.beyondFault u)

/-- The controller writes the record block with its repair, retire and service records as they are (R519, R521, R538). -/
def execRecordUpdate (s : State) : Out := .next s.noteService.flushRecord

end Sys2Proof.Machine
end

