-- ==== Sys2Proof/Machine/Csr.lean ====
section
/-!
DEFINITION. The CSR window: every register's own rule on a write, what a read gives, single, chord and strum accesses (R8 to R14,
R581 to R585, R591), and the event counters as software meets them (R586 to R588).
-/
namespace Sys2Proof.Machine

/-! Writes. Each answers whether the register's own rule discarded the write. -/

/-- A write of 1 to PENDING clears the record and what stands beside it (R119, R175, R237, R303, R339, R346, R387, R418, R447, R480,
R506, R530); a record made in the cycle of the write stands (R14). `fresh`: the bits set in that cycle. -/
def State.wPend (s : State) (k : Nat) (v : Word64) (bit : Nat) (also : List (Nat × Word64)) (fresh : Word64 := s.freshBits k) : State :=
  if v.getLsbD bit && !fresh.getLsbD bit then also.foldl (fun s a => s.setReg a.1 (s.reg a.1 &&& ~~~a.2)) (s.setReg k 0) else s

def allOnes64 : Word64 := 0xffffffffffffffff#64

def State.wCoreFault (s : State) (c : CoreId) (v : Word64) : State := s.wPend (coreKey c 0x08) v 3 []
def State.wCoreDesc (s : State) (c : CoreId) (v : Word64) : State := s.wPend (coreKey c 0x38) v 3 [(coreKey c 0x40, allOnes64)]
/-- What the array, or the ring, was due to record is recorded first. -/
def State.wArrayFault (s : State) (b : BenchId) (v : Word64) : State := (s.settle b s.now).wPend (benchKey b 0x208) v 3 [] (s.freshBits (benchKey b 0x208))
def State.wRingFault (s : State) (b : BenchId) (v : Word64) : State := (s.settle b s.now).wPend (benchKey b 0x218) v 3 [] (s.freshBits (benchKey b 0x218))
def State.wRedFault (s : State) (b : BenchId) (v : Word64) : State := s.wPend (benchKey b 0x230) v 3 [(benchKey b 0x238, allOnes64)]
def State.wPwrFault (s : State) (b : BenchId) (v : Word64) : State := s.wPend (benchKey b 0x250) v 3 []
/-- FENTRY is DRS_STATUS [47:32] (R387). -/
def State.wDrsFault (s : State) (b : BenchId) (v : Word64) : State := s.wPend (benchKey b 0x338) v 3 [(benchKey b 0x330, 0xffff00000000#64)]
def State.wCopyStatus (s : State) (h : Hub) (v : Word64) : State := s.wPend (hubKey h 0x400) v 3 [(hubKey h 0x408, allOnes64)]
def State.wDramFault (s : State) (h : Hub) (v : Word64) : State := s.wPend (hubKey h 0x438) v 2 []
def State.wHaulFault (s : State) (h : Hub) (v : Word64) : State := s.wPend (hubKey h 0x528) v 3 []
def State.wLnkFault (s : State) (p : PortId) (v : Word64) : State := s.wPend (lnkKey p 0x10) v 3 []
def State.wEccAddr (s : State) (u : BenchId ⊕ Hub) (v : Word64) : State :=
  match u with
  | .inl b => s.wPend (benchKey b 0x268) v 53 []
  | .inr h => s.wPend (hubKey h 0x608) v 53 []

/-- PENDING clears CAUSE; TRIPPED clears by a 1 of its own (R508). -/
def State.wTherm (s : State) (v : Word64) : State :=
  let f := s.freshBits (mgtKey 0x208)
  let s := if v.getLsbD 19 && !f.getLsbD 19 then s.setFld (mgtKey 0x208) 19 16 0 else s
  if v.getLsbD 21 && !f.getLsbD 21 then s.setFld (mgtKey 0x208) 21 21 0 else s

/-- PENDING clears CAUSE and MGT_ACCESS_ADDR; COUNT stays (R585). -/
def State.wAccessErr (s : State) (md : Md) (v : Word64) : State :=
  if v.getLsbD 3 && !(s.freshBits (mdKey md 0x428)).getLsbD 3 then (s.setFld (mdKey md 0x428) 3 0 0).setReg (mdKey md 0x430) 0 else s

/-- CLR sets PEAK to INUSE (R340). -/
def State.wCopyTags (s : State) (h : Hub) (v : Word64) : State :=
  if v.getLsbD 32 then s.setFld (hubKey h 0x410) 28 16 (s.hub h).tags.length else s

/-- BENCH_CHORD (R584). -/
def State.wChord (s : State) (b : BenchId) (v : Word64) : Bool × State :=
  if s.tabState = tabEmpty || s.tabState = tabLoaded then (false, s.setReg (benchKey b 0x288) (v &&& 0xfffffffff#64)) else (true, s)

/-- Refusal of a load write: LAST, ERR and REFUSED (R247, R251) (log 42). -/
def State.sfsRefuse (s : State) (c : CoreId) (last : Nat) : State :=
  (((s.setFld (coreKey c 0x28) 1 0 last).setFld (coreKey c 0x28) 2 2 1).satFld (coreKey c 0x28) 31 16 1).countCore c 0x45

/-- CORE_SFS_LOAD (R247, R250): a program word, a seed word or a tag, unless its bank is active or in use. -/
def State.wSfsLoad (s : State) (c : CoreId) (v : Word64) : State :=
  let n := v.toNat
  let kind := bitsOf n 41 40
  let bank := bitsOf n 42 42
  let store := if kind = 2 then bitsOf n 43 43 else kind
  let cfg := s.fld (benchKey c.benchId 0x220) 1 0
  let active := if store = 0 then cfg % 2 else cfg / 2
  let used := match (s.core c).sfs with
    | some p => s.now ≤ p.2.2 && (if store = 0 then p.1 else p.2.1) == bank
    | none => false
  if kind = 3 then s.sfsRefuse c 3
  else if bank = active then s.sfsRefuse c 2
  else if used then s.sfsRefuse c 3
  else
    let s := (s.setFld (coreKey c 0x28) 1 0 1).countCore c 0x44
    if kind = 2 then s.setFld (coreKey c 0x30) (32 * store + 16 * bank + 15) (32 * store + 16 * bank) (n % 2 ^ 16)
    else s.updCore c fun x => { x with sfsWords := nset x.sfsWords (512 * store + 256 * bank + bitsOf n 39 32) (BitVec.ofNat 32 n) }

/-- MGT_WDOG (R563, R564): a TIMEOUT below 10 discards the write; KICK restarts the count (log 43). -/
def State.wWdog (s : State) (md : Md) (v : Word64) : Bool × State :=
  if v.toNat % 2 ^ 16 < 10 then (true, s)
  else
    let s := s.setFld (mdKey md 0x400) 15 0 (v.toNat % 2 ^ 16)
    (false, if v.getLsbD 16 then { s with mgt := { s.mgt with wdogKicked := nset s.mgt.wdogKicked md s.now } } else s)

/-- MGT_SCRUB_CFG (R532): a LIMIT of 0 is discarded (log 43). -/
def State.wScrubCfg (s : State) (v : Word64) : Bool × State :=
  if v.toNat % 2 ^ 16 = 0 then (true, s) else (false, s.setFld (mgtKey 0x230) 15 0 (v.toNat % 2 ^ 16))

/-- A register without a rule of its own: by its field types (R13), where a W1C bit set in the cycle of the write stays (R14); an offset not listed discards the write (R591). -/
def State.wPlain (s : State) (k : Nat) (v : Word64) : State :=
  match (blockOf (keyDie k) (keyBench k) (keyCore k)).bind fun b => regSpec b (keyOff k) with
  | some sp => s.setReg k (typedWrite sp (s.reg k) (v &&& ~~~(s.freshBits k &&& BitVec.ofNat 64 sp.w1c)))
  | none => s

def coreOfCsr (k : Nat) : Option CoreId :=
  match finOf? 28 (keyDie k), finOf? 180 (keyBench k), finOf? 64 (keyCore k) with
  | some d, some b, some c => some ⟨d, b, c⟩
  | _, _, _ => none
def benchOfCsr (k : Nat) : Option BenchId :=
  match finOf? 28 (keyDie k), finOf? 180 (keyBench k) with
  | some d, some b => some ⟨d, b⟩
  | _, _ => none
def mdOfCsr (k : Nat) : Md := if keyDie k = 41 then 1 else 0

def State.writeCore (s : State) (c : CoreId) (k : Nat) (v : Word64) : Bool × State :=
  match keyOff k with
  | 0x08 => (false, s.wCoreFault c v)
  | 0x20 => (false, s.wSfsLoad c v)
  | 0x38 => (false, s.wCoreDesc c v)
  | 0x48 => s.wFlip k v
  | 0x50 => s.wFlip k v
  | _ => (false, s.wPlain k v)

def State.writeBench (s : State) (b : BenchId) (k : Nat) (v : Word64) : Bool × State :=
  match keyOff k with
  | 0x208 => (false, s.wArrayFault b v)
  | 0x218 => (false, s.wRingFault b v)
  | 0x230 => (false, s.wRedFault b v)
  | 0x250 => (false, s.wPwrFault b v)
  | 0x268 => (false, s.wEccAddr (.inl b) v)
  | 0x278 => s.wFlip k v
  | 0x280 => s.wFlip k v
  | 0x288 => s.wChord b v
  | 0x310 => s.wDrsStep b v
  | 0x328 => (false, s.wSchedCtl b v)
  | 0x338 => (false, s.wDrsFault b v)
  | _ => (false, s.wPlain k v)

def State.writeHub (s : State) (h : Hub) (k : Nat) (v : Word64) : Bool × State :=
  match keyOff k with
  | 0x400 => (false, s.wCopyStatus h v)
  | 0x410 => (false, s.wCopyTags h v)
  | 0x438 => (false, s.wDramFault h v)
  | 0x528 => (false, s.wHaulFault h v)
  | 0x608 => (false, s.wEccAddr (.inr h) v)
  | 0x618 => s.wFlip k v
  | 0x620 => s.wFlip k v
  | off =>
    match finOf? 8 ((off - 0x800) / 0x40), decide (0x800 ≤ off) && off % 0x40 == 0x10 with
    | some p, true => (false, s.wLnkFault ⟨h, p⟩ v)
    | _, _ => (false, s.wPlain k v)

def State.writeMgmt (s : State) (k : Nat) (v : Word64) : Bool × State :=
  match keyOff k with
  | 0x140 => s.wXlatRoot 0 v
  | 0x148 => s.wXlatRoot 1 v
  | 0x150 => s.wXlatCtl v
  | 0x208 => (false, s.wTherm v)
  | 0x230 => s.wScrubCfg v
  | 0x400 => s.wWdog (mdOfCsr k) v
  | 0x428 => (false, s.wAccessErr (mdOfCsr k) v)
  | _ => (false, s.wPlain k v)

/-- A write reaches a register. -/
def State.writeReg (s : State) (k : Nat) (v : Word64) : Bool × State :=
  match blockOf (keyDie k) (keyBench k) (keyCore k) with
  | some .core => match coreOfCsr k with | some c => s.writeCore c k v | none => (false, s)
  | some .bench => match benchOfCsr k with | some b => s.writeBench b k v | none => (false, s)
  | some .compute => match finOf? 28 (keyDie k), keyOff k with
    | some d, 0x198 => s.wDomReset d v
    | _, _ => (false, s.wPlain k v)
  | some .hub => match finOf? 6 (keyDie k - 32) with | some h => s.writeHub h k v | none => (false, s)
  | some .mgmt => s.writeMgmt k v
  | none => (false, s)

/-! Reads. -/

/-- CORE_STATUS (R118). -/
def State.coreStatus (s : State) (c : CoreId) : Nat :=
  let x := s.core c
  let run := (s.bench c.benchId).power == 0 && (s.bench c.benchId).transit == .none
  let st := if !x.running then 0 else match x.hold with
    | .halted => 3
    | .none => if run then 1 else 2
    | _ => 2
  let busy := match x.sfs with | some p => decide (s.now ≤ p.2.2) | none => false
  st + (x.region.any fun r => !r.closed).toNat * 2 ^ 2 + busy.toNat * 2 ^ 3 + x.lastIdx.toNat * 2 ^ 4 + 2 ^ 13 * x.valid0.toNat + 2 ^ 14 * x.valid1.toNat +
    2 ^ 15 * x.loops.length + 2 ^ 32 * (s.job.seg % 2 ^ 16)

/-- DIE_REPAIR_DATA of the entry that DIE_REPAIR_SEL names (R531). -/
def State.repairData (s : State) (d : Die) : Nat :=
  let m := s.fld (dieKey d 0x140) 19 0
  let e := s.fld (dieKey d 0x140) 21 20
  match s.sec.record.repairs.find? fun r => r.1 == d.val && r.2.1 == m && r.2.2.1 == e with
  | some r => 2 ^ 12 + r.2.2.2 % 2 ^ 12 + (if s.sec.loadedRepairs.contains r then 2 ^ 13 else 0)
  | none => 0

/-- MGT_SENSOR_DATA of the reading that MGT_SENSOR_SEL names (R567). -/
def State.sensorData (s : State) (md : Md) : Nat :=
  let kind := s.fld (mdKey md 0x410) 1 0
  let die := if kind = 3 then 0 else s.fld (mdKey md 0x410) 7 2
  match nget? s.mgt.sensors (sensorKey kind die (s.fld (mdKey md 0x410) 15 8)) with
  | some r => (if r.2.1 then 2 ^ 16 else 0) + r.1.toNat
  | none => 0

/-- The value of a register as a read finds it: fields that show what a unit does now, over those stored (log 34). -/
def State.regNow (s : State) (k : Nat) : Nat :=
  let v := (s.reg k).toNat
  let put := fun hi lo x => (putBits (s.reg k) hi lo x).toNat
  match blockOf (keyDie k) (keyBench k) (keyCore k), keyOff k with
  | some .core, 0x00 => match coreOfCsr k with | some c => s.coreStatus c | none => v
  | some .core, 0x38 => match coreOfCsr k with | some c => put 6 4 (s.core c).descs.length | none => v
  | some .bench, 0x248 => match benchOfCsr k with
    | some b => put 2 0 ((s.bench b).power + (if (s.bench b).transit == .none then 0 else 4))
    | none => v
  | some .bench, 0x318 => put 2 0 (s.activeBank + (match s.heldBank with | some h => 2 + 4 * h | none => 0))
  | some .compute, 0x148 => match finOf? 28 (keyDie k) with | some d => s.repairData d | none => v
  | some .hub, 0x410 => match finOf? 6 (keyDie k - 32) with | some h => put 12 0 (s.hub h).tags.length | none => v
  | some .mgmt, 0x418 => s.sensorData (mdOfCsr k)
  | _, _ => v

/-- What a read returns (R13, R591): readable bits of a listed register, 0 elsewhere. What its unit was due to record is recorded first. -/
def State.readReg (s : State) (k : Nat) : Word64 × State :=
  let s := match benchOfCsr k, keyOff k with
    | some b, 0x200 => s.settle b s.now
    | some b, 0x208 => s.settle b s.now
    | some b, 0x218 => s.settle b s.now
    | _, _ => s
  match (blockOf (keyDie k) (keyBench k) (keyCore k)).bind fun b => regSpec b (keyOff k) with
  | some sp => (BitVec.ofNat 64 (s.regNow k) &&& BitVec.ofNat 64 sp.rd, s)
  | none => (0, s)

/-! Broadcast writes (R581, R582). -/

/-- Does BENCH_CHORD list the group? -/
def State.inChord (s : State) (b : BenchId) (group : Nat) : Bool :=
  let v := (s.reg (benchKey b 0x288)).toNat
  (List.range 4).any fun k => v.testBit (32 + k) && bitsOf v (8 * k + 7) (8 * k) == group

/-- Compute dies that a die field names, fenced ones left out. -/
def State.fieldDies (s : State) (d : Nat) : List Die := allDies.filter fun x => (d == 0x3f || d == x.val) && !s.dieFenced x

/-- Keys that a broadcast address reaches (log 42). -/
def State.reached (s : State) (addr : Nat) : List Nat :=
  let d := keyDie addr
  let b := keyBench addr
  let c := keyCore addr
  let off := keyOff addr
  if addrMode addr = 1 then
    ((s.fieldDies d).map fun x => ((allBenches x).filter fun y => s.inChord y b && !s.benchFenced y).map fun y => regKey x y.bench c off).flatten
  else if 28 ≤ d && d != 0x3f then [regKey d b c off]
  else if b = 0xf0 then (s.fieldDies d).map fun x => regKey x.val b c off
  else
    let cores := if c = 0x7f then List.range 64 else [c]
    ((s.fieldDies d).map fun x => ((allBenches x).filter fun y => (b == 0xff || y.bench.val == b) && !s.benchFenced y).map fun y =>
      cores.map fun z => regKey x y.bench z off).flatten.flatten

/-- Applies a write to every key: how many instances discarded it (log 42). -/
def State.writeAll (s : State) (ks : List Nat) (v : Word64) : Nat × State :=
  ks.foldl (fun (acc : Nat × State) k =>
    let r := acc.2.writeReg k v
    (acc.1 + r.1.toNat, r.2)) (0, s)

/-- A broadcast write is applied and waits for its completion (log 42). -/
def State.broadcast (s : State) (o : Origin) (addr : Nat) (v : Word64) : State :=
  let act := fun (s : State) =>
    let s := s.enter o
    let c := s.accessCause addr false
    if c != 0 then (c, s.accessError (Origin.md' o) c addr false)
    else
      let r := s.writeAll (s.reached addr) v
      (0, { r.2 with mgt := { r.2.mgt with broadcasts := r.2.mgt.broadcasts ++ [(o, addr, r.1)] } })
  match Origin.rq? o with
  | none => (act s).2
  | some rq => s.onRequest rq 0x11 1 fun s =>
      let r := act s
      if r.1 = 0 then r.2 else r.2.reply rq stRefused [r.1]

/-- The oldest broadcast write completes: one access error when an instance discarded it, and the requester's completion (log 42). -/
def State.broadcastDone (s : State) : State :=
  match s.mgt.broadcasts with
  | [] => s
  | (o, addr, n) :: rest =>
    let s := { s with mgt := { s.mgt with broadcasts := rest } }
    let s := if n = 0 then s else s.accessError (Origin.md' o) 5 addr false
    match Origin.rq? o with
    | none => s.say .completion [(Origin.md' o).val, addr, n]
    | some rq => if n = 0 then s.reply rq stOk [] else s.reply rq stRefused [5]

/-- The address of a single access to tensor memory by the management controller or the debug path (R292) (log 42). -/
def Origin.memAccess (o : Origin) (addr : Nat) : Bool :=
  (Origin.rq? o).isNone && addr % 8 == 0 && (match placeOf addr with | .csr => false | .none => false | _ => true)

/-- A write in the mode that its row names: an address of another mode acts by its own mode (R8), and one in storage is a single access of
8 bytes (R292). -/
def State.csrAccess (s : State) (o : Origin) (addr : Nat) (v : Word64) : State :=
  if (Origin.memAccess o) addr && (s.keyOf addr).isSome then
    let r := s.storeAt addr (leBytes 8 v.toNat) false
    if r.1 then r.2.poisonAt addr 8 else r.2
  else if addrMode addr = 1 || addrMode addr = 2 then s.broadcast o addr v
  else s.originWrite o addr fun s => s.writeReg (addr % 2 ^ 38) v

/-- A read (R577, R582); of a triple, in the cycle of a write, the value from before the write (R518). An address in storage is a single
access of 8 bytes, whose answer says whether they were poisoned (R292). -/
def State.csrReadAt (s : State) (o : Origin) (addr : Nat) : State :=
  let act := fun (s : State) =>
    let s := s.enter o
    let c := s.accessCause addr true
    if c != 0 then (c, (0 : Word64), s.accessError (Origin.md' o) c addr true)
    else
      let k := addr % 2 ^ 38
      let r := s.readReg k
      (0, if (Origin.inCycle o) && isTriple k then s.regWas k else r.1, r.2)
  match Origin.rq? o with
  | none =>
    if (Origin.memAccess o) addr && (s.keyOf addr).isSome then
      let r := s.loadAt addr 8
      r.2.2.say .csrValue [(Origin.md' o).val, addr, leNat r.1, r.2.1.toNat]
    else
      let r := act s
      r.2.2.say .csrValue [(Origin.md' o).val, addr, r.2.1.toNat]
  | some rq => s.onRequest rq 0x10 0 fun s =>
      let r := act s
      if r.1 = 0 then r.2.2.reply rq stOk [r.2.1.toNat] else r.2.2.reply rq stRefused [r.1]

/-- Every EVSNAP of a die or hub (R577). -/
def State.snapshots (s : State) (die : Nat) : Option (List Nat) :=
  let take := fun (base n : Nat) => (List.range n).map fun i => (s.reg (unitKey die (base + 8 * i))).toNat
  match blockOf die 0xf0 0 with
  | some .compute => if s.unitAbsent (unitKey die 0) then none else some (take 0x900 16)
  | some .hub => some (take 0x2200 32)
  | some .mgmt => some (take 0x900 16)
  | _ => none

/-- EVSEL key of a counter from its EVCNT key (R590). -/
def selOf (k : Nat) : Option Nat :=
  let off := keyOff k
  match blockOf (keyDie k) (keyBench k) (keyCore k) with
  | some .bench => if 0x440 ≤ off && off < 0x480 && off % 8 == 0 then some (k - 0x40) else none
  | some .compute => if 0x880 ≤ off && off < 0x900 && off % 8 == 0 then some (k - 0x80) else none
  | some .mgmt => if 0x880 ≤ off && off < 0x900 && off % 8 == 0 then some (k - 0x80) else none
  | some .hub => if 0x2100 ≤ off && off < 0x2200 && off % 8 == 0 then some (k - 0x100) else none
  | _ => none

/-! Meanings. -/

def execCsrWrite (o : Origin) (addr : Addr) (v : Word64) (s : State) : Out := .next (s.csrAccess o addr.toNat v)
def execChordWrite (o : Origin) (addr : Addr) (v : Word64) (s : State) : Out := .next (s.csrAccess o addr.toNat v)
def execStrumWrite (o : Origin) (addr : Addr) (v : Word64) (s : State) : Out := .next (s.csrAccess o addr.toNat v)
def execBroadcastWriteComplete (s : State) : Out := .next s.broadcastDone
def execCsrRead (o : Origin) (addr : Addr) (s : State) : Out := .next (s.csrReadAt o addr.toNat)
def execCounterSnapshotRead (rq : Rq) (die : Fin 64) (s : State) : Out :=
  .next (s.onRequest rq 0x12 0 fun s => match s.snapshots die with
    | some l => s.reply rq stOk l
    | none => s.reply rq stNotFound [])

def execCoreSfsLoadWrite (o : Origin) (c : CoreId) (v : Word64) (s : State) : Out :=
  .next (s.originWrite o (keyAddr (coreKey c 0x20)) fun s => (false, s.wSfsLoad c v))
def execBenchChordWrite (o : Origin) (b : BenchId) (v : Word64) (s : State) : Out :=
  .next (s.originWrite o (keyAddr (benchKey b 0x288)) fun s => s.wChord b v)
def execHubCopyTagsClr (o : Origin) (h : Hub) (v : Word64) (s : State) : Out :=
  .next (s.originWrite o (keyAddr (hubKey h 0x410)) fun s => (false, s.wCopyTags h v))
def execCoreFaultClear (o : Origin) (c : CoreId) (v : Word64) (s : State) : Out :=
  .next (s.originWrite o (keyAddr (coreKey c 0x08)) fun s => (false, s.wCoreFault c v))
def execBenchArrayFaultClear (o : Origin) (b : BenchId) (v : Word64) (s : State) : Out :=
  .next (s.originWrite o (keyAddr (benchKey b 0x208)) fun s => (false, s.wArrayFault b v))
def execBenchRingFaultClear (o : Origin) (b : BenchId) (v : Word64) (s : State) : Out :=
  .next (s.originWrite o (keyAddr (benchKey b 0x218)) fun s => (false, s.wRingFault b v))
def execCoreDescStatusClear (o : Origin) (c : CoreId) (v : Word64) (s : State) : Out :=
  .next (s.originWrite o (keyAddr (coreKey c 0x38)) fun s => (false, s.wCoreDesc c v))
def execHubCopyStatusClear (o : Origin) (h : Hub) (v : Word64) (s : State) : Out :=
  .next (s.originWrite o (keyAddr (hubKey h 0x400)) fun s => (false, s.wCopyStatus h v))
def execHubDramFaultClear (o : Origin) (h : Hub) (v : Word64) (s : State) : Out :=
  .next (s.originWrite o (keyAddr (hubKey h 0x438)) fun s => (false, s.wDramFault h v))
def execDrsFaultClear (o : Origin) (b : BenchId) (v : Word64) (s : State) : Out :=
  .next (s.originWrite o (keyAddr (benchKey b 0x338)) fun s => (false, s.wDrsFault b v))
def execBenchRedFaultClear (o : Origin) (b : BenchId) (v : Word64) (s : State) : Out :=
  .next (s.originWrite o (keyAddr (benchKey b 0x230)) fun s => (false, s.wRedFault b v))
def execLnkFaultClear (o : Origin) (p : PortId) (v : Word64) (s : State) : Out :=
  .next (s.originWrite o (keyAddr (lnkKey p 0x10)) fun s => (false, s.wLnkFault p v))
def execHaulFaultClear (o : Origin) (h : Hub) (v : Word64) (s : State) : Out :=
  .next (s.originWrite o (keyAddr (hubKey h 0x528)) fun s => (false, s.wHaulFault h v))
def execPwrBenchFaultClear (o : Origin) (b : BenchId) (v : Word64) (s : State) : Out :=
  .next (s.originWrite o (keyAddr (benchKey b 0x250)) fun s => (false, s.wPwrFault b v))
def execPwrThermClear (o : Origin) (v : Word64) (s : State) : Out :=
  .next (s.originWrite o (keyAddr (mdKey (Origin.md' o) 0x208)) fun s => (false, s.wTherm v))
def execMgtAccessErrClear (o : Origin) (md : Md) (v : Word64) (s : State) : Out :=
  .next (s.originWrite o (keyAddr (mdKey md 0x428)) fun s => (false, s.wAccessErr md v))
def execEccAddrClear (o : Origin) (u : BenchId ⊕ Hub) (v : Word64) (s : State) : Out :=
  .next (s.originWrite o (keyAddr (match u with | .inl b => benchKey b 0x268 | .inr h => hubKey h 0x608)) fun s => (false, s.wEccAddr u v))

/-- R588: the selection holds from the next command on. -/
def execEvselWrite (o : Origin) (addr : Addr) (v : Word64) (s : State) : Out := .next (s.csrAccess o addr.toNat v)
def execEvcntWrite (o : Origin) (addr : Addr) (v : Word64) (s : State) : Out := .next (s.csrAccess o addr.toNat v)
/-- R587. -/
def execCounterWrap (addr : Addr) (n : BitVec 24) (s : State) : Out :=
  .next (match selOf (addr.toNat % 2 ^ 38) with
    | some k => bumpOne s k (addr.toNat % 2 ^ 38) (fun _ => true) n.toNat
    | none => s)

def execWdogKick (o : Origin) (md : Md) (v : Word64) (s : State) : Out :=
  .next (s.originWrite o (keyAddr (mdKey md 0x400)) fun s => s.wWdog md v)
def execSensorSelect (o : Origin) (md : Md) (v : Word64) (s : State) : Out :=
  .next (s.originWrite o (keyAddr (mdKey md 0x410)) fun s => (false, s.wPlain (mdKey md 0x410) v))

end Sys2Proof.Machine
end

