-- ==== Sys2Proof/Machine/Boot.lean ====
section
/-!
DEFINITION. Supplies and resets (R594 to R596), the record block (R536 to R540), identity (R541, R542), the slot choice and the boot
sequence (R543 to R549), measurements (R550) and their effect on every unit.
-/
namespace Sys2Proof.Machine

/-! Resets. -/

/-- Bits of a register that a reset keeps: TRIPPED always (R508); under WRST_L the haul registers R480 names and the counts since PORST_L
(R507, R508, R530, R557, R564, R579) (log 44). -/
def keepMask (warm : Bool) (k : Nat) : Nat :=
  match blockOf (keyDie k) (keyBench k) (keyCore k), keyOff k, warm with
  | some .mgmt, 0x208, _ => 2 ^ 21
  | _, _, false => 0
  | some .mgmt, 0x200, _ => 0xffffffff
  | some .mgmt, 0x300, _ => 0xffff00000000
  | some .mgmt, 0x400, _ => 0xffff00000000
  | some .mgmt, 0x1f0, _ => 0xff00
  | some .hub, 0x1f0, _ => 0xff00
  | some .compute, 0x1f0, _ => 0xff00
  | some .compute, 0x190, _ => 0xffffffff
  | some .bench, 0x260, _ => m64
  | some .bench, 0x290, _ => 0xffff0000
  | some .hub, 0x600, _ => m64
  | some .hub, 0x510, _ => m64
  | some .hub, 0x518, _ => m64
  | some .hub, 0x520, _ => m64
  | _, _, _ => 0

/-- A register after a reset, when anything of it is kept (log 44). -/
def keepReg (warm : Bool) (e : Nat × Word64) : Option (Nat × Word64) :=
  let m := BitVec.ofNat 64 (keepMask warm e.1)
  if m = 0 then none else some (e.1, (regReset 0 e.1 &&& ~~~m) ||| (e.2 &&& m))

def isLpddrRef : StoreRef → Bool := isLpddr

/-- The module after a reset, before boot: LPDDR6 contents stay under WRST_L only (R348); flash, drives and pins stay; everything else is
as at power-up. The timebase starts again under PORST_L and goes on under WRST_L, as it never runs backwards (R445) (log 44). -/
def State.afterReset (s : State) (warm : Bool) : State :=
  { pending := s.pending, now := s.now, draws := s.draws, out := s.out
    tbBase := if warm then s.tbBase else -(s.now : Int)
    lastSync := s.now
    csr := s.csr.filterMap (keepReg warm)
    cycle := { csr := s.csr.filterMap (keepReg warm) }
    mem := if warm then s.mem.filter fun e => e.1 < 0x0a8000000000 else []
    poison := if warm then s.poison.filter fun a => a < 0x0a8000000000 else []
    errs := if warm then s.errs.filter fun e => isLpddrRef e.1 else []
    hubs := if warm then allHubs.map fun (h : Hub) => (h.val, ({ selfRefresh := true } : HubState)) else []
    mgr := { descLog := s.mgr.descLog }
    mgt := { vault := s.mgt.vault, drivesOut := s.mgt.drivesOut, lastHb := s.now, wdogKicked := [(0, s.now), (1, s.now)] }
    sec := { draws := s.sec.draws }
    flash := s.flash
    pins := { s.pins with svcReq := false, thermTrip := s.pins.thermTrip && warm } }

/-- PORST_L low for at least 10 ms (R595) (log 44). -/
def State.porst (s : State) : State :=
  let s := s.afterReset false
  { s with pins := { s.pins with porstL := false } }

/-- A warm reset, internal or by the pin (log 44). -/
def State.warmReset (s : State) : State := s.afterReset true

/-! Record block (R536, R537). -/

def padTo (n : Nat) (fill : Byte) (bs : List Byte) : List Byte := bs.take n ++ List.replicate (n - bs.length) fill

def Delegation.bytes (d : Delegation) : List Byte := padTo 0x560 0 d.body ++ padTo 2420 0 d.sig
def delDseq (d : Delegation) : Nat := leNat ((d.body.drop 4).take 4)
def delDevice (d : Delegation) : List Byte := (d.body.drop 0x20).take 32
def delKey (d : Delegation) : List Byte := (d.body.drop 0x40).take 1312

/-- The body of a record block, both PUF helper-data areas zero (R536, R550). -/
def RecordBody.bytes (r : RecordBody) : List Byte :=
  let tail := (match r.failedStack with | some d => [d + 1] | none => [0]) ++
    (r.spareBenches.map fun x => [x.1, x.2.1, x.2.2]).flatten ++ [r.service.toNat, r.retiredPkg] ++
    (r.repairs.map fun x => [x.1, x.2.1, x.2.2.1, x.2.2.2]).flatten ++ (r.retires.map fun x => [x.1, x.2.1, x.2.2.1, x.2.2.2]).flatten
  padTo 0xfc0 0xff#8 r.vendorKey ++ padTo 0x1000 0xff#8 (match r.delegation with | some d => Delegation.bytes d | none => []) ++
    padTo 0x40 0xff#8 (leBytes 1 r.active ++ leBytes 1 r.pending ++ leBytes 1 r.tried) ++
    padTo 0xfc0 0xff#8 (leBytes 4 r.minSvn.toNat ++ leBytes 4 r.minDseq.toNat) ++ List.replicate 0x4000 0 ++ padTo 0x1000 0xff#8 [] ++
    padTo 0x10000 0xff#8 Config.trims ++ Config.recordTail tail

def RecordCopy.intact (c : RecordCopy) : Bool := c.magicOk && c.tagOk

/-- The content in force: of two intact copies that agree, else of the intact copy with the highest SEQ (R537). -/
def inForce (cs : List RecordCopy) : Option RecordCopy :=
  let good := cs.filter RecordCopy.intact
  match good.find? fun c => 1 < (good.filter fun d => d.seq == c.seq && d.body == c.body).length with
  | some c => some c
  | none => good.foldl (fun (b : Option RecordCopy) c => match b with
    | some x => if x.seq < c.seq then some c else b
    | none => some c) none

/-! Identity (R541). -/

/-- Seed of a die's identity key pair (log 45). -/
def identitySeed (md : Md) : List Byte := shake256 (Config.pufSecret md ++ [0x02#8] ++ leBytes 1 (40 + md)) 32
def identityKey (md : Md) : List Byte := Config.mldsaPublic (identitySeed md)
def idHash (md : Md) : List Byte := sha3 (identityKey md)

/-! Slots (R543 to R545). -/

def hU (g : ImageSlot) (o n : Nat) : Nat := leNat ((g.header.drop o).take n)
def zeros (bs : List Byte) : Bool := bs.all (· == 0)
/-- Section-table entry `i`: TYPE, reserved bits, OFFSET, LENGTH, HASH. -/
def imgEntry (g : ImageSlot) (i : Nat) : Nat × Bool × Nat × Nat × List Byte :=
  let e := (g.table.drop (64 * i)).take 64
  (leNat (e.take 2), zeros ((e.drop 2).take 6) && zeros ((e.drop 24).take 8), leNat ((e.drop 8).take 8), leNat ((e.drop 16).take 8),
    (e.drop 32).take 32)

/-- Check 2: MAGIC, FORMAT, reserved bytes, LENGTH, section offsets and types. -/
def imgForm (g : ImageSlot) : Bool :=
  let n := hU g 0x14 4
  let es := (List.range n).map (imgEntry g)
  let types := es.map Prod.fst
  g.header.length == 4096 && hU g 0 4 == 0xc0f6e064 && hU g 4 2 == 1 && hU g 0xa 1 < 2 && hU g 0xb 1 == 0 &&
    zeros ((g.header.drop 0x60).take 0xa0) && zeros (g.header.drop 0xa74) && 1 ≤ n && n ≤ 64 && g.table.length == 64 * n &&
    hU g 0x18 8 ≤ 0x07000000 && g.sections.length == n &&
    (es.zip g.sections).all (fun e => e.1.2.1 && e.1.2.2.1 % 4096 == 0 && e.1.2.2.1 + e.1.2.2.2.1 ≤ hU g 0x18 8 && e.2.length == e.1.2.2.2.1) &&
    ((List.range 12).all fun t => (types.filter fun x => x == t + 1).length == 1) && (types.filter fun x => x == 0x0d).length ≤ 1 &&
    types.all fun x => 1 ≤ x && x ≤ 0x0d

/-- Reason of R545 for a slot, 0 when it passes: under the key and SIGNER that R540 requires. -/
def slotReason (slot : Option ImageSlot) (part : Nat) (owner : Option Delegation) (vendor : List Byte) (minSvn : Nat) : Nat :=
  match slot with
  | none => 1
  | some g =>
    let key := match owner with | some d => delKey d | none => vendor
    let mod := (g.header.drop 0x40).take 32
    if !g.readable then 7
    else if !imgForm g then 1
    else if hU g 6 2 != part % 2 ^ 16 || hU g 8 1 != bitsOf part 23 16 || !(zeros mod || mod == idHash 0) then 2
    else if !Config.mldsaVerify key (g.header.take 0x100) ((g.header.drop 0x100).take 2420) then 4
    else if hU g 9 1 != (if owner.isSome then 1 else 0) then 5
    else if hU g 0xc 4 < minSvn then 6
    else if (g.header.drop 0x20).take 32 != sha3 g.table ||
        !((List.range g.sections.length).all fun i => (imgEntry g i).2.2.2.2 == sha3 (g.sections.getD i [])) then 3
    else 0

/-- Number by which `Config` knows an image: its TABLE_HASH. -/
def imageNumber (g : ImageSlot) : Nat := hU g 0x20 32

def State.slotAt (s : State) (i : Nat) : Option ImageSlot := (s.flash.slots[i]?).join

/-! Boot (R546). -/

def State.bothMd (s : State) (off hi lo v : Nat) : State := allMds.foldl (fun s m => s.setFld (mdKey m off) hi lo v) s
def State.bootState (s : State) (x : Nat) : State := s.bothMd 0x300 2 0 x

/-- Every bench of a list of dies in a power state (log 54). -/
def State.powerAll (s : State) (bs : List (BenchId × Nat)) : State :=
  let ks := bs.map fun (b : BenchId × Nat) => (b.1.key, b.2)
  { s with benches := nover {} (fun (p : Nat) (x : BenchState) => { x with power := p, transit := .none }) ks s.benches }

/-- The module holds its outputs until the next reset (R547) (log 45). -/
def State.hold (s : State) (ra rb : Nat) : State :=
  let s := ((s.bootState 4).bothMd 0x300 11 8 ra).bothMd 0x300 15 12 rb
  let s := (s.bothMd 0x300 4 3 3).powerAll ((allDies.map fun d => (allBenches d).map fun b => (b, 3)).flatten)
  let s := s.dropRange 0 0x0a8000000000
  { s with sec := { s.sec with held := true }, pins := { s.pins with svcReq := true } }

/-- Order 1: the standby PLL, the PUF, the identity. -/
def State.bootIdentity (s : State) : State :=
  let s := allMds.foldl (fun s m => s.setFld (clkKey (40 + m)) 2 2 1) s
  allMds.foldl (fun s (m : Md) => if Config.pufOk m then (s.setFld (mdKey m 0x300) 16 16 1).setWords (fun o => mdKey m (0x350 + o)) (idHash m) else s) s

/-- A delegation record that R539 finds valid. -/
def validDelegation (r : RecordBody) : Option Delegation :=
  match r.delegation with
  | some d =>
    if leNat (d.body.take 4) = 0xde1ee064 && Config.mldsaVerify r.vendorKey d.body d.sig && delDevice d == idHash 0 &&
        r.minDseq.toNat ≤ delDseq d then some d else none
  | none => none

/-- Order 2: the record block in force, repaired; MIN_DSEQ rises to a valid delegation's DSEQ (R537, R540, R558). -/
def State.bootRecord (s : State) (c : RecordCopy) : State :=
  let s := { s with flash := { s.flash with copies := s.flash.copies.map fun _ => c }, sec := { s.sec with record := c.body } }
  let s := match validDelegation c.body with
    | some d =>
      let s := s.bothMd 0x300 17 17 1
      if c.body.minDseq.toNat < delDseq d then (s.updRecord fun r => { r with minDseq := BitVec.ofNat 32 (delDseq d) }).flushRecord else s
    | none => s
  s.setFld (mgtKey 0x308) 63 32 c.body.minSvn.toNat

/-- The slot order of the pseudocode, with its record updates and the fallback entry. -/
def State.bootOrder (s : State) : List Nat × Bool × State :=
  let r := s.sec.record
  if r.pending = 0xff then ([r.active, 1 - r.active], false, s)
  else if r.tried = 0 then ([r.pending, r.active], false, (s.updRecord fun r => { r with tried := 1 }).flushRecord)
  else
    let s := s.log 0 2 true 545 (mdKey 0 0 / 2 ^ 17) r.pending
    ([r.active, 1 - r.active], true, (s.updRecord fun r => { r with pending := 0xff, tried := 0 }).flushRecord)

/-- Order 3: the first slot of the order that passes; reasons of those tried (log 45). -/
def State.bootSlot (s : State) : Option Nat × State :=
  let pend := s.sec.record.pending
  let o := s.bootOrder
  let s := o.2.2
  let r := s.sec.record
  let why := fun i => slotReason (s.slotAt i) (s.reg (mgtKey 0)).toNat (validDelegation r) r.vendorKey r.minSvn.toNat
  let pick := o.1.find? fun i => why i == 0
  let tried := match pick with | some p => (o.1.takeWhile fun i => i != p) ++ [p] | none => o.1
  let s := tried.foldl (fun s i => s.bothMd 0x300 (11 + 4 * i) (8 + 4 * i) (why i)) s
  match pick with
  | none => (none, s)
  | some p =>
    let fell := o.2.1 || (pend != 0xff && pend != p)
    (some p, (s.bothMd 0x300 4 3 p).bothMd 0x300 18 18 fell.toNat)

/-- The boot measurement (R550) (log 45). -/
def bootMeasure (r : RecordBody) (header : List Byte) : List Byte :=
  let items := [leBytes 4 Config.romVersion.toNat, r.vendorKey,
    match validDelegation r with | some d => padTo 0x1000 0xff#8 (Delegation.bytes d) | none => [], RecordBody.bytes r, header]
  items.foldl extendMeas (List.replicate 32 0)

def State.setMeas (s : State) (m : List Byte) : State :=
  let s := { s with sec := { s.sec with meas := m } }
  (s.setWords (fun o => mdKey 0 (0x310 + o)) m).setWords (fun o => mdKey 1 (0x310 + o)) m

/-- The image of the chosen slot is the module's. -/
def State.bootImage (s : State) (p : Nat) : State :=
  match s.slotAt p with
  | none => s
  | some g =>
    let s := { s with sec := { s.sec with bootedSlot := some p, imageHash := imageNumber g, bootPending := s.sec.record.pending == p } }
    (s.setFld (mgtKey 0x308) 31 0 (hU g 0xc 4)).setMeas (bootMeasure s.sec.record g.header)

/-- Order 4: clocks, die map, repair, retire, spare and service records (R22, R476, R488, R519, R521, R546), role table. -/
def State.bootUnits (s : State) : State :=
  let r := s.sec.record
  let img := s.sec.imageHash
  let s := { s with
    sec := { s.sec with loadedRepairs := Config.imageRepairs img ++ r.repairs }
    mgr := { s.mgr with roles := Config.roleTable img, spares := Config.roleSpares img } }
  let s := match r.failedStack.bind fun d => finOf? 28 d with
    | some d =>
      let spare := s.fld (mgtKey 0x60) 5 0
      let s := match s.dieLog d with
        | some l => if l = 27 then s.setPhys 27 0x3f else (s.setPhys l spare).setPhys 27 0x3f
        | none => s
      let s := ((s.setFld (mgtKey 0x60) 7 6 2).setFld (mgtKey 0x60) 13 8 d).updDie d fun x => { x with fenced := true }
      { s with job := { s.job with route := d.val + 1 } }
    | none => s
  let s := r.spareBenches.foldl (fun s x => match finOf? 28 x.1 with
    | some d => (s.setFld (dieKey d 0x100) (8 * x.2.1 + 7) (8 * x.2.1) x.2.2).updDie d fun y => { y with
        failedBenches := y.failedBenches ++ [x.2.2], replacedBy := nset y.replacedBy x.2.2 (176 + x.2.1) }
    | none => s) s
  let s := r.retires.foldl (fun s x => match finOf? 6 x.1 with
    | some h => s.setReg (retireKey h x.2.1 x.2.2.1) (BitVec.ofNat 64 (2 ^ 23 + x.2.2.2 % 2 ^ 23))
    | none => s) s
  let s := (s.setFld (mgtKey 0x1e0) 3 0 r.service.toNat).setFld (mgtKey 0x1e0) 22 16 r.retiredPkg
  let s := { s with pins := { s.pins with svcReq := r.service != 0 } }
  let s := allDies.foldl (fun s d => if s.dieFenced d then s else s.setFld (clkKey d) 1 0 3) s
  let s := allHubs.foldl (fun s h => s.setFld (clkKey (32 + h)) 0 0 1) s
  let s := allMds.foldl (fun s m => s.setFld (clkKey (40 + m)) 1 0 3) s
  let at' := fun (b : BenchId) =>
    if s.dieFenced b.die || s.benchFenced b then some (b, 3)
    else if s.spareDie == some b.die && s.fld (mgtKey 0x60) 7 6 == 0 then some (b, 2)
    else if (s.benchLog b).isNone then some (b, 2) else none
  s.powerAll ((allDies.map fun d => (allBenches d).filterMap at').flatten)

/-- A channel that fails training at boot (R346, R549): its package is retired, or a second one is beyond the module (log 45). -/
def State.trainFailed (s : State) (c : ChanId) : State :=
  let pkg := s.fld (mgtKey 0x1e0) 22 16
  let mine := c.key / 4
  let s := s.dramFault c.hub 3 c.chan 0
  if pkg = mine then s
  else if s.fld (mgtKey 0x1e0) 3 3 = 0 then (((s.setFld (mgtKey 0x1e0) 22 16 mine).service 3).noteService).flushRecord
  else
    let s := s.beyond (32 + c.hub) 0xf0 549
    { s with tab := { s.tab with refuseAll := true } }

/-- Order 6 (log 45). -/
def State.bootTrain (s : State) (failed : List ChanId) : State :=
  let s := allHubs.foldl (fun s h => if (s.hub h).selfRefresh then s.updHub h fun x => { x with selfRefresh := false } else s) s
  failed.foldl (fun s c => s.trainFailed c) s

/-- Order 5: the factory words take the place of what software loaded before, and the tags are the factory's (R249). -/
def State.bootSfs (s : State) : State :=
  { s with
    sec := { s.sec with sfsLoaded := true }
    cores := s.cores.map fun x => (x.1, { x.2 with sfsWords := [] })
    csr := s.csr.filter fun e => !(blockOf (keyDie e.1) (keyBench e.1) (keyCore e.1) == some .core && keyOff e.1 == 0x30) }

/-- Order 8: every Asvex port moves from DOWN to TRAINING. -/
def State.bootPorts (s : State) : State :=
  allHubs.foldl (fun s h => (portsOf h).foldl (fun s p => (s.setLnk p lnkTraining).updPort p fun x => { x with trainSince := s.now }) s) s

/-- Order 9: READY; a pending slot that booted is confirmed in one record update (R554). -/
def State.bootReady (s : State) : State :=
  let s := (s.bootState 3).setRunMeas s.sec.meas
  let s := { s with mgt := { s.mgt with wdogKicked := [(0, s.now), (1, s.now)], lastHb := s.now } }
  match s.sec.bootPending, s.sec.bootedSlot with
  | true, some p =>
    let g := s.slotAt p
    let svn := (g.map fun g => hU g 0xc 4).getD 0
    let raise := (g.map fun g => hU g 0xa 1 % 2 == 1).getD false
    let s := s.updRecord fun r => { r with
      active := p, pending := 0xff, tried := 0
      minSvn := if raise && r.minSvn.toNat < svn then BitVec.ofNat 32 svn else r.minSvn }
    (s.flushRecord).setFld (mgtKey 0x308) 63 32 s.sec.record.minSvn.toNat
  | _, _ => s

/-- Orders 4 to `upTo` of R546, after a slot passed (log 54). -/
def State.bringUp (s : State) (p upTo : Nat) (failed : List ChanId) : State :=
  let s := s.bootImage p
  if upTo < 4 then s
  else
    let s := (s.bootState 2).bootUnits
    let s := if 5 ≤ upTo then s.bootSfs else s
    let s := if 6 ≤ upTo then s.bootTrain failed else s
    let s := if 8 ≤ upTo then s.bootPorts else s
    if 9 ≤ upTo then s.bootReady else s

/-- BOOT: from the release of the reset, with PWROK high and the rails up, as far as the boot comes (R546, R594) (log 45). -/
def State.boot (s : State) (upTo : Nat) (failed : List ChanId) : State :=
  if !s.pins.pwrok || !s.pins.railsUp || !s.pins.vaon || s.fld (mdKey 0 0x300) 2 0 != 0 || s.sec.held then s
  else
    let s := { s with pins := { s.pins with porstL := true, wrstL := true, refClk := true } }
    let s := allMds.foldl (fun s m => s.satFld (mdKey m 0x300) 47 32 1) s
    if upTo = 0 then s
    else
      let s := s.bootIdentity
      if !Config.pufOk 0 || !Config.pufOk 1 then s.hold 10 10
      else if upTo = 1 then s
      else match inForce s.flash.copies with
        | none => s.hold 9 9
        | some c =>
          let s := s.bootRecord c
          if sha3 c.body.vendorKey != Config.romVendorHash then s.hold 9 9
          else if upTo = 2 then s
          else
            let r := (s.bootState 1).bootSlot
            match r.1 with
            | none => r.2.hold (r.2.fld (mdKey 0 0x300) 11 8) (r.2.fld (mdKey 0 0x300) 15 12)
            | some p => r.2.bringUp p upTo failed

/-! Meanings. -/

def execPorstAssert (s : State) : Out := .next s.porst

/-- WRST_L low for at least 1 µs: PORST_L and PWROK govern (R595). -/
def execWrstAssert (s : State) : Out :=
  .next (if s.pins.porstL && s.pins.pwrok then
      let s := s.warmReset
      { s with pins := { s.pins with wrstL := false } }
    else { s with pins := { s.pins with wrstL := false } })

/-- PWROK falls: as PORST_L, and the rails ramp down (R595). -/
def execPwrokFall (s : State) : Out :=
  .next (let s := s.porst
    { s with pins := { s.pins with pwrok := false, railsUp := false } })

/-- Loss of REF_CLK while PWROK is high (R595). -/
def execRefClkLoss (s : State) : Out :=
  .next (let s := { s with pins := { s.pins with refClk := false } }
    if s.pins.pwrok then s.beyond 40 0xf0 595 else s)

/-- The supplies come up in the order of R594, with PORST_L low; the rails follow PWROK (log 54). -/
def execPowerUp (s : State) : Out :=
  .next (let s := s.afterReset false
    { s with pins := { s.pins with
      vaon := true, vin48 := true, pwrok := true, refClk := true, railsUp := true, porstL := false, wrstL := true, thermTrip := false } })

def execBoot (reached : Fin 10) (failed : List ChanId) (s : State) : Out := .next (s.boot reached failed)

/-- Loss of VAON stops the standby and AON domains, and what AON held is lost (R483, R508, R596) (log 44). -/
def execVaonLoss (s : State) : Out :=
  .next (let s := s.porst.setFld (mgtKey 0x208) 21 21 0
    { s with pins := { s.pins with vaon := false, railsUp := false } })

/-- The watchdog of a die expires (R555, R563): before READY a warm reset; after it the controller alone restarts, and a second expiry
within 10 s is beyond the module. -/
def execWatchdogExpiry (md : Md) (s : State) : Out :=
  .next (
    let booting := s.fld (mdKey md 0x300) 2 0 != 3
    let t0 := nget s.mgt.wdogKicked md 0
    let s := s.reach (t0 + 4000000 * (if booting then 120000 else s.fld (mdKey md 0x400) 15 0))
    let s := (s.satFld (mdKey md 0x400) 47 32 1).countMd md 0xb6
    if booting then s.warmReset
    else
      let again : Bool := match nget? s.mgt.wdogExpired md with | some t => decide (s.now ≤ 40000000000 + t) | none => false
      let s := { s with mgt := { s.mgt with
        wdogExpired := nset s.mgt.wdogExpired md s.now, ctrlRestart := nset s.mgt.ctrlRestart md s.now, wdogKicked := nset s.mgt.wdogKicked md s.now } }
      if again then s.beyond (40 + md) 0xf0 563 else s)

end Sys2Proof.Machine
end

