-- ==== Sys2Proof/Machine/Matrix.lean ====
section
/-!
DEFINITION. The matrix slot (R97 to R100, R146 to R153, R167 to R170).
-/
namespace Sys2Proof.Machine

/-- Effective address sa + imm8 × 64 (R97). -/
def mEff (x : CoreState) (w : Nat) : Nat := effAddr (x.s (fMsa w)) (64 * fImm8 w)

/-- Staged values that are active for an operation issued in cycle `t` (R152). -/
def CoreState.latch (x : CoreState) (t : Nat) : CoreState :=
  let x := match x.staged with
    | some (t0, tl) => if t0 + 4 ≤ t then { x with active := some tl, staged := none } else x
    | none => x
  match x.stagedScales with
  | some (t0, v, p) => if t0 + 4 ≤ t then { x with scales := v, scalesBad := p, stagedScales := none } else x
  | none => x

/-- Mask word that applies to an MSTEP issued in cycle `t` (R169). -/
def CoreState.maskAt (x : CoreState) (t : Nat) : BitVec 17 × Bool :=
  match x.masks.find? fun m => m.1 + 2 ≤ t with
  | some m => m.2
  | none => (0, false)

/-- MWLD (R151, R152): one unit, or two in wide-shallow mode with a 16-bit format. The address obeys the rule of R148 (log 10). -/
def State.mwldEff (s : State) (c : CoreId) (w : Nat) : State :=
  let x := s.core c
  let a := mEff x w
  let two := s.arrayMode c.benchId == 1 && fMfmt w ≤ 1
  if !(lsOk a 64 && a + (if two then 128 else 64) ≤ 0x10000) then s.coreFault c 2 1 x.lastIdx
  else
    let r := s.lsRead c a 64
    let x := (r.2.2.core c).latch s.now
    let t : Tile := ⟨fMfmt w, s.arrayMode c.benchId == 1, BitVec.ofNat 1024 r.1, r.2.1 || x.pz (fMsa w)⟩
    let x := { x with staged := some (s.now, t), lastLoad := some s.now, lastWide := if two then some s.now else x.lastWide }
    let x := if two then x.addResult ⟨s.now, 9, .wide (a + 64), 0, false, x.region.isSome⟩ else x
    (r.2.2.setCore c x).countCore c 0x2c

/-- MSCL: bytes 0 to 3 of one unit are the column scales (R151). -/
def State.msclEff (s : State) (c : CoreId) (w : Nat) : State :=
  let x := s.core c
  let a := mEff x w
  if !lsOk a 64 then s.coreFault c 2 1 x.lastIdx
  else
    let r := s.lsRead c a 64
    let x := (r.2.2.core c).latch s.now
    r.2.2.setCore c { x with stagedScales := some (s.now, BitVec.ofNat 32 r.1, r.2.1 || x.pz (fMsa w)), lastLoad := some s.now }

/-- MMASK (R169): the word goes to CORE_MMASK and applies from two cycles later. -/
def State.mmaskEff (s : State) (c : CoreId) (w : Nat) : State :=
  let x := s.core c
  let a := (x.s (fMsa w)).toNat
  if !lsOk a 8 then s.coreFault c 2 1 x.lastIdx
  else
    let r := s.lsRead c a 8
    let x := r.2.2.core c
    let s1 := r.2.2.setCore c { x with masks := (s.now, BitVec.ofNat 17 r.1, r.2.1 || x.pz (fMsa w)) :: x.masks.take 2 }
    (s1.setReg (coreKey c 0x10) (BitVec.ofNat 64 (r.1 % 2 ^ 17))).countCore c 0x2d

/-- MSTEP (R146 to R149, R167): what the core latches in its issue cycle; the step closes when all 64 cores have issued. A feeder whose
address breaks R148 faults, and what it would feed is a poisoned free value (log 2). -/
def State.mstepEff (s : State) (c : CoreId) (w : Nat) : State :=
  let b := c.benchId
  let x := (s.core c).latch s.now
  let s := s.setCore c x
  let kind := stepKind (s.arrayMode b) (fT w)
  let a := mEff x w
  let feeds := isFeeder kind (s.feed b) c.core
  let ok := lsOk a 64
  let fd := if !feeds then (0, false, s) else if ok then s.lsRead c a 64 else (s.free.toNat, true, s.drew)
  let s := fd.2.2
  let s := if feeds && !ok then s.coreFault c 2 1 x.lastIdx else s
  let mk := x.maskAt s.now
  let v : MVote := ⟨c.core, fTile w, fMfmt w, fT w, fZ w, fM w, BitVec.ofNat 512 fd.1, fd.2.1 || (feeds && x.pz (fMsa w)), x.active, x.scales,
    x.scalesBad, mk.1, mk.2⟩
  let s := s.updBench b fun y => { y with mvotes := insertMVote y.mvotes v, mcycle := s.now }
  if (s.bench b).mvotes.length = 64 then s.closeStep b else s

def execMnop (c : CoreId) (b : Bundle) (s : State) : Out := .next (s.slotDo c b 1 0x00 fun _ s => s)
def execMwld (c : CoreId) (b : Bundle) (s : State) : Out := .next (s.slotDo c b 1 0x01 fun w s => s.mwldEff c w)
def execMscl (c : CoreId) (b : Bundle) (s : State) : Out := .next (s.slotDo c b 1 0x02 fun w s => s.msclEff c w)
def execMstep (c : CoreId) (b : Bundle) (s : State) : Out := .next (s.slotDo c b 1 0x03 fun w s => s.mstepEff c w)
def execMmask (c : CoreId) (b : Bundle) (s : State) : Out := .next (s.slotDo c b 1 0x04 fun w s => s.mmaskEff c w)

/-- The clock reaches the end of cycle c + 7 of the bench's oldest step, and its results are written (R167). -/
def execArrayResultWrite (b : BenchId) (s : State) : Out :=
  .next (let s := s.settle b s.now
    match (s.bench b).steps with
    | [] => s
    | r :: _ =>
      let s := s.reach (r.issue + 8)
      s.writeSteps b s.now)

end Sys2Proof.Machine
end

