-- ==== Sys2Proof/Machine/Mgmt.lean ====
section
/-!
DEFINITION. Host services and the management subsystem (R559 to R574): the loader (R66 to R70, R618), host restarts, I3C sensors, log
entries and drives.
-/
namespace Sys2Proof.Machine

/-! The loader. -/

/-- Where a piece of a sample goes: bucket and slot, token offset of the piece, tokens. -/
structure Piece where
  bucket : Nat
  slot : Nat
  tokenOff : Nat
  count : Nat
  deriving DecidableEq, Repr

/-- Slots used so far, by bucket. -/
abbrev Used := NMap Nat

/-- Longest LEN of a bucket table (log 46). -/
def longest (bs : List LenBucket) : Nat := (bs.getLast?.map LenBucket.len).getD 0

/-- Buckets in which a sample may stand whole, by policy: its natural bucket, and under POLICY 0 every longer one (R67) (log 46). -/
def wholeChoices (bs : List LenBucket) (policy tokens : Nat) : List Nat :=
  match bs.findIdx? fun b => tokens ≤ b.len with
  | none => []
  | some n => if policy = 0 then (List.range bs.length).filter fun i => n ≤ i else [n]

def slotsOf (bs : List LenBucket) (i : Nat) : Nat := (bs[i]?.map LenBucket.slots).getD 0

/-- Pieces of a sample in the step, with the slots then used; none while no placement of R67 has room. DESIGN CHOICE (log 46): R67 names
neither the free slot that a sample takes nor the two of a split; a bucket's slots are taken in the order of `slotOrder`, a split takes two
that follow each other in it. `slot` counts in that order. -/
def placeSample (bs : List LenBucket) (policy tokens : Nat) (u : Used) : Option (List Piece × Used) :=
  if tokens ≤ longest bs then
    ((wholeChoices bs policy tokens).find? fun i => nget u i 0 < slotsOf bs i).map fun i =>
      ([⟨i, nget u i 0, 0, tokens⟩], nset u i (nget u i 0 + 1))
  else
    let i := bs.length - 1
    let k := nget u i 0
    if policy = 1 && k + 2 ≤ slotsOf bs i then
      some ([⟨i, k, 0, longest bs⟩, ⟨i, k + 1, longest bs, tokens - longest bs⟩], nset u i (k + 2))
    else none

/-- Does a sample fit no placement in any step (R68)? -/
def neverFits (bs : List LenBucket) (policy tokens : Nat) : Bool := 2 * longest bs < tokens || (policy == 0 && longest bs < tokens)

/-- Outcome of packing: pieces placed with their samples, samples held back, samples dropped. -/
structure Packing where
  used : Used := []
  placed : List (Sample × Piece) := []
  held : List Sample := []
  dropped : Nat := 0
  deriving DecidableEq, Repr

def packOne (bs : List LenBucket) (policy : Nat) (p : Packing) (x : Sample) : Packing :=
  if neverFits bs policy x.tokens then { p with dropped := p.dropped + 1 }
  else match placeSample bs policy x.tokens p.used with
    | some r => { p with used := r.2, placed := p.placed ++ r.1.map fun (q : Piece) => (x, q) }
    | none => { p with held := p.held ++ [x] }

/-- Samples held back come ahead of those that follow (R68) (log 46). -/
def pack (bs : List LenBucket) (policy : Nat) (xs : List Sample) : Packing := xs.foldl (packOne bs policy) {}

/-- Slots of bucket `i` in the order in which the step plan first names their micro-batches, then the others, ascending (R619): MB k is the
k-th slot of the step, counted bucket by bucket (log 46). -/
def slotOrder (bs : List LenBucket) (plan : List (Nat × Nat × Nat × Nat × Nat)) (i : Nat) : List Nat :=
  let base := ((bs.take i).map LenBucket.slots).foldl (· + ·) 0
  let own := (List.range (slotsOf bs i)).filter fun j => plan.any fun e => e.2.2.2.1 == base + j
  let named := (plan.map fun e => e.2.2.2.1).foldl (fun (acc : List Nat) k =>
    if base ≤ k && own.contains (k - base) && !acc.contains (k - base) then acc ++ [k - base] else acc) []
  named ++ (List.range (slotsOf bs i)).filter fun j => !own.contains j
/-- The pieces in the slots of the step. -/
def Packing.inSlots (bs : List LenBucket) (plan : List (Nat × Nat × Nat × Nat × Nat)) (p : Packing) : Packing :=
  let orders := (List.range bs.length).map (slotOrder bs plan)
  { p with placed := p.placed.map fun (e : Sample × Piece) => (e.1, { e.2 with slot := (orders.getD e.2.bucket []).getD e.2.slot e.2.slot }) }
/-- Attention spans carried across a split (R67): sample, bucket, its two slots in token order. -/
def Packing.spans (p : Packing) : List (Nat × Nat × Nat × Nat) :=
  (p.placed.zip (p.placed.drop 1)).filterMap fun e =>
    if e.2.2.tokenOff != 0 then some (e.2.1.id, e.2.2.bucket, e.1.2.slot, e.2.2.slot) else none

/-- Bytes of a piece. -/
def pieceBytes (x : Sample) (q : Piece) : List Byte :=
  let w := x.data.length / max x.tokens 1
  (x.data.drop (q.tokenOff * w)).take (q.count * w)

/-- A slot's head (R618): step, READY and the count of valid tokens. -/
def slotHead (step valid : Nat) : List Byte := leBytes 8 (2 ^ 63 + step % 2 ^ 40) ++ leBytes 4 valid ++ leBytes 52 0

def slotAddr (b : LenBucket) (j : Nat) : Nat := b.base + j * b.stride

/-- Writes one slot of a bucket: its tokens, then its head. -/
def State.writeSlot (s : State) (step : Nat) (b : LenBucket) (i j : Nat) (p : Packing) : State :=
  match p.placed.find? fun e => e.2.bucket == i && e.2.slot == j with
  | some e =>
    let s := s.storeLong (slotAddr b j + 64) ((pieceBytes e.1 e.2).take (b.stride - 64)) false
    s.storeLong (slotAddr b j) (slotHead step e.2.count) false
  | none => s.storeLong (slotAddr b j) (slotHead step 0) false

def State.writeSlots (s : State) (step : Nat) (bs : List LenBucket) (p : Packing) : State :=
  bs.zipIdx.foldl (fun s (e : LenBucket × Nat) => (List.range e.1.slots).foldl (fun s j => s.writeSlot step e.1 e.2 j p) s) s

/-- Whether a service of the host cores can run: those of one die carry the other's (R560). -/
def State.hostsUp (s : State) : Bool := !(s.mgt.hostDown.contains 0 && s.mgt.hostDown.contains 1)

/-- The host cores write the step's trainable-block maps into LPDDR6 (R191). -/
def State.writeMaps (s : State) (maps : List (Nat × List Byte)) : State :=
  maps.foldl (fun s m => match placeOf m.1 with
    | .lpddr _ _ => s.storeLong m.1 m.2 false
    | _ => s) s

/-- LOADER_PACK: the space of a step whose inputs are held is not reused, and the inputs written now are held from here on (R32, R460). A step
packed again is packed from where its first packing began (R69) (log 46). -/
def State.loaderPack (s : State) (step : Nat) (xs : List Sample) (maps : List (Nat × List Byte)) : State :=
  if !s.hostsUp || s.tab.loaded.isNone || s.job.heldInputs.any fun n => n != step then s
  else
    let from' := (nget? s.loader.marks step).getD (s.loader.cursor, s.loader.held)
    let bs := bucketsOf s.theTab
    let p := (pack bs (hdrPolicy s.theTab) (from'.2 ++ xs)).inSlots bs (planOf s.theTab)
    let s := { s with job := { s.job with heldInputs := sinsert s.job.heldInputs step }, loader := { s.loader with
      held := p.held, oversize := s.loader.oversize + p.dropped, cursor := from'.1 + xs.length, marks := nset s.loader.marks step from'
      placed := p.placed.map fun (e : Sample × Piece) => (e.1.id, e.2.bucket, e.2.slot, e.2.tokenOff), spans := p.spans, step := step } }
    (s.writeSlots step bs p).writeMaps maps

/-! Host software (R561). -/

/-- Restarts of a die's host software within the last hour (log 47). -/
def State.recentRestarts (s : State) (md : Md) : List (Nat × Nat) :=
  s.mgt.hostRestarts.filter fun r => r.1 == md.val && s.now ≤ 14400000000000 + r.2

def State.hostRestart (s : State) (md : Md) : State :=
  let s := s.log md 1 true 561 (mdKey md 0 / 2 ^ 17) 0
  let s := { s with mgt := { s.mgt with hostRestarts := s.mgt.hostRestarts ++ [(md.val, s.now)] } }
  if (s.recentRestarts md).length < 3 then s
  else ({ s with mgt := { s.mgt with hostDown := sinsert s.mgt.hostDown md } } : State).beyond (40 + md) 0xf0 561

/-! I3C (R565, R566). -/

def State.i3cPoll (s : State) (dev : Fin 32) (answer : Option (BitVec 16)) : State :=
  let k := sensorKey 3 0 dev
  match answer with
  | some v => { s with mgt := { s.mgt with sensors := nset s.mgt.sensors k (v, true, s.tbNow), i3cMisses := nerase s.mgt.i3cMisses dev } }
  | none =>
    let n := nget s.mgt.i3cMisses dev 0 + 1
    let s := ({ s with mgt := { s.mgt with i3cMisses := nset s.mgt.i3cMisses dev n } } : State).countMd 1 0xb8
    if n = 3 then
      let s := match nget? s.mgt.sensors k with
        | some r => { s with mgt := { s.mgt with sensors := nset s.mgt.sensors k (r.1, false, r.2.2) } }
        | none => s
      s.log 1 1 false 566 (mdKey 1 0 / 2 ^ 17) dev
    else s

/-! Drives (R574). -/

def State.driveOut (s : State) (d : Nat) : State :=
  ({ s with mgt := { s.mgt with drivesOut := sinsert s.mgt.drivesOut d } } : State).log 0 1 false 574 (mdKey 0 0 / 2 ^ 17) d

/-! Meanings. -/

def execLoaderPack (step : BitVec 40) (data : StepData) (s : State) : Out :=
  .next (s.loaderPack step.toNat data.samples (data.maps.map fun m => (m.1.toNat, m.2)))
def execHostRestart (md : Md) (s : State) : Out := .next (s.hostRestart md)
def execI3cPoll (dev : Fin 32) (answer : Option (BitVec 16)) (s : State) : Out := .next (s.i3cPoll dev answer)
def execI3cInBandInterrupt (dev : Fin 32) (data : BitVec 16) (s : State) : Out :=
  .next (s.log 1 0 false 566 (mdKey 1 0 / 2 ^ 17) (2 ^ 16 * dev + data.toNat))
def execLogEntry (md : Md) (severity : Fin 4) (pinned : Bool) (code : BitVec 16) (loc : BitVec 21) (data : BitVec 224) (s : State) : Out :=
  .next (s.logEvent md severity pinned code.toNat loc.toNat data.toNat)
def execDriveRemoval (drive : Nat) (s : State) : Out := .next (s.driveOut drive)
def execDriveReplacement (drive : Nat) (s : State) : Out :=
  .next { s with mgt := { s.mgt with drivesOut := serase s.mgt.drivesOut drive } }

end Sys2Proof.Machine
end

