-- ==== Sys2Proof/Machine/Scalar.lean ====
section
/-!
DEFINITION. The scalar slot (R90 to R96) and the writing of due results (R87, R88).
-/
namespace Sys2Proof.Machine

/-- SALU function (R92). -/
def saluVal (fn : Nat) (a b : Word64) : Word64 :=
  let sh := b.toNat % 64
  match fn with
  | 0x000 => a + b
  | 0x001 => a - b
  | 0x002 => a &&& b
  | 0x003 => a ||| b
  | 0x004 => a ^^^ b
  | 0x005 => a <<< sh
  | 0x006 => a >>> sh
  | 0x007 => a.sshiftRight sh
  | 0x008 => if a.slt b then 1 else 0
  | 0x009 => if a.ult b then 1 else 0
  | 0x00a => if a.slt b then a else b
  | 0x00b => if a.slt b then b else a
  | 0x00c => if a.ult b then a else b
  | 0x00d => if a.ult b then b else a
  | 0x010 => a * b
  | 0x011 => BitVec.ofNat 64 (a.toNat * b.toNat / 2 ^ 64)
  | _ => BitVec.ofInt 64 (a.toInt * b.toInt / 2 ^ 64)

/-- Latency of a SALU function (R91). -/
def saluLat (fn : Nat) : Nat := if fn < 0x10 then 1 else 3

/-- SHI: amount [5:0], kind [7:6] (R91). -/
def shiVal (imm : Nat) (a : Word64) : Word64 :=
  match imm / 64 % 4 with
  | 0 => a <<< (imm % 64)
  | 1 => a >>> (imm % 64)
  | _ => a.sshiftRight (imm % 64)

/-- LIM: one halfword replaced (R91). -/
def limVal (h imm : Nat) (a : Word64) : Word64 := putBits a (16 * h + 15) (16 * h) imm

def sextImm (w : Nat) : Word64 := BitVec.ofInt 64 (sext 16 (fImm16 w))
def zextImm (w : Nat) : Word64 := BitVec.ofNat 64 (fImm16 w)

/-- A scalar result from one source register and the slot word. -/
def State.scalarImm (s : State) (c : CoreId) (f : Nat → Word64 → Word64) (w : Nat) : State :=
  let x := s.core c
  s.post c 0 1 (.s (fSd w)) ((f w (x.s (fSa w))).setWidth 512) (x.pz (fSa w))

def State.saluEff (s : State) (c : CoreId) (w : Nat) : State :=
  let x := s.core c
  s.post c 0 (saluLat (fFunc11 w)) (.s (fSd w)) ((saluVal (fFunc11 w) (x.s (fSa w)) (x.s (fSb w))).setWidth 512)
    (x.anyPz [fSa w, fSb w])

/-- LIM keeps the other halfwords of its destination. -/
def State.limEff (s : State) (c : CoreId) (w : Nat) : State :=
  let x := s.core c
  s.post c 0 1 (.s (fSd w)) ((limVal (bitsOf w 17 16) (fImm16 w) (x.s (fSd w))).setWidth 512) (x.pz (fSd w))

/-- BR conditions (R93). -/
def brHolds (cond : Nat) (a b : Word64) : Bool :=
  match cond with
  | 0 => a == b
  | 1 => a != b
  | 2 => a.slt b
  | 3 => !a.slt b
  | 4 => a.ult b
  | 5 => !a.ult b
  | _ => true

/-- The branch takes effect after its delay slot (R93). -/
def State.brEff (s : State) (c : CoreId) (w : Nat) : State :=
  let x := s.core c
  if brHolds (fCond w) (x.s (fBsa w)) (x.s (fBsb w)) then s.setCore c { x with branch := some (BitVec.ofNat 9 (fTarget w)) } else s

/-- LOOP (R94): the index already stands after the LOOP's bundle. DESIGN CHOICE (log 22): in the delay slot of a taken branch, or at the
end index of an outer loop, a count of 0 sets the next index, and a count above 0 leaves the branch target or the outer loop's first index. -/
def State.loopEff (s : State) (c : CoreId) (w : Nat) : State :=
  let x := s.core c
  let n := (x.s (fBsa w)).toNat
  let t := BitVec.ofNat 9 (fTarget w)
  if n = 0 then s.setCore c { x with nextIdx := t + 1 }
  else s.setCore c { x with loops := ⟨x.lastIdx + 1, t, n - 1⟩ :: x.loops }

/-- Module number of R5. -/
def State.moduleNo (s : State) : Nat := (Config.moduleNumber s.sec.imageHash).toNat

/-- Special registers (R96); frozen CYC and TB in a region (R60). -/
def State.special (s : State) (c : CoreId) (n : Nat) : Nat :=
  let rg := (s.core c).region
  match n with
  | 0 => s.stepNo
  | 1 => s.job.seg
  | 2 => match rg with | some r => r.cyc | none => s.cyc c.benchId
  | 3 => match rg with | some r => r.tb | none => s.tbNow
  | 4 => c.core + (s.benchLog c.benchId).getD 0xff * 2 ^ 6 + 2 ^ 14 * (s.dieLog c.die).getD 0x1f + 2 ^ 19 * s.moduleNo
  | _ => match s.job.cur with | some d => d.seedEpoch.toNat | none => 0

def State.rdsrEff (s : State) (c : CoreId) (w : Nat) : State :=
  s.post c 0 1 (.s (fSd w)) (BitVec.ofNat 512 (s.special c (fImm16 w) % 2 ^ 64)) false

/-- Slot 0: the scalar no-operation (R86). -/
def execSnop (c : CoreId) (b : Bundle) (s : State) : Out := .next (s.slotDo c b 0 0x00 fun _ s => s)
/-- R92. -/
def execSalu (c : CoreId) (b : Bundle) (s : State) : Out := .next (s.slotDo c b 0 0x01 fun w s => s.saluEff c w)
def execAddi (c : CoreId) (b : Bundle) (s : State) : Out :=
  .next (s.slotDo c b 0 0x02 fun w s => s.scalarImm c (fun w a => a + sextImm w) w)
def execAndi (c : CoreId) (b : Bundle) (s : State) : Out :=
  .next (s.slotDo c b 0 0x03 fun w s => s.scalarImm c (fun w a => a &&& zextImm w) w)
def execOri (c : CoreId) (b : Bundle) (s : State) : Out :=
  .next (s.slotDo c b 0 0x04 fun w s => s.scalarImm c (fun w a => a ||| zextImm w) w)
def execXori (c : CoreId) (b : Bundle) (s : State) : Out :=
  .next (s.slotDo c b 0 0x05 fun w s => s.scalarImm c (fun w a => a ^^^ zextImm w) w)
def execShi (c : CoreId) (b : Bundle) (s : State) : Out :=
  .next (s.slotDo c b 0 0x06 fun w s => s.scalarImm c (fun w a => shiVal (fImm16 w) a) w)
def execLim (c : CoreId) (b : Bundle) (s : State) : Out := .next (s.slotDo c b 0 0x07 fun w s => s.limEff c w)
def execBr (c : CoreId) (b : Bundle) (s : State) : Out := .next (s.slotDo c b 0 0x08 fun w s => s.brEff c w)
def execLoop (c : CoreId) (b : Bundle) (s : State) : Out := .next (s.slotDo c b 0 0x09 fun w s => s.loopEff c w)
def execRdsr (c : CoreId) (b : Bundle) (s : State) : Out := .next (s.slotDo c b 0 0x0a fun w s => s.rdsrEff c w)

/-- The clock reaches the end of the cycle in which the core's earliest result is due, and every result due by then is written (R87). -/
def execRegisterWriteback (c : CoreId) (s : State) : Out :=
  .next (match (s.core c).results with
    | [] => s
    | r :: _ =>
      let s := s.reach (r.due + 1)
      s.applyBefore c s.now)

end Sys2Proof.Machine
end

