-- ==== Sys2Proof/Machine/Sessions.lean ====
section
/-!
DEFINITION. Management sessions (R556, R575, R576), recovery (R548), image updates (R553), attestation (R551, R552), and the log and
reset requests (R570, R577).
-/
namespace Sys2Proof.Machine

/-! Sessions. -/

/-- The management port is up: from order 4 of R546, or under the recovery service (R547) (log 48). -/
def State.portUp (s : State) (md : Md) : Bool := 2 ≤ s.fld (mdKey md 0x300) 2 0 && s.fld (mdKey md 0x300) 16 16 == 1

def State.sessionsOf (s : State) (md : Md) : Nat := (s.mgt.sessions.filter fun x => x.md == md.val).length

/-- Refuses a session, and counts it (log 48). -/
def State.sessionRefused (s : State) (md : Md) (session status : Nat) : State :=
  (s.countMd md 0xb3).say .sessionReply [md, session, status]

/-- Order 2 of R556: H covers the encapsulation key, the nonce, the ciphertext, the module's nonce and its public key (log 48). -/
def State.sessionOpen (s : State) (md : Md) (session : Nat) (ek nonce : List Byte) : State :=
  if !s.portUp md then s
  else if ek.length != 1184 || nonce.length != 32 then s.sessionRefused md session stMalformed
  else if 8 ≤ s.sessionsOf md || (s.session? md session).isSome then s.sessionRefused md session stBusy
  else
    let k := Config.mlkemEncaps ek s.sec.draws
    let own := Config.nonce s.sec.draws
    let pub := identityKey md
    let h := sha3 (ek ++ nonce ++ k.2 ++ own ++ pub)
    let x : Session := ⟨md, session, h, k.1, false, [], [], 0, none, [], 0, s.now, none⟩
    let s := { s with sec := { s.sec with draws := s.sec.draws + 1 }, mgt := { s.mgt with sessions := s.mgt.sessions ++ [x] } }
    s.say .sessionReply ([md.val, session, stOk] ++ (k.2 ++ own ++ pub ++ Config.mldsaSign (identitySeed md) h).map BitVec.toNat)

/-- Keys of the access list with their masks; none before an image has booted (R544). -/
def State.accessList (s : State) : List (List Byte × BitVec 16) :=
  if s.sec.bootedSlot.isSome then Config.accessKeys s.sec.imageHash else []

/-- Order 4: the two keys, the first for requests (log 48). -/
def sessionKeys (x : Session) : List Byte := shake256 (x.secret ++ x.transcript) 64

/-- Orders 3 and 4 of R556 (log 48). -/
def State.sessionConfirm (s : State) (md : Md) (session : Nat) (sig : List Byte) : State :=
  match s.session? md session with
  | none => s.discard md
  | some x =>
    if x.opened then s.discard md
    else match s.accessList.find? fun k => Config.mldsaVerify k.1 x.transcript sig with
      | some k =>
        let ks := sessionKeys x
        -- permission bits 7 to 15 grant nothing (R577)
        let s := s.putSession { x with opened := true, rxKey := ks.take 32, txKey := ks.drop 32, perms := k.2 &&& 0x7f#16, lastUse := s.now }
        (s.countMd md 0xb2).say .sessionReply [md, session, stOk]
      | none => (s.dropSession md session).sessionRefused md session stDenied

/-- Core cycles of 300 s. -/
def idleCycles : Nat := 1200000000000

/-- A session idle for 300 s, or with 2^32 requests, is closed (R576) (log 48). -/
def State.sessionIdle (s : State) (md : Md) (session : Nat) : State :=
  match s.session? md session with
  | none => s
  | some x => (if 2 ^ 32 ≤ x.requests then s else s.reach (x.lastUse + idleCycles)).dropSession md session

/-! Recovery (R548). -/

def State.reasonTen (s : State) : Bool := s.fld (mdKey 0 0x300) 11 8 == 10
/-- The SEC_ registers of a die (R557). -/
def State.secRegs (s : State) (md : Md) : List Nat := (List.range 15).map fun i => (s.reg (storeKey (mdKey md (0x300 + 8 * i)))).toNat

def State.setSlot (s : State) (slot : Nat) (g : Option ImageSlot) : State :=
  { s with flash := { s.flash with slots := s.flash.slots.set slot g } }

/-! Updates (R553). -/

/-- SEC_UPDATE fields on both dies. -/
def State.updateField (s : State) (hi lo v : Nat) : State := s.bothMd 0x370 hi lo v

/-- IMAGE_UPLOAD of an admitted request: refused for the booted slot or the one that PENDING names, or while another runs; else the slot is
erased and written, header last, and its verification begins (log 49). -/
def State.upload (s : State) (rq : Rq) (slot : Fin 2) (img : ImageSlot) : State :=
  if s.sec.bootedSlot == some slot.val || s.sec.record.pending = slot.val then (s.updateField 6 4 2).reply rq stRefused [2]
  else if s.sec.upload.isSome then (s.updateField 6 4 3).reply rq stRefused [3]
  else
    let s := { s with sec := { s.sec with upload := some (rq, slot.val) } }
    (((s.setSlot slot (some img)).updateField 1 0 2).updateField 2 2 slot).updateField 11 4 0

/-- The verification from flash: PENDING and TRIED on a pass, RESULT 4 with its reason else (log 49). -/
def State.verified (s : State) : State :=
  match s.sec.upload with
  | none => s
  | some u =>
    let r := s.sec.record
    let why := slotReason (s.slotAt u.2) (s.reg (mgtKey 0)).toNat (validDelegation r) r.vendorKey r.minSvn.toNat
    let s := ({ s with sec := { s.sec with upload := none } } : State).updateField 1 0 0
    if why = 0 then
      let s := (s.updRecord fun r => { r with pending := u.2, tried := 0 }).flushRecord
      (s.updateField 6 4 1).reply u.1 stOk [1]
    else ((s.updateField 6 4 4).updateField 11 8 why).reply u.1 stRefused [4]

/-! Attestation (R551, R552). -/

/-- Bytes 0x000 to 0x0FF of a report; the run measurement is the one before an extension of this fabric cycle (R552). -/
def State.report (s : State) (md : Md) (nonce : List Byte) : List Byte :=
  let boot := s.fld (mdKey md 0x300) 4 3 + 2 ^ 7 * s.fld (mdKey md 0x300) 18 18
  leBytes 4 0xa77ee064 ++ leBytes 4 (40 + md) ++ nonce ++ leBytes 8 (s.reg (mgtKey 0)).toNat ++ leBytes 8 (s.reg (mgtKey 0x308)).toNat ++
    leBytes 1 boot ++ leBytes 1 s.tabState ++ leBytes 6 0 ++ s.sec.meas ++ s.cycle.measWas.getD s.sec.runMeas ++ idHash 0 ++ idHash 1 ++ leBytes 8 s.tbNow ++
    leBytes 56 0

/-- Answers an admitted request, at most 16 in a second (log 49). -/
def State.attest (s : State) (rq : Rq) (nonce : List Byte) : State :=
  let sec := s.tbNow / 1000000000
  let n := match nget? s.sec.attests rq.md with | some p => if p.1 = sec then p.2 else 0 | none => 0
  let s := s.countMd rq.md 0xb4
  if nonce.length != 32 then s.reply rq stMalformed []
  else if 16 ≤ n then s.reply rq stBusy []
  else
    let body := s.report rq.md nonce
    let s := { s with sec := { s.sec with attests := nset s.sec.attests rq.md (sec, n + 1) } }
    s.reply rq stOk ((body ++ Config.mldsaSign (identitySeed rq.md) body).map BitVec.toNat)

/-! The log on request (R568, R570). -/

/-- The 64 bytes of an entry. -/
def LogRec.bytes (e : LogRec) : List Byte :=
  let bs := leBytes 8 e.time ++ leBytes 4 e.seq ++ leBytes 1 e.severity ++ leBytes 1 (e.pinned.toNat + 2 * (e.md % 2)) ++ leBytes 2 e.code ++
    leBytes 8 (e.step % 2 ^ 40) ++ leBytes 8 (e.loc % 2 ^ 21) ++ leBytes 28 e.data
  bs ++ leBytes 4 (crc32 bs).toNat

/-- Notes what a session has read of the flash partition from its start on (log 49). -/
def State.noteRead (s : State) (rq : Rq) (first count : Nat) : State :=
  match s.session? rq.md rq.session.toNat with
  | none => s
  | some x =>
    let upTo := x.logReadTo.getD 0
    if first ≤ upTo then s.putSession { x with logReadTo := some (max upTo (first + count)) } else s

/-- LOG_READ: entries of the die's ring, or of the flash partition. -/
def State.logRead (s : State) (rq : Rq) (ring : Bool) (first count : Nat) : State :=
  let all := if ring then s.mgt.ring.filter fun e => e.md == rq.md.val else s.flash.log
  let es := (all.drop first).take count
  let s := if ring then s else s.noteRead rq first es.length
  s.reply rq stOk ((es.map fun e => (LogRec.bytes e).map BitVec.toNat).flatten)

/-- Has the session read the whole partition as it stands? (log 49) -/
def State.readWhole (s : State) (rq : Rq) : Bool :=
  match (s.session? rq.md rq.session.toNat).bind Session.logReadTo with
  | some n => s.flash.log.length ≤ n
  | none => false

def State.logErase (s : State) (rq : Rq) : State :=
  if s.readWhole rq then
    let fresh := s.mgt.sessions.map fun (x : Session) => { x with logReadTo := none }
    let s := { s with flash := { s.flash with log := [] }, mgt := { s.mgt with sessions := fresh } }
    (s.setFld (mdKey 0 0x420) 16 16 0).reply rq stOk []
  else s.reply rq stRefused []

/-! Meanings. -/

def execSessionOpenRequest (md : Md) (session : BitVec 32) (ek nonce : List Byte) (s : State) : Out :=
  .next (s.sessionOpen md session.toNat ek nonce)
def execSessionOpenConfirm (md : Md) (session : BitVec 32) (sig : List Byte) (s : State) : Out :=
  .next (s.sessionConfirm md session.toNat sig)
def execSessionIdleTimeout (md : Md) (session : BitVec 32) (s : State) : Out := .next (s.sessionIdle md session.toNat)

/-- The status read, which the service offers under every reason. -/
def execRecoveryStatus (md : Md) (s : State) : Out :=
  .next (if s.sec.held then s.say .recoveryReply (md.val :: s.secRegs md) else s)
/-- The slot is written; PENDING and ACTIVE stay. -/
def execRecoveryUpload (slot : Fin 2) (img : ImageSlot) (s : State) : Out :=
  .next (if s.sec.held && !s.reasonTen then s.setSlot slot (some img) else s)
def execRecoveryReset (s : State) : Out := .next (if s.sec.held && !s.reasonTen then s.warmReset else s)

def execImageUpload (rq : Rq) (slot : Fin 2) (img : ImageSlot) (s : State) : Out :=
  .next (s.onRequest rq 0x30 3 fun s => s.upload rq slot img)
def execImageVerifyComplete (s : State) : Out := .next s.verified
def execPendingCancel (rq : Rq) (s : State) : Out :=
  .next (s.onRequest rq 0x30 3 fun s => ((s.updRecord fun r => { r with pending := 0xff }).flushRecord).reply rq stOk [])

def execAttestation (rq : Rq) (nonce : List Byte) (s : State) : Out := .next (s.onRequest rq 0x31 0 fun s => s.attest rq nonce)

def execLogRead (rq : Rq) (ring : Bool) (first count : Nat) (s : State) : Out :=
  .next (s.onRequest rq 0x40 4 fun s => s.logRead rq ring first count)
def execLogErase (rq : Rq) (s : State) : Out := .next (s.onRequest rq 0x40 4 fun s => s.logErase rq)

/-- Refused while RUNNING; else the answer, then the effects of WRST_L (log 49). -/
def execResetRequest (rq : Rq) (s : State) : Out :=
  .next (s.onRequest rq 0x50 5 fun s =>
    if s.tabState = tabRunning then s.reply rq stRefused [] else (s.reply rq stOk []).warmReset)

end Sys2Proof.Machine
end

