-- ==== Sys2Proof/Machine/Vector.lean ====
section
/-!
DEFINITION. The vector slot (R101 to R104, R200 to R235): operands, latencies and results.
-/
namespace Sys2Proof.Machine

/-- Latency by R102, R103 and R204 for an operation whose base latency is `base`. -/
def vLat (base ty : Nat) (acc : Bool) : Nat := (if ty = tyFp64 then 8 else base) + (if acc then 1 else 0)

/-- Counts operations of a type. -/
def State.countTy (s : State) (c : CoreId) (ty : Nat) : State :=
  if ty = tyBf16 then s.countCore c 0x4a else if ty = tyFp64 then s.countCore c 0x4b else s

/-- Posts a vector result. -/
def State.postV (s : State) (c : CoreId) (lat vd : Nat) (o : VOut) (cls : Nat) (bad : Bool) : State :=
  (s.post c 2 lat (.v vd) o.vec bad).countExc c cls o.exc

/-- A V3 operation with operands va and vb. -/
def State.v3Eff (s : State) (c : CoreId) (base cls : Nat) (f : Nat → Nat → Vec → Vec → VOut) (w : Nat) : State :=
  let x := s.core c
  let o := f (fTy3 w) (fFn w) (x.va w) (x.v (fVb w))
  (s.postV c (vLat base (fTy3 w) (fA w)) (fVd w) o cls (x.anyPz [vaReg w, vReg (fVb w)])).countTy c (fTy3 w)

/-- A V4 operation with operands va, vb and vc. -/
def State.v4Eff (s : State) (c : CoreId) (base cls : Nat) (f : Nat → Vec → Vec → Vec → VOut) (w : Nat) : State :=
  let x := s.core c
  let o := f (fTy4 w) (x.v (fVa w)) (x.v (fVb w)) (x.v (fVc w))
  (s.postV c (vLat base (fTy4 w) false) (fVd w) o cls (x.anyPz [vReg (fVa w), vReg (fVb w), vReg (fVc w)])).countTy c (fTy4 w)

/-- Operands of the function that reads no vb: a single-source operation is poisoned by va alone (R610). -/
def usesVb (op fn : Nat) : Bool :=
  match op with
  | 0x01 => fn != 7 && fn != 8
  | 0x05 => fn != 10
  | 0x08 => fn != 4
  | 0x09 => fn != 7
  | _ => true

def State.v3Sel (s : State) (c : CoreId) (op base cls : Nat) (f : Nat → Nat → Vec → Vec → VOut) (w : Nat) : State :=
  if usesVb op (fFn w) then s.v3Eff c base cls f w
  else
    let x := s.core c
    let o := f (fTy3 w) (fFn w) (x.va w) 0
    (s.postV c (vLat base (fTy3 w) (fA w)) (fVd w) o cls (x.pz (vaReg w))).countTy c (fTy3 w)

/-- SR draws of a VCVT (R143, R219): key the job seed, domain 0x10 + D, index s31 + k. -/
def State.cvtDraw (s : State) (c : CoreId) (d k : Nat) : Nat :=
  srDraw Config.jobSeed s.stepNo (0x10 + d) (((s.core c).s 31).toNat + k)

/-- VCVT (R215 to R219). -/
def State.vcvtEff (s : State) (c : CoreId) (w : Nat) : State :=
  let x := s.core c
  let sr := fRnd w == 2
  let draw := s.cvtDraw c (fFn w)
  let acc := if fA w then 1 else 0
  let srBad := sr && x.pz 31
  if isBlockTarget (fTgt w) then
    let r := vcvtBlock (fTgt w) (fRnd w) (x.va w) (x.vec (vaReg2 w)) draw
    let bad := x.anyPz [vaReg w, vaReg2 w] || srBad
    let s := (s.postV c (5 + acc) (fVd w) r.1 1 bad).post c 2 (5 + acc) (.v (fVd w + 1)) r.2 bad
    let s := s.countCore c 0x4c
    if sr then (s.countCore c 0x4d).countCore c 0x47 32 else s
  else
    let o := vcvtElems (fTy3 w) (fTgt w) (fRnd w) (fFn w) (x.va w) draw
    let s := s.postV c (vLat 3 (fTy3 w) (fA w)) (fVd w) o 1 (x.pz (vaReg w) || srBad)
    let s := s.countTy c (fTy3 w)
    if sr then (s.countCore c 0x4d).countCore c 0x47 16 else s

/-- Adds a vote to the ring operation of this cycle (R225). -/
def State.ringVote (s : State) (c : CoreId) (v : RVote) : State :=
  let b := c.benchId
  let s := s.updBench b fun y => { y with rvotes := insertRVote y.rvotes v, rcycle := s.now }
  if (s.bench b).rvotes.length = 64 then s.closeRing b else s

/-- VRED (R220 to R225). -/
def State.vredEff (s : State) (c : CoreId) (w : Nat) : State :=
  let x := s.core c
  let fn := fFn w
  let msk := fn.testBit 2
  let acc := if fA w then 1 else 0
  let bad := x.pz (vaReg w) || (msk && x.pz (vReg (fVb w)))
  let s := s.countTy c (fTy3 w)
  if fn / 8 = 0 then
    let r := laneRed (fTy3 w) (fn % 4) msk (x.va w) (x.v (fVb w))
    let s := if r.2 then s.countCore c 0x43 else s
    s.postV c (vLat 6 (fTy3 w) (fA w)) (fVd w) ⟨redSpread (fTy3 w) r.1, resExc (fTy3 w) (tyLanes (redTy (fTy3 w))) (redIns (fTy3 w) msk (x.va w) (x.v (fVb w))) r.1⟩ 2 bad
  else
    s.ringVote c ⟨c.core, opVred, fn, fTy3 w, fVd w, (if fn / 8 = 1 then 30 else 36) + acc, x.va w, x.v (fVb w), bad, 0⟩

/-- VSCAN (R228 to R231). -/
def State.vscanEff (s : State) (c : CoreId) (w : Nat) : State :=
  let x := s.core c
  let fn := fFn w
  let op := fn % 4
  let acc := if fA w then 1 else 0
  let carry := (s.reg (coreKey c 0x18)).setWidth 32
  let useC := fn.testBit 2 && (!fn.testBit 3 || c.core == 0)
  let bad := x.pz (vaReg w) || (op == 3 && x.pz (vReg (fVb w))) || (useC && x.pz carryReg)
  if fn.testBit 3 then
    s.ringVote c ⟨c.core, 0x0b, fn, fTy3 w, fVd w, (if op = 3 then 258 else 132) + acc, x.va w, x.v (fVb w), bad, carry⟩
  else
    let cin := if useC then some carry.toNat else none
    let y := scanVal (fTy3 w) op (x.va w) (x.v (fVb w)) cin
    let s := s.countExc c 2 (scanExc (fTy3 w) op (x.va w) (x.v (fVb w)) cin y)
    let s := s.post c 2 (6 + acc) (.v (fVd w)) (vecOf 32 y) bad
    s.post c 2 (6 + acc) (.carry s.job.segStart) (BitVec.ofNat 512 (y.getD 15 0)) bad

/-- VBFLY (R232). -/
def State.vbflyEff (s : State) (c : CoreId) (w : Nat) : State :=
  let x := s.core c
  let o := vbflyVal (fTy4 w) (w.testBit 8) (x.v (fVa w)) (x.v (fVc w))
  ((s.postV c (vLat 6 (fTy4 w) false) (fVd w) o 0 (x.anyPz [vReg (fVa w), vReg (fVc w)])).countTy c (fTy4 w)).countCore c 0x4f

/-- VSFN (R102, R104, R238 to R246): the sequencer runs until the end of cycle c + L - 1; a step that R245 makes a fault raises it in
the cycle in which that step begins. -/
def State.vsfnEff (s : State) (c : CoreId) (w : Nat) : State :=
  let x := s.core c
  let cfg := (s.reg (benchKey c.benchId 0x220)).toNat
  let pb := cfg % 2
  let sb := cfg / 2 % 2
  let r := sfsRun x s.sfsImage pb sb (cfg.testBit 2) (fProg w) (fVa w) (fVd w)
  let bad := x.anyPz (sfsReads x s.sfsImage pb sb (fProg w) (fVa w))
  let s := r.outs.foldl (fun s o => s.post c 2 r.latency (.v (fVd w + o.1)) o.2 bad) s
  let s := if r.fault then s.post c 2 (r.latency + 1) (.fault x.lastIdx.toNat) 0 false else s
  let s := (s.updCore c fun x => { x with sfs := some (pb, sb, s.now + max r.latency 1 - 1) }).setFld (coreKey c 0x28) 4 4 pb
  let s := ((s.countCore c 0x40).countCore c 0x41 r.flushes).countCore c 0x42 r.masked
  (s.countCore c 0x43 r.empties).countCore c 0x49 r.latency

def execVnop (c : CoreId) (b : Bundle) (s : State) : Out := .next (s.slotDo c b 2 0x00 fun _ s => s)
/-- R207. -/
def execVarith (c : CoreId) (b : Bundle) (s : State) : Out := .next (s.slotDo c b 2 0x01 fun w s => s.v3Sel c 0x01 4 0 varithVal w)
/-- R209. -/
def execVfma (c : CoreId) (b : Bundle) (s : State) : Out := .next (s.slotDo c b 2 0x02 fun w s => s.v4Eff c 4 0 (vfmaVal 0) w)
def execVfms (c : CoreId) (b : Bundle) (s : State) : Out := .next (s.slotDo c b 2 0x03 fun w s => s.v4Eff c 4 0 (vfmaVal 1) w)
def execVfnma (c : CoreId) (b : Bundle) (s : State) : Out := .next (s.slotDo c b 2 0x04 fun w s => s.v4Eff c 4 0 (vfmaVal 2) w)
/-- R211. -/
def execVcmp (c : CoreId) (b : Bundle) (s : State) : Out := .next (s.slotDo c b 2 0x05 fun w s => s.v3Sel c 0x05 2 0 vcmpVal w)
/-- R212. -/
def execVsel (c : CoreId) (b : Bundle) (s : State) : Out := .next (s.slotDo c b 2 0x06 fun w s => s.v4Eff c 2 0 vselVal w)
def execVcvt (c : CoreId) (b : Bundle) (s : State) : Out := .next (s.slotDo c b 2 0x07 fun w s => s.vcvtEff c w)
/-- R213. -/
def execVbit (c : CoreId) (b : Bundle) (s : State) : Out := .next (s.slotDo c b 2 0x08 fun w s => s.v3Sel c 0x08 2 0 vbitVal w)
/-- R214. -/
def execVshuf (c : CoreId) (b : Bundle) (s : State) : Out := .next (s.slotDo c b 2 0x09 fun w s => s.v3Sel c 0x09 2 0 vshufVal w)
def execVred (c : CoreId) (b : Bundle) (s : State) : Out := .next (s.slotDo c b 2 0x0a fun w s => s.vredEff c w)
def execVscan (c : CoreId) (b : Bundle) (s : State) : Out := .next (s.slotDo c b 2 0x0b fun w s => s.vscanEff c w)
def execVbfly (c : CoreId) (b : Bundle) (s : State) : Out := .next (s.slotDo c b 2 0x0c fun w s => s.vbflyEff c w)
/-- R233 to R235. -/
def execVgact (c : CoreId) (b : Bundle) (s : State) : Out :=
  .next (s.slotDo c b 2 0x0d fun w s => (s.v3Eff c 10 0 vgactVal w).countCore c 0x4e)
/-- R205. -/
def execVbcast (c : CoreId) (b : Bundle) (s : State) : Out :=
  .next (s.slotDo c b 2 0x0e fun w s => s.v3Eff c 4 0 (fun _ fn va vb => vbcastVal fn va vb) w)
def execVsfn (c : CoreId) (b : Bundle) (s : State) : Out := .next (s.slotDo c b 2 0x0f fun w s => s.vsfnEff c w)
/-- R166. -/
def execVmvdot (c : CoreId) (b : Bundle) (s : State) : Out :=
  .next (s.slotDo c b 2 0x10 fun w s => (s.v4Eff c 6 3 (fun _ va vb vc => vmvdotVal va vb vc) w).countCore c 0x2b)

end Sys2Proof.Machine
end

