-- ==== Sys2Proof/Machine/Dispatch.lean ====
section
/-!
DEFINITION. One arm per command: a direct call of its meaning.
-/
namespace Sys2Proof.Machine

def exec (i : Instr) (s : State) : Host.Outcome State Fault Refusal :=
  match i with
  | .csrWrite o addr v => Sys2Proof.Machine.execCsrWrite o addr v s
  | .chordWrite o addr v => Sys2Proof.Machine.execChordWrite o addr v s
  | .strumWrite o addr v => Sys2Proof.Machine.execStrumWrite o addr v s
  | .broadcastWriteComplete => Sys2Proof.Machine.execBroadcastWriteComplete s
  | .csrRead o addr => Sys2Proof.Machine.execCsrRead o addr s
  | .counterSnapshotRead rq die => Sys2Proof.Machine.execCounterSnapshotRead rq die s
  | .tabLoadRequest pos positions => Sys2Proof.Machine.execTabLoadRequest pos positions s
  | .tabSectionsReceived img => Sys2Proof.Machine.execTabSectionsReceived img s
  | .tabTransferAborted => Sys2Proof.Machine.execTabTransferAborted s
  | .tabReceiveTimeout => Sys2Proof.Machine.execTabReceiveTimeout s
  | .tabChecksComplete => Sys2Proof.Machine.execTabChecksComplete s
  | .tabDiscard => Sys2Proof.Machine.execTabDiscard s
  | .jobStart => Sys2Proof.Machine.execJobStart s
  | .jobStop byFault => Sys2Proof.Machine.execJobStop byFault s
  | .stoppingIdle => Sys2Proof.Machine.execStoppingIdle s
  | .stepDescriptorSend d => Sys2Proof.Machine.execStepDescriptorSend d s
  | .stepDescriptor d => Sys2Proof.Machine.execStepDescriptor d s
  | .descriptorDeadline => Sys2Proof.Machine.execDescriptorDeadline s
  | .segmentStart => Sys2Proof.Machine.execSegmentStart s
  | .deadlineFault u fault => Sys2Proof.Machine.execDeadlineFault u fault s
  | .tuningWindowOpen entry => Sys2Proof.Machine.execTuningWindowOpen entry s
  | .maintenanceAtom entry a => Sys2Proof.Machine.execMaintenanceAtom entry a s
  | .tuningWindowEnd entry => Sys2Proof.Machine.execTuningWindowEnd entry s
  | .selftestRequest rq units cls deadline => Sys2Proof.Machine.execSelftestRequest rq units cls deadline s
  | .snop c b => Sys2Proof.Machine.execSnop c b s
  | .salu c b => Sys2Proof.Machine.execSalu c b s
  | .addi c b => Sys2Proof.Machine.execAddi c b s
  | .andi c b => Sys2Proof.Machine.execAndi c b s
  | .ori c b => Sys2Proof.Machine.execOri c b s
  | .xori c b => Sys2Proof.Machine.execXori c b s
  | .shi c b => Sys2Proof.Machine.execShi c b s
  | .lim c b => Sys2Proof.Machine.execLim c b s
  | .br c b => Sys2Proof.Machine.execBr c b s
  | .loop c b => Sys2Proof.Machine.execLoop c b s
  | .rdsr c b => Sys2Proof.Machine.execRdsr c b s
  | .mnop c b => Sys2Proof.Machine.execMnop c b s
  | .mwld c b => Sys2Proof.Machine.execMwld c b s
  | .mscl c b => Sys2Proof.Machine.execMscl c b s
  | .mstep c b => Sys2Proof.Machine.execMstep c b s
  | .arrayResultWrite b => Sys2Proof.Machine.execArrayResultWrite b s
  | .mmask c b => Sys2Proof.Machine.execMmask c b s
  | .vnop c b => Sys2Proof.Machine.execVnop c b s
  | .varith c b => Sys2Proof.Machine.execVarith c b s
  | .vfma c b => Sys2Proof.Machine.execVfma c b s
  | .vfms c b => Sys2Proof.Machine.execVfms c b s
  | .vfnma c b => Sys2Proof.Machine.execVfnma c b s
  | .vcmp c b => Sys2Proof.Machine.execVcmp c b s
  | .vsel c b => Sys2Proof.Machine.execVsel c b s
  | .vcvt c b => Sys2Proof.Machine.execVcvt c b s
  | .vbit c b => Sys2Proof.Machine.execVbit c b s
  | .vshuf c b => Sys2Proof.Machine.execVshuf c b s
  | .vred c b => Sys2Proof.Machine.execVred c b s
  | .vscan c b => Sys2Proof.Machine.execVscan c b s
  | .vbfly c b => Sys2Proof.Machine.execVbfly c b s
  | .vgact c b => Sys2Proof.Machine.execVgact c b s
  | .vbcast c b => Sys2Proof.Machine.execVbcast c b s
  | .vsfn c b => Sys2Proof.Machine.execVsfn c b s
  | .vmvdot c b => Sys2Proof.Machine.execVmvdot c b s
  | .registerWriteback c => Sys2Proof.Machine.execRegisterWriteback c s
  | .msnop c b => Sys2Proof.Machine.execMsnop c b s
  | .ldv c b => Sys2Proof.Machine.execLdv c b s
  | .stv c b => Sys2Proof.Machine.execStv c b s
  | .lds c b => Sys2Proof.Machine.execLds c b s
  | .sts c b => Sys2Proof.Machine.execSts c b s
  | .diss c b => Sys2Proof.Machine.execDiss c b s
  | .ldc c b => Sys2Proof.Machine.execLdc c b s
  | .stc c b => Sys2Proof.Machine.execStc c b s
  | .gstr c b => Sys2Proof.Machine.execGstr c b s
  | .gwait c b => Sys2Proof.Machine.execGwait c b s
  | .tfill c b => Sys2Proof.Machine.execTfill c b s
  | .waitu c b => Sys2Proof.Machine.execWaitu c b s
  | .deadline c b => Sys2Proof.Machine.execDeadline c b s
  | .eclose c b => Sys2Proof.Machine.execEclose c b s
  | .segend c b => Sys2Proof.Machine.execSegend c b s
  | .pluck c b => Sys2Proof.Machine.execPluck c b s
  | .park c b => Sys2Proof.Machine.execPark c b s
  | .waituTargetReached c => Sys2Proof.Machine.execWaituTargetReached c s
  | .regionDeadline c => Sys2Proof.Machine.execRegionDeadline c s
  | .tfillComplete c half => Sys2Proof.Machine.execTfillComplete c half s
  | .cacheAccessComplete c => Sys2Proof.Machine.execCacheAccessComplete c s
  | .missSlotService c die => Sys2Proof.Machine.execMissSlotService c die s
  | .prefetchIssue b line up => Sys2Proof.Machine.execPrefetchIssue b line up s
  | .gatherLineIssue c => Sys2Proof.Machine.execGatherLineIssue c s
  | .gatherLineComplete c k => Sys2Proof.Machine.execGatherLineComplete c k s
  | .descriptorComplete u => Sys2Proof.Machine.execDescriptorComplete u s
  | .translationWalkComplete p addr => Sys2Proof.Machine.execTranslationWalkComplete p addr s
  | .landingWrite c arr => Sys2Proof.Machine.execLandingWrite c arr s
  | .landingDeadline c line => Sys2Proof.Machine.execLandingDeadline c line s
  | .copyStart h e entry d => Sys2Proof.Machine.execCopyStart h e entry d s
  | .channelStart c use => Sys2Proof.Machine.execChannelStart c use s
  | .channelRequestComplete h tag => Sys2Proof.Machine.execChannelRequestComplete h tag s
  | .refreshDebtTick c sub => Sys2Proof.Machine.execRefreshDebtTick c sub s
  | .xlatRootWrite o n v => Sys2Proof.Machine.execXlatRootWrite o n v s
  | .xlatSwapRequest o => Sys2Proof.Machine.execXlatSwapRequest o s
  | .xlatSwap => Sys2Proof.Machine.execXlatSwap s
  | .dresserNorm b => Sys2Proof.Machine.execDresserNorm b s
  | .dresserApply b => Sys2Proof.Machine.execDresserApply b s
  | .dresserSched b => Sys2Proof.Machine.execDresserSched b s
  | .dresserPassEnd b => Sys2Proof.Machine.execDresserPassEnd b s
  | .dresserPassDeadline b => Sys2Proof.Machine.execDresserPassDeadline b s
  | .drsStepWrite o b v => Sys2Proof.Machine.execDrsStepWrite o b v s
  | .drsStepReset n => Sys2Proof.Machine.execDrsStepReset n s
  | .schedBankLoad o b v => Sys2Proof.Machine.execSchedBankLoad o b v s
  | .schedBankLoadDone b => Sys2Proof.Machine.execSchedBankLoadDone b s
  | .reductionStart b bucket => Sys2Proof.Machine.execReductionStart b bucket s
  | .reductionMessage b bucket src msg => Sys2Proof.Machine.execReductionMessage b bucket src msg s
  | .normRecordMessage src down msg => Sys2Proof.Machine.execNormRecordMessage src down msg s
  | .paramDistribution bucket src msg => Sys2Proof.Machine.execParamDistribution bucket src msg s
  | .digestRecordsWrite h => Sys2Proof.Machine.execDigestRecordsWrite h s
  | .stepDigest => Sys2Proof.Machine.execStepDigest s
  | .digestCompare n pairs first replay => Sys2Proof.Machine.execDigestCompare n pairs first replay s
  | .flitSend p entry vc last body => Sys2Proof.Machine.execFlitSend p entry vc last body s
  | .controlFlitSend p => Sys2Proof.Machine.execControlFlitSend p s
  | .flitReceive p f rx => Sys2Proof.Machine.execFlitReceive p f rx s
  | .controlFlitReceive p f ok => Sys2Proof.Machine.execControlFlitReceive p f ok s
  | .portTrainingStart p request => Sys2Proof.Machine.execPortTrainingStart p request s
  | .portLanesLocked p => Sys2Proof.Machine.execPortLanesLocked p s
  | .portTrainingTimeout p => Sys2Proof.Machine.execPortTrainingTimeout p s
  | .portIdentityResult p mod hub port => Sys2Proof.Machine.execPortIdentityResult p mod hub port s
  | .laneLost p lane => Sys2Proof.Machine.execLaneLost p lane s
  | .spareLaneSwitch p => Sys2Proof.Machine.execSpareLaneSwitch p s
  | .portFenceFault u p carries neighbour => Sys2Proof.Machine.execPortFenceFault u p carries neighbour s
  | .portRetrainTimeout a b aLocked bLocked => Sys2Proof.Machine.execPortRetrainTimeout a b aLocked bLocked s
  | .ucieLinkFault die => Sys2Proof.Machine.execUcieLinkFault die s
  | .heartbeatSend => Sys2Proof.Machine.execHeartbeatSend s
  | .managerTakeover => Sys2Proof.Machine.execManagerTakeover s
  | .timebaseHoldTimeout => Sys2Proof.Machine.execTimebaseHoldTimeout s
  | .haulStart h d => Sys2Proof.Machine.execHaulStart h d s
  | .commitEpoch row => Sys2Proof.Machine.execCommitEpoch row s
  | .commitDeadline => Sys2Proof.Machine.execCommitDeadline s
  | .commitReport pos epoch => Sys2Proof.Machine.execCommitReport pos epoch s
  | .jobCommitNotice epoch => Sys2Proof.Machine.execJobCommitNotice epoch s
  | .vaultDrain => Sys2Proof.Machine.execVaultDrain s
  | .vaultDrainCommit exported => Sys2Proof.Machine.execVaultDrainCommit exported s
  | .restart variant cands => Sys2Proof.Machine.execRestart variant cands s
  | .statusPoll die bench answered => Sys2Proof.Machine.execStatusPoll die bench answered s
  | .stackAbsorption die order restore => Sys2Proof.Machine.execStackAbsorption die order restore s
  | .benchAbsorption b order restore => Sys2Proof.Machine.execBenchAbsorption b order restore s
  | .packageRetirement pkg root tables rebuilt => Sys2Proof.Machine.execPackageRetirement pkg root tables rebuilt s
  | .spareRecordCommit => Sys2Proof.Machine.execSpareRecordCommit s
  | .beyondModuleFault u => Sys2Proof.Machine.execBeyondModuleFault u s
  | .pluckTableFire entry => Sys2Proof.Machine.execPluckTableFire entry s
  | .pluckArrival b bridge => Sys2Proof.Machine.execPluckArrival b bridge s
  | .benchParkComplete b => Sys2Proof.Machine.execBenchParkComplete b s
  | .benchWakeComplete b => Sys2Proof.Machine.execBenchWakeComplete b s
  | .benchReentry b => Sys2Proof.Machine.execBenchReentry b s
  | .wakeTimeout b => Sys2Proof.Machine.execWakeTimeout b s
  | .domainResetRequest o die v => Sys2Proof.Machine.execDomainResetRequest o die v s
  | .domainResetComplete die => Sys2Proof.Machine.execDomainResetComplete die s
  | .pllLockLoss die pll => Sys2Proof.Machine.execPllLockLoss die pll s
  | .droopStretch die => Sys2Proof.Machine.execDroopStretch die s
  | .droopFault die => Sys2Proof.Machine.execDroopFault die s
  | .powerWindow draw perStack => Sys2Proof.Machine.execPowerWindow draw perStack s
  | .thermalFault u => Sys2Proof.Machine.execThermalFault u s
  | .thermalTrip => Sys2Proof.Machine.execThermalTrip s
  | .scrubAccess st addr strike claimed overwritten => Sys2Proof.Machine.execScrubAccess st addr strike claimed overwritten s
  | .scrubLapEnd st seconds => Sys2Proof.Machine.execScrubLapEnd st seconds s
  | .voteRepair addr c0 c1 c2 => Sys2Proof.Machine.execVoteRepair addr c0 c1 c2 s
  | .pageRetireCopy c k => Sys2Proof.Machine.execPageRetireCopy c k s
  | .flipArm o addr v => Sys2Proof.Machine.execFlipArm o addr v s
  | .flipCorruptWrite st addr => Sys2Proof.Machine.execFlipCorruptWrite st addr s
  | .coreSfsLoadWrite o c v => Sys2Proof.Machine.execCoreSfsLoadWrite o c v s
  | .benchChordWrite o b v => Sys2Proof.Machine.execBenchChordWrite o b v s
  | .hubCopyTagsClr o h v => Sys2Proof.Machine.execHubCopyTagsClr o h v s
  | .coreFaultClear o c v => Sys2Proof.Machine.execCoreFaultClear o c v s
  | .benchArrayFaultClear o b v => Sys2Proof.Machine.execBenchArrayFaultClear o b v s
  | .benchRingFaultClear o b v => Sys2Proof.Machine.execBenchRingFaultClear o b v s
  | .coreDescStatusClear o c v => Sys2Proof.Machine.execCoreDescStatusClear o c v s
  | .hubCopyStatusClear o h v => Sys2Proof.Machine.execHubCopyStatusClear o h v s
  | .hubDramFaultClear o h v => Sys2Proof.Machine.execHubDramFaultClear o h v s
  | .drsFaultClear o b v => Sys2Proof.Machine.execDrsFaultClear o b v s
  | .benchRedFaultClear o b v => Sys2Proof.Machine.execBenchRedFaultClear o b v s
  | .lnkFaultClear o p v => Sys2Proof.Machine.execLnkFaultClear o p v s
  | .haulFaultClear o h v => Sys2Proof.Machine.execHaulFaultClear o h v s
  | .pwrBenchFaultClear o b v => Sys2Proof.Machine.execPwrBenchFaultClear o b v s
  | .pwrThermClear o v => Sys2Proof.Machine.execPwrThermClear o v s
  | .mgtAccessErrClear o md v => Sys2Proof.Machine.execMgtAccessErrClear o md v s
  | .eccAddrClear o u v => Sys2Proof.Machine.execEccAddrClear o u v s
  | .evselWrite o addr v => Sys2Proof.Machine.execEvselWrite o addr v s
  | .evcntWrite o addr v => Sys2Proof.Machine.execEvcntWrite o addr v s
  | .counterWrap addr n => Sys2Proof.Machine.execCounterWrap addr n s
  | .wdogKick o md v => Sys2Proof.Machine.execWdogKick o md v s
  | .watchdogExpiry md => Sys2Proof.Machine.execWatchdogExpiry md s
  | .sensorSelect o md v => Sys2Proof.Machine.execSensorSelect o md v s
  | .i3cPoll dev answer => Sys2Proof.Machine.execI3cPoll dev answer s
  | .i3cInBandInterrupt dev data => Sys2Proof.Machine.execI3cInBandInterrupt dev data s
  | .logEntry md severity pinned code loc data => Sys2Proof.Machine.execLogEntry md severity pinned code loc data s
  | .hostRestart md => Sys2Proof.Machine.execHostRestart md s
  | .driveRemoval drive => Sys2Proof.Machine.execDriveRemoval drive s
  | .loaderPack step data => Sys2Proof.Machine.execLoaderPack step data s
  | .porstAssert => Sys2Proof.Machine.execPorstAssert s
  | .wrstAssert => Sys2Proof.Machine.execWrstAssert s
  | .pwrokFall => Sys2Proof.Machine.execPwrokFall s
  | .refClkLoss => Sys2Proof.Machine.execRefClkLoss s
  | .powerUp => Sys2Proof.Machine.execPowerUp s
  | .boot reached failed => Sys2Proof.Machine.execBoot reached failed s
  | .recordUpdate => Sys2Proof.Machine.execRecordUpdate s
  | .recoveryStatus md => Sys2Proof.Machine.execRecoveryStatus md s
  | .recoveryUpload slot img => Sys2Proof.Machine.execRecoveryUpload slot img s
  | .recoveryReset => Sys2Proof.Machine.execRecoveryReset s
  | .imageUpload rq slot img => Sys2Proof.Machine.execImageUpload rq slot img s
  | .imageVerifyComplete => Sys2Proof.Machine.execImageVerifyComplete s
  | .pendingCancel rq => Sys2Proof.Machine.execPendingCancel rq s
  | .attestation rq nonce => Sys2Proof.Machine.execAttestation rq nonce s
  | .sessionOpenRequest md session ek nonce => Sys2Proof.Machine.execSessionOpenRequest md session ek nonce s
  | .sessionOpenConfirm md session sig => Sys2Proof.Machine.execSessionOpenConfirm md session sig s
  | .sessionIdleTimeout md session => Sys2Proof.Machine.execSessionIdleTimeout md session s
  | .logRead rq ring first count => Sys2Proof.Machine.execLogRead rq ring first count s
  | .logErase rq => Sys2Proof.Machine.execLogErase rq s
  | .resetRequest rq => Sys2Proof.Machine.execResetRequest rq s
  | .vaonLoss => Sys2Proof.Machine.execVaonLoss s
  | .driveReplacement drive => Sys2Proof.Machine.execDriveReplacement drive s

end Sys2Proof.Machine
end

