-- ==== Sys2Proof/Safety.lean ====
section
/-!
DEFINITION. What counts as a safe state and a safe command, and the conditions and effects that several statements share.
-/
namespace Sys2Proof.Safety
open Sys2Proof.Machine

/-- Memory is in canonical form. -/
def MemInv (s : State) : Prop := Memory.wf s.mem = true

/-- A command answers a next state. -/
def Completes (i : Instr) (s : State) : Prop := ∃ t, exec i s = .next t

/-- A command answers the state `u`, but for the record of the fabric cycle, which begins anew with an access of software (log 56). -/
def Yields (i : Instr) (s u : State) : Prop := ∃ t, exec i s = .next t ∧ t = { u with cycle := t.cycle }

/-- Nothing but event counters differs (R586 to R589). -/
def SameButCounters (s t : State) : Prop := t = { s with ctr := t.ctr }

/-! The bundle that issues (R85 to R89). -/

/-- Bundle `b` issues in the present cycle at core `c`, and its slot `slot` has not been commanded. -/
def Issuing (c : CoreId) (b : Bundle) (slot : Nat) (s : State) : Prop :=
  (s.core c).cur = some b ∧ (s.core c).lastCycle = some s.now ∧ (s.core c).done.contains slot = false

/-- The slot is marked as commanded. -/
def took (s : State) (c : CoreId) (slot : Nat) : State := s.updCore c fun x => { x with done := slot :: x.done }

/-- The slot is marked, and one result of latency `lat` waits to be written (R87), poisoned when the core is halted (R117). -/
def posted (s : State) (c : CoreId) (slot lat : Nat) (dst : Dst) (val : Vec) (poison : Bool) : State :=
  s.updCore c fun x => { x with
    done := slot :: x.done
    results := insertResult x.results ⟨s.now + lat - 1, slot, dst, val, poison || x.hold == .halted, x.region.isSome⟩ }

/-- The core may issue its next bundle in the present cycle, outside a region: its bench owes nothing, no open window frees the bench, and no
stored error stands in its tab buffer or registers (R75, R86, R89, R111, R511). -/
structure Ready (c : CoreId) (s : State) : Prop where
  running : (s.core c).running = true
  there : s.dieFenced c.die = false ∧ s.benchFenced c.benchId = false
  inRun : (s.bench c.benchId).power = 0 ∧ (s.bench c.benchId).transit = .none
  free : (s.core c).hold = .none ∧ (s.core c).region = none
  later : ∀ l, (s.core c).lastCycle = some l → l < s.now
  unfreed : s.job.windows = [] ∨ s.freedNow (s.benchUnit c.benchId) = false
  intact : ∀ e ∈ s.errs, e.1 ≠ .tabBuffer c ∧ e.1 ≠ .registers c ∧ e.1 ≠ .accFile c
  settled : (s.core c).results = [] ∧ (s.bench c.benchId).mvotes = [] ∧ (s.bench c.benchId).rvotes = [] ∧ (s.bench c.benchId).steps = []
  filled : (s.core c).valid (s.core c).nextIdx = true

/-- No stored unit is poisoned or damaged, and no line of the core's local store is pending or marked (R313, R509, R610). -/
def Clean (c : CoreId) (s : State) : Prop :=
  s.poison = [] ∧ s.errs = [] ∧ (s.core c).marks = [] ∧ (s.core c).lineBad = []

/-- The `n` bytes at `a` of a core's local store as a little-endian number (R12). -/
def lsValue (s : State) (c : CoreId) (a n : Nat) : Nat := leNat ((List.range n).map fun i => memGet s.mem (lsKey c a + i))

/-- Lane `i` of a register at lane width `w` (R200). -/
abbrev laneAt (w : Nat) (v : Vec) (i : Nat) : BitVec w := v.extractLsb' (w * i) w

/-! Messages between modules (R399, R435). -/

/-- A message leaves: `t` is what `sendMsg` makes of `u`, but for counters and the values waiting at nodes. One that no link entry carries
leaves memory as it is. -/
def Sends (u t : State) (kind : MsgKind) (dest : Nat) (out : Option (BitVec 24)) (poison : Bool) (bytes : List Byte) : Prop :=
  (∃ w : State, t = w.sendMsg kind dest out poison bytes ∧
    w = { u with benches := w.benches, ctr := w.ctr, job := { u.job with normNodes := w.job.normNodes } } ∧
    ∀ b, { w.bench b with nodes := (u.bench b).nodes } = u.bench b) ∧
  (out = none → t.mem = u.mem ∧ t.out = u.out ++ [⟨kind, [dest, poison.toNat] ++ bytes.map BitVec.toNat⟩])

/-! Registers of the CSR window (R8, R586 to R590). -/

/-- The units of a bench, and of a compute die, are reached: not fenced (R21). -/
def BenchThere (s : State) (b : BenchId) : Prop := s.dieFenced b.die = false ∧ s.benchFenced b = false

/-- EVSEL and EVCNT of one counter of a unit that is reached. -/
def CounterAt (s : State) (sel cnt : Nat) : Prop :=
  (∃ b i, BenchThere s b ∧ i < 8 ∧ sel = benchKey b (0x400 + 8 * i) ∧ cnt = benchKey b (0x440 + 8 * i)) ∨
  (∃ d i, s.dieFenced d = false ∧ i < 16 ∧ sel = dieKey d (0x800 + 8 * i) ∧ cnt = dieKey d (0x880 + 8 * i)) ∨
  (∃ h i, i < 32 ∧ sel = hubKey h (0x2000 + 8 * i) ∧ cnt = hubKey h (0x2100 + 8 * i)) ∨
  (∃ m i, i < 16 ∧ sel = mdKey m (0x800 + 8 * i) ∧ cnt = mdKey m (0x880 + 8 * i))

/-- The single-mode CSR address of a register. -/
def csrAt (k : Nat) : Addr := BitVec.ofNat 48 (keyAddr k)

/-! Management requests (R575 to R577). -/

/-- A command that carries a session's request, with its type and the permission bit that it needs. -/
inductive Request (rq : Rq) : Instr → Nat → Nat → Prop where
  | read (o : Origin) (addr : Addr) (h : Origin.rq? o = some rq) : Request rq (.csrRead o addr) 0x10 0
  | write (o : Origin) (addr : Addr) (v : Word64) (h : Origin.rq? o = some rq) (m : addrMode addr.toNat ≠ 1 ∧ addrMode addr.toNat ≠ 2) :
      Request rq (.csrWrite o addr v) 0x11 1
  | snapshot (die : Fin 64) : Request rq (.counterSnapshotRead rq die) 0x12 0
  | upload (slot : Fin 2) (img : ImageSlot) : Request rq (.imageUpload rq slot img) 0x30 3
  | cancel : Request rq (.pendingCancel rq) 0x30 3
  | attest (nonce : List Byte) : Request rq (.attestation rq nonce) 0x31 0
  | log (ring : Bool) (first count : Nat) : Request rq (.logRead rq ring first count) 0x40 4
  | erase : Request rq (.logErase rq) 0x40 4
  | reset : Request rq (.resetRequest rq) 0x50 5
  | selfTest (units : List (BitVec 32)) (cls : Fin 6) (deadline : BitVec 64) : Request rq (.selftestRequest rq units cls deadline) 0x60 6

/-- The session is open with requests left, and the datagram is its own. -/
def Genuine (s : State) (rq : Rq) (ty : Nat) (x : Session) : Prop :=
  s.session? rq.md rq.session.toNat = some x ∧ x.opened = true ∧ x.requests < 2 ^ 32 ∧ tagHolds x rq ty = true

/-- Its SEQ is new. -/
def Fresh (rq : Rq) (x : Session) : Prop :=
  x.answered.find? (fun p => p.1 == rq.seq.toNat) = none ∧ ∀ h, x.highest = some h → h < rq.seq.toNat

/-- The request is acted on. -/
def Admitted (s : State) (rq : Rq) (ty bit : Nat) : Prop := ∃ x, Genuine s rq ty x ∧ Fresh rq x ∧ x.perms.getLsbD bit = true

end Sys2Proof.Safety
end

