-- ==== Sys2Proof/Certificates/Slice0/Obligations.lean ====
section
/-!
DEFINITION. The statements, by the sections of the spec. Each docstring names the rules that its statement formalises.
-/
open Sys2Proof Sys2Proof.Machine Sys2Proof.Safety

/-! The block: queue, clock, memory. -/

/-- The command at the front of the queue acts on the state with the queue's rest (the model's queue; log 7). -/
def Obligations.StepRunsFrontCommand : Prop :=
  ∀ (c : Instr) (rest : List Instr) (s : State),
    step { s with pending := c :: rest } = exec c { s with pending := rest }

/-- On an empty queue one core cycle passes (DESIGN CHOICE, log 7). Nothing else changes but the record of the fabric cycle, which begins anew
with the registers as they stand when a fabric cycle, two core cycles, ends (DESIGN CHOICE, log 56). -/
def Obligations.IdleStepPassesOneCycle : Prop :=
  ∀ s : State, s.pending = [] → ∃ t, step s = .next t ∧ t = { s with now := s.now + 1, cycle := t.cycle } ∧
    (s.now % 2 = 0 → t.cycle = s.cycle) ∧
    (s.now % 2 = 1 → (∀ k, t.regWas k = s.reg k) ∧ t.cycle.writes = [] ∧ t.cycle.soft = [] ∧ t.cycle.measWas = none)

/-- Every step keeps memory in canonical form: addresses rising, no entry at the default (log 1). -/
def Obligations.MemoryFormKept : Prop :=
  ∀ s t : State, MemInv s → step s = .next t → MemInv t

/-- No command of the table stops the block; none touches the queue, and none turns the clock back (R12; the clock is the model's, log 7). -/
def Obligations.CommandsCompleteInOrder : Prop :=
  ∀ (i : Instr) (s : State), ∃ t, exec i s = .next t ∧ t.pending = s.pending ∧ s.now ≤ t.now

/-- After reset: no command waits, memory lists nothing and is in form; identity, power, error and fault registers hold the reset values of
their tables, for every core, bench, die, hub and management die. -/
def Obligations.ResetState : Prop :=
  State.reset.pending = [] ∧ State.reset.mem = [] ∧ MemInv State.reset ∧
  (∀ (c : CoreId) (off : Nat), off ∈ [0x00, 0x08, 0x10, 0x18, 0x38, 0x40, 0x48, 0x50] → State.reset.reg (coreKey c off) = 0) ∧
  (∀ b : BenchId, State.reset.reg (benchKey b 0x200) = 2 ∧ State.reset.reg (benchKey b 0x228) = 0x10 ∧
    State.reset.reg (benchKey b 0x208) = 0 ∧ State.reset.reg (benchKey b 0x400) = 0x1fc00) ∧
  (∀ d : Die, State.reset.fld (dieKey d 0x100) 39 32 = 0xff ∧ State.reset.reg (dieKey d 0x190) = 0) ∧
  (∀ h : Hub, State.reset.reg (hubKey h 0x420) = 2 ∧ State.reset.reg (hubKey h 0x428) = 0xffffffffffffff) ∧
  (∀ m : Md, State.reset.reg (mdKey m 0x00) = 0x4011e064 ∧ State.reset.reg (mdKey m 0x230) = 0x18 ∧
    State.reset.reg (mdKey m 0x400) = 0x3e8)

/-! A core's bundle and its scalar slot. -/

/-- A no-operation takes its slot of the bundle that issues and does nothing else, in each of the four slots (R86). -/
def Obligations.NoOperations : Prop :=
  ∀ (c : CoreId) (b : Bundle) (s : State),
    (Issuing c b 0 s → slotOp (slotWord b 0) = 0 → exec (.snop c b) s = .next (took s c 0)) ∧
    (Issuing c b 1 s → slotOp (slotWord b 1) = 0 → exec (.mnop c b) s = .next (took s c 1)) ∧
    (Issuing c b 2 s → slotOp (slotWord b 2) = 0 → exec (.vnop c b) s = .next (took s c 2)) ∧
    (Issuing c b 3 s → slotOp (slotWord b 3) = 0 → exec (.msnop c b) s = .next (took s c 3))

/-- A legal bundle issues in the present cycle: its index is the last issued, the next index is the target of a branch whose delay slot this
is, else the first of a loop whose end this is while iterations are left, else the index after it, 511 going on at 0 (R85 to R89, R93, R94,
R110). Nothing but the core and event counters changes. -/
def Obligations.LegalBundleIssues : Prop :=
  ∀ (c : CoreId) (b : Bundle) (s : State), Ready c s →
    illegalSlot b = [] → s.dynamicIllegal c b (s.core c).nextIdx = [] → (s.core c).stalled b = false → slotOp (slotWord b 0) = 0 →
    ∃ t, exec (.snop c b) s = .next t ∧ SameButCounters (s.setCore c (t.core c)) t ∧
      (t.core c).lastIdx = (s.core c).nextIdx ∧ (t.core c).lastCycle = some s.now ∧ (t.core c).cur = some b ∧ (t.core c).done = [0] ∧
      (t.core c).branch = none ∧ (t.core c).sregs = (s.core c).sregs ∧ (t.core c).vregs = (s.core c).vregs ∧
      (t.core c).accs = (s.core c).accs ∧ (t.core c).results = [] ∧
      (∀ g, (s.core c).branch = some g → (t.core c).nextIdx = g) ∧
      ((s.core c).branch = none → (s.core c).loops = [] → (t.core c).nextIdx = (s.core c).nextIdx + 1 ∧ (t.core c).loops = []) ∧
      (∀ l ls, (s.core c).branch = none → (s.core c).loops = l :: ls → l.last = (s.core c).nextIdx → l.left ≠ 0 →
        (t.core c).nextIdx = l.first ∧ (t.core c).loops = { l with left := l.left - 1 } :: ls) ∧
      (∀ l ls, (s.core c).branch = none → (s.core c).loops = l :: ls → l.last ≠ (s.core c).nextIdx →
        (t.core c).nextIdx = (s.core c).nextIdx + 1 ∧ (t.core c).loops = l :: ls)

/-- An illegal bundle executes no slot: the core halts for the segment, CORE_FAULT records class 1, the index, and the lowest slot with a
cause when it is the first fault of the segment, and memory keeps its bytes (R86, R117, R118). -/
def Obligations.IllegalBundleHalts : Prop :=
  ∀ (c : CoreId) (b : Bundle) (s : State) (k : Nat), Ready c s → (s.core c).faulted = false →
    illegalSlot b ++ s.dynamicIllegal c b (s.core c).nextIdx ≠ [] →
    (∀ j ∈ illegalSlot b ++ s.dynamicIllegal c b (s.core c).nextIdx, k ≤ j) →
    k ∈ illegalSlot b ++ s.dynamicIllegal c b (s.core c).nextIdx →
    ∃ t, exec (.snop c b) s = .next t ∧ (t.core c).hold = .halted ∧ (t.core c).faulted = true ∧ t.mem = s.mem ∧
      (t.core c).nextIdx = (s.core c).nextIdx ∧
      t.reg (coreKey c 0x8) = BitVec.ofNat 64 ((1 + 8 + 16 * (s.core c).nextIdx.toNat + 2 ^ 13 * k) % 2 ^ 16 + 2 ^ 16 * (s.stepNo % 2 ^ 40)) ∧
      (∀ d, d ≠ c → t.core d = s.core d) ∧
      ∃ data, t.out = s.out ++ [⟨.deadlineFault, data⟩]

/-- The scalar results: each is queued for its destination at the latency of R91, from operands read in the issue cycle, poisoned by a
poisoned source; the rest of the machine stands (R87, R90, R91, R96). -/
def Obligations.ScalarSlotResults : Prop :=
  ∀ (c : CoreId) (b : Bundle) (s : State), Issuing c b 0 s →
    let w := slotWord b 0
    let x := s.core c
    let put := fun (lat : Nat) (v : Word64) (p : Bool) =>
      (Host.Outcome.next (posted s c 0 lat (.s (fSd w)) (v.setWidth 512) p) : Out)
    (slotOp w = 0x01 → exec (.salu c b) s =
      put (if fFunc11 w < 0x10 then 1 else 3) (saluVal (fFunc11 w) (x.s (fSa w)) (x.s (fSb w))) (x.pz (fSa w) || x.pz (fSb w))) ∧
    (slotOp w = 0x02 → exec (.addi c b) s = put 1 (x.s (fSa w) + (BitVec.ofNat 16 (fImm16 w)).signExtend 64) (x.pz (fSa w))) ∧
    (slotOp w = 0x03 → exec (.andi c b) s = put 1 (x.s (fSa w) &&& BitVec.ofNat 64 (fImm16 w)) (x.pz (fSa w))) ∧
    (slotOp w = 0x04 → exec (.ori c b) s = put 1 (x.s (fSa w) ||| BitVec.ofNat 64 (fImm16 w)) (x.pz (fSa w))) ∧
    (slotOp w = 0x05 → exec (.xori c b) s = put 1 (x.s (fSa w) ^^^ BitVec.ofNat 64 (fImm16 w)) (x.pz (fSa w))) ∧
    (slotOp w = 0x06 → exec (.shi c b) s = put 1
      (if bitsOf w 7 6 = 0 then x.s (fSa w) <<< bitsOf w 5 0 else if bitsOf w 7 6 = 1 then x.s (fSa w) >>> bitsOf w 5 0
        else (x.s (fSa w)).sshiftRight (bitsOf w 5 0)) (x.pz (fSa w))) ∧
    (slotOp w = 0x07 → exec (.lim c b) s = put 1
      (putBits (x.s (fSd w)) (16 * bitsOf w 17 16 + 15) (16 * bitsOf w 17 16) (fImm16 w)) (x.pz (fSd w))) ∧
    (slotOp w = 0x0a → exec (.rdsr c b) s = put 1 (BitVec.ofNat 64 (s.special c (fImm16 w))) false)

/-- The SALU functions of R92, by the numbers they compute on; the operation raises no fault, and every other function value is reserved. -/
def Obligations.SaluFunctions : Prop :=
  (∀ a b : Word64,
    (saluVal 0x000 a b).toNat = (a.toNat + b.toNat) % 2 ^ 64 ∧
    (saluVal 0x001 a b).toInt = ((a.toInt - b.toInt).bmod (2 ^ 64)) ∧
    (∀ i, i < 64 → (saluVal 0x002 a b).getLsbD i = (a.getLsbD i && b.getLsbD i) ∧ (saluVal 0x003 a b).getLsbD i = (a.getLsbD i || b.getLsbD i) ∧
      (saluVal 0x004 a b).getLsbD i = (a.getLsbD i ^^ b.getLsbD i)) ∧
    (saluVal 0x005 a b).toNat = a.toNat * 2 ^ (b.toNat % 64) % 2 ^ 64 ∧
    (saluVal 0x006 a b).toNat = a.toNat / 2 ^ (b.toNat % 64) ∧
    (saluVal 0x007 a b).toInt = a.toInt / 2 ^ (b.toNat % 64) ∧
    (saluVal 0x008 a b).toNat = (if a.toInt < b.toInt then 1 else 0) ∧
    (saluVal 0x009 a b).toNat = (if a.toNat < b.toNat then 1 else 0) ∧
    (saluVal 0x00a a b).toInt = min a.toInt b.toInt ∧ (saluVal 0x00b a b).toInt = max a.toInt b.toInt ∧
    (saluVal 0x00c a b).toNat = min a.toNat b.toNat ∧ (saluVal 0x00d a b).toNat = max a.toNat b.toNat ∧
    (saluVal 0x010 a b).toNat = a.toNat * b.toNat % 2 ^ 64 ∧
    (saluVal 0x011 a b).toNat = a.toNat * b.toNat / 2 ^ 64 ∧
    (saluVal 0x012 a b).toInt = a.toInt * b.toInt / 2 ^ 64) ∧
  (∀ b : Bundle, slotOp (slotWord b 0) = 0x01 → (0 ∈ illegalSlot b ↔ ¬ (fFunc11 (slotWord b 0) ≤ 0x00d ∨
    (0x010 ≤ fFunc11 (slotWord b 0) ∧ fFunc11 (slotWord b 0) ≤ 0x012)))) ∧
  (∀ (c : CoreId) (b : Bundle) (s : State), Issuing c b 0 s → slotOp (slotWord b 0) = 0x01 → ∃ t, exec (.salu c b) s = .next t ∧
    t.csr = s.csr ∧ t.out = s.out ∧ (t.core c).hold = (s.core c).hold)

/-- A branch whose condition holds takes effect after its delay slot; one whose condition does not holds changes nothing (R93). A loop of
count 0 goes on after its end index; one of count n opens with n - 1 iterations left after the first (R94). -/
def Obligations.BranchAndLoop : Prop :=
  ∀ (c : CoreId) (b : Bundle) (s : State), Issuing c b 0 s →
    let w := slotWord b 0
    let x := s.core c
    let p := x.s (fBsa w)
    let q := x.s (fBsb w)
    (slotOp w = 0x08 → fCond w ≤ 6 →
      exec (.br c b) s = .next (if (fCond w = 0 ∧ p = q) ∨ (fCond w = 1 ∧ p ≠ q) ∨ (fCond w = 2 ∧ p.toInt < q.toInt) ∨
          (fCond w = 3 ∧ q.toInt ≤ p.toInt) ∨ (fCond w = 4 ∧ p.toNat < q.toNat) ∨ (fCond w = 5 ∧ q.toNat ≤ p.toNat) ∨ fCond w = 6
        then (took s c 0).updCore c fun x => { x with branch := some (BitVec.ofNat 9 (fTarget w)) } else took s c 0)) ∧
    (slotOp w = 0x09 → p.toNat = 0 →
      exec (.loop c b) s = .next ((took s c 0).updCore c fun x => { x with nextIdx := BitVec.ofNat 9 (fTarget w) + 1 })) ∧
    (slotOp w = 0x09 → p.toNat ≠ 0 →
      exec (.loop c b) s = .next ((took s c 0).updCore c fun x =>
        { x with loops := ⟨x.lastIdx + 1, BitVec.ofNat 9 (fTarget w), p.toNat - 1⟩ :: x.loops }))

/-- The due result of a core is written at the end of its cycle: the register holds the value, its poison mark follows the result's, the
clock stands after the cycle, and every other register keeps its value; a write to s0 is discarded (R84, R87). -/
def Obligations.ResultsAreWritten : Prop :=
  ∀ (c : CoreId) (s : State) (r : Result), (s.core c).results = [r] → s.now ≤ r.due →
    (∀ n, r.dst = .s n → ∃ t, exec (.registerWriteback c) s = .next t ∧ t.now = r.due + 1 ∧ (t.core c).results = [] ∧
      (t.core c).s 0 = 0 ∧ (n % 32 ≠ 0 → (t.core c).s n = r.val.setWidth 64 ∧ (t.core c).pz (n % 32) = r.poison) ∧
      (∀ m, m % 32 ≠ n % 32 ∨ n % 32 = 0 → (t.core c).s m = (s.core c).s m) ∧
      (t.core c).vregs = (s.core c).vregs ∧ (t.core c).accs = (s.core c).accs ∧ t.mem = s.mem ∧ (∀ d, d ≠ c → t.core d = s.core d)) ∧
    (∀ n, r.dst = .v n → ∃ t, exec (.registerWriteback c) s = .next t ∧ t.now = r.due + 1 ∧ (t.core c).results = [] ∧
      (t.core c).v n = r.val ∧ (t.core c).pz (vReg n) = r.poison ∧ (∀ m, m % 64 ≠ n % 64 → (t.core c).v m = (s.core c).v m) ∧
      (t.core c).sregs = (s.core c).sregs ∧ (t.core c).accs = (s.core c).accs ∧ t.mem = s.mem ∧ (∀ d, d ≠ c → t.core d = s.core d))

/-! The matrix slot and the array. -/

/-- MWLD, MSCL and MMASK read local store at sa + imm8 × 64 (MMASK at sa) and stage the tile, the scales or the mask word with the cycle of
issue; a two-unit MWLD reads its second unit in the next cycle; the tile is used from four cycles later. A misaligned or too high address is a class-2 fault (R97, R99, R107, R151,
R152, R169). -/
def Obligations.MatrixLoads : Prop :=
  (∀ (c : CoreId) (b : Bundle) (s : State), Issuing c b 1 s → Clean c s →
    let w := slotWord b 1
    let x := s.core c
    let a := ((x.s (fMsa w)).toNat + 64 * fImm8 w) % 2 ^ 64
    let m := (x.s (fMsa w)).toNat
    (slotOp w = 0x01 → ¬ (s.arrayMode c.benchId = 1 ∧ fMfmt w ≤ 1) → a < 0x10000 → a % 64 = 0 →
      ∃ t, exec (.mwld c b) s = .next t ∧ SameButCounters ((took s c 1).updCore c fun y => { y.latch s.now with
        staged := some (s.now, ⟨fMfmt w, s.arrayMode c.benchId == 1, BitVec.ofNat 1024 (lsValue s c a 64), x.pz (fMsa w)⟩)
        lastLoad := some s.now }) t) ∧
    (slotOp w = 0x01 → s.arrayMode c.benchId = 1 → fMfmt w ≤ 1 → a + 128 ≤ 0x10000 → a % 64 = 0 →
      ∃ t, exec (.mwld c b) s = .next t ∧ SameButCounters ((took s c 1).updCore c fun y => { y.latch s.now with
        staged := some (s.now, ⟨fMfmt w, true, BitVec.ofNat 1024 (lsValue s c a 64), x.pz (fMsa w)⟩)
        lastLoad := some s.now, lastWide := some s.now
        results := insertResult y.results ⟨s.now, 9, .wide (a + 64), 0, false, y.region.isSome⟩ }) t) ∧
    (slotOp w = 0x04 → ¬ (m < 0x10000 ∧ m % 8 = 0) → ∃ t, exec (.mmask c b) s = .next t ∧ (t.core c).hold = .halted ∧ t.mem = s.mem) ∧
    (slotOp w = 0x02 → a < 0x10000 → a % 64 = 0 →
      exec (.mscl c b) s = .next ((took s c 1).updCore c fun y => { y.latch s.now with
        stagedScales := some (s.now, BitVec.ofNat 32 (lsValue s c a 64), x.pz (fMsa w)), lastLoad := some s.now })) ∧
    (slotOp w = 0x04 → m < 0x10000 → m % 8 = 0 →
      ∃ t, exec (.mmask c b) s = .next t ∧ t.reg (coreKey c 0x10) = BitVec.ofNat 64 (lsValue s c m 8 % 2 ^ 17) ∧
        (t.core c).masks = (s.now, BitVec.ofNat 17 (lsValue s c m 8), x.pz (fMsa w)) :: x.masks.take 2 ∧
        t.mem = s.mem ∧ (t.core c).accs = x.accs ∧ ∀ d, d ≠ c → t.core d = s.core d) ∧
    (slotOp w = 0x01 ∨ slotOp w = 0x02 → ¬ (a < 0x10000 ∧ a % 64 = 0) →
      ∀ i, (i = .mwld c b ∧ slotOp w = 0x01) ∨ (i = .mscl c b ∧ slotOp w = 0x02) →
        ∃ t, exec i s = .next t ∧ (t.core c).hold = .halted ∧ t.mem = s.mem ∧
          ((s.core c).faulted = false → bitsOf (t.reg (coreKey c 0x8)).toNat 2 0 = 2))) ∧
  (∀ (x : CoreState) (t t0 : Nat) (tile : Tile), x.staged = some (t0, tile) →
    (t0 + 4 ≤ t → (x.latch t).active = some tile ∧ (x.latch t).staged = none) ∧
    (t < t0 + 4 → (x.latch t).active = x.active ∧ (x.latch t).staged = some (t0, tile))) ∧
  (∀ (c : CoreId) (s : State) (r : Result) (a t0 : Nat) (tile : Tile), Clean c s → (s.core c).results = [r] → r.dst = .wide a →
    (s.core c).staged = some (t0, tile) → s.now ≤ r.due → ∃ t, exec (.registerWriteback c) s = .next t ∧ t.now = r.due + 1 ∧
      (t.core c).staged = some (t0, { tile with
        bits := tile.bits ||| (BitVec.ofNat 1024 (lsValue s c a 64) <<< 512), bad := tile.bad || r.poison }) ∧
      t.mem = s.mem ∧ (t.core c).sregs = (s.core c).sregs ∧ (t.core c).vregs = (s.core c).vregs)

/-- An MSTEP latches the core's tile, scales, mask and, at a feeder, its activation unit; the step waits for the other cores (R146 to R149,
R167). The oldest step's results are written at the end of cycle c + 7: only accumulators of the receiving cores change (R154, R167), and
a faulted step poisons the accumulator that each receiving core named (R173). The 64th core closes the step; a feeder's address out of R148 is
a class-2 fault. -/
def Obligations.ArrayStep : Prop :=
  (∀ (c : CoreId) (b : Bundle) (s : State), Issuing c b 1 s → Clean c s → slotOp (slotWord b 1) = 0x03 →
    let w := slotWord b 1
    let x := (s.core c).latch s.now
    let a := (((s.core c).s (fMsa w)).toNat + 64 * fImm8 w) % 2 ^ 64
    let feeds := isFeeder (stepKind (s.arrayMode c.benchId) (fT w)) (s.feed c.benchId) c.core
    let v : MVote := ⟨c.core, fTile w, fMfmt w, fT w, fZ w, fM w, BitVec.ofNat 512 (if feeds then lsValue s c a 64 else 0),
      feeds && x.pz (fMsa w), x.active, x.scales, x.scalesBad, (x.maskAt s.now).1, (x.maskAt s.now).2⟩
    ((feeds → a < 0x10000 ∧ a % 64 = 0) → (insertMVote (s.bench c.benchId).mvotes v).length ≠ 64 →
      exec (.mstep c b) s = .next (((took s c 1).updCore c fun y => y.latch s.now).updBench c.benchId fun y =>
        { y with mvotes := insertMVote y.mvotes v, mcycle := s.now })) ∧
    ((feeds → a < 0x10000 ∧ a % 64 = 0) → (insertMVote (s.bench c.benchId).mvotes v).length = 64 → ∃ t r, exec (.mstep c b) s = .next t ∧
      (t.bench c.benchId).mvotes = [] ∧ (t.bench c.benchId).steps = (s.bench c.benchId).steps ++ [r] ∧ r.issue = s.now ∧
      r.votes = insertMVote (s.bench c.benchId).mvotes v ∧ r.partials = none ∧ t.mem = s.mem ∧ ∀ d, d ≠ c → t.core d = s.core d) ∧
    (feeds = true → ¬ (a < 0x10000 ∧ a % 64 = 0) → ∃ t, exec (.mstep c b) s = .next t ∧ (t.core c).hold = .halted ∧ t.mem = s.mem ∧
      ((s.core c).faulted = false → bitsOf (t.reg (coreKey c 0x8)).toNat 2 0 = 2))) ∧
  (∀ (b : BenchId) (s : State) (r : StepRec), (s.bench b).mvotes = [] → (s.bench b).rvotes = [] → (s.bench b).steps = [r] →
    s.now ≤ r.issue + 7 → ∃ t, exec (.arrayResultWrite b) s = .next t ∧ t.now = r.issue + 8 ∧ (t.bench b).steps = [] ∧ t.mem = s.mem ∧
      (∀ i : CoreId, (t.core i).sregs = (s.core i).sregs ∧ (t.core i).vregs = (s.core i).vregs ∧
        ((∀ n ∈ r.receivers, coreOf b n ≠ i) → t.core i = s.core i)) ∧
      (r.fault = true → ∀ n ∈ r.receivers, ∀ v, voteAt r.votes n = some v → ((t.core (coreOf b n)).pz (aReg v.tile)) = true))

/-! The vector slot. -/

/-- The operations of three sources: each lane is computed by the function of its rule and the result is queued for vd at the opcode's
latency, 8 for FP64, poisoned by any source (R102, R103, R166, R209, R212, R232, R610). Nothing else but event counters changes. -/
def Obligations.ThreeSourceVectorResults : Prop :=
  ∀ (c : CoreId) (b : Bundle) (s : State), Issuing c b 2 s →
    let w := slotWord b 2
    let x := s.core c
    let p := x.v (fVa w)
    let q := x.v (fVb w)
    let r := x.v (fVc w)
    let bad := x.pz (vReg (fVa w)) || (x.pz (vReg (fVb w)) || x.pz (vReg (fVc w)))
    let gives := fun (i : Instr) (lat : Nat) (v : Vec) (z : Bool) =>
      ∃ t, exec i s = .next t ∧ SameButCounters (posted s c 2 (if fTy4 w = tyFp64 then 8 else lat) (.v (fVd w)) v z) t
    (slotOp w = 0x02 → gives (.vfma c b) 4 (vfmaVal 0 (fTy4 w) p q r).vec bad) ∧
    (slotOp w = 0x03 → gives (.vfms c b) 4 (vfmaVal 1 (fTy4 w) p q r).vec bad) ∧
    (slotOp w = 0x04 → gives (.vfnma c b) 4 (vfmaVal 2 (fTy4 w) p q r).vec bad) ∧
    (slotOp w = 0x06 → gives (.vsel c b) 2 (vselVal (fTy4 w) p q r).vec bad) ∧
    (slotOp w = 0x10 → gives (.vmvdot c b) 6 (vmvdotVal p q r).vec bad) ∧
    (slotOp w = 0x0c → gives (.vbfly c b) 6 (vbflyVal (fTy4 w) (w.testBit 8) p r).vec (x.pz (vReg (fVa w)) || x.pz (vReg (fVc w))))

/-- The operations of two sources, va a vector register or an accumulator tile for one cycle more: the result is queued for vd at the
opcode's latency, 8 for FP64, poisoned by the sources it reads (R101 to R103, R205, R207, R211, R213, R214, R233, R610). -/
def Obligations.TwoSourceVectorResults : Prop :=
  ∀ (c : CoreId) (b : Bundle) (s : State), Issuing c b 2 s →
    let w := slotWord b 2
    let x := s.core c
    let p := if fA w then x.a (fVa w) else x.v (fVa w)
    let q := x.v (fVb w)
    let pBad := x.pz (if fA w then aReg (fVa w) else vReg (fVa w))
    let bad := pBad || x.pz (vReg (fVb w))
    let gives := fun (i : Instr) (lat : Nat) (v : Vec) (z : Bool) => ∃ t, exec i s = .next t ∧
      SameButCounters (posted s c 2 ((if fTy3 w = tyFp64 then 8 else lat) + (if fA w then 1 else 0)) (.v (fVd w)) v z) t
    (slotOp w = 0x01 → fFn w ≠ 7 ∧ fFn w ≠ 8 → gives (.varith c b) 4 (varithVal (fTy3 w) (fFn w) p q).vec bad) ∧
    (slotOp w = 0x01 → fFn w = 7 ∨ fFn w = 8 → gives (.varith c b) 4 (varithVal (fTy3 w) (fFn w) p 0).vec pBad) ∧
    (slotOp w = 0x05 → fFn w ≠ 10 → gives (.vcmp c b) 2 (vcmpVal (fTy3 w) (fFn w) p q).vec bad) ∧
    (slotOp w = 0x05 → fFn w = 10 → gives (.vcmp c b) 2 (vcmpVal (fTy3 w) 10 p 0).vec pBad) ∧
    (slotOp w = 0x08 → fFn w ≠ 4 → gives (.vbit c b) 2 (vbitVal (fTy3 w) (fFn w) p q).vec bad) ∧
    (slotOp w = 0x08 → fFn w = 4 → gives (.vbit c b) 2 (~~~p) pBad) ∧
    (slotOp w = 0x09 → fFn w ≠ 7 → gives (.vshuf c b) 2 (vshufVal (fTy3 w) (fFn w) p q).vec bad) ∧
    (slotOp w = 0x09 → fFn w = 7 → gives (.vshuf c b) 2 (vshufVal (fTy3 w) 7 p 0).vec pBad) ∧
    (slotOp w = 0x0d → gives (.vgact c b) 10 (vgactVal (fTy3 w) (fFn w) p q).vec bad) ∧
    (slotOp w = 0x0e → gives (.vbcast c b) 4 (vbcastVal (fFn w) p q).vec bad)

/-- Conversions, reductions within a core and on the ring, scans and special-function programs: an element conversion and a lane reduction
queue one result; a block conversion two; a scan within a core its lanes and the carry; a ring form joins the bench's operation of the
cycle; a program runs on the sequencer to the end of cycle c + L - 1 and queues what it puts out, with its class-1 fault when a step of it is reserved (R86, R102, R215 to R222, R225, R228, R245, R246). -/
def Obligations.ConversionsReductionsPrograms : Prop :=
  ∀ (c : CoreId) (b : Bundle) (s : State), Issuing c b 2 s →
    let w := slotWord b 2
    let x := s.core c
    let p := if fA w then x.a (fVa w) else x.v (fVa w)
    let pBad := x.pz (if fA w then aReg (fVa w) else vReg (fVa w))
    let acc := if fA w then 1 else 0
    let cfg := (s.reg (benchKey c.benchId 0x220)).toNat
    (slotOp w = 0x07 → isBlockTarget (fTgt w) = false → fRnd w ≠ 2 → ∃ t, exec (.vcvt c b) s = .next t ∧
      SameButCounters (posted s c 2 ((if fTy3 w = tyFp64 then 8 else 3) + acc) (.v (fVd w))
        (vcvtElems (fTy3 w) (fTgt w) (fRnd w) (fFn w) p fun _ => 0).vec pBad) t) ∧
    (slotOp w = 0x07 → isBlockTarget (fTgt w) = true → ∃ t, exec (.vcvt c b) s = .next t ∧ t.mem = s.mem ∧
      ∃ e sc : Vec, ∃ bad : Bool, (t.core c).results = insertResult (insertResult x.results
        ⟨s.now + 4 + acc, 2, .v (fVd w), e, bad || x.hold == .halted, x.region.isSome⟩)
        ⟨s.now + 4 + acc, 2, .v (fVd w + 1), sc, bad || x.hold == .halted, x.region.isSome⟩) ∧
    (slotOp w = 0x0a → fFn w / 8 = 0 → ∃ t, exec (.vred c b) s = .next t ∧
      SameButCounters (posted s c 2 ((if fTy3 w = tyFp64 then 8 else 6) + acc) (.v (fVd w))
        (redSpread (fTy3 w) (laneRed (fTy3 w) (fFn w % 4) ((fFn w).testBit 2) p (x.v (fVb w))).1)
        (pBad || ((fFn w).testBit 2 && x.pz (vReg (fVb w))))) t) ∧
    (slotOp w = 0x0a → fFn w / 8 ≠ 0 → (s.bench c.benchId).rvotes = [] → ∃ t, exec (.vred c b) s = .next t ∧
      (t.bench c.benchId).rcycle = s.now ∧ ∃ v, (t.bench c.benchId).rvotes = [v] ∧ v.core = c.core ∧ v.va = p ∧ v.vd = fVd w ∧
        v.late = (if fFn w / 8 = 1 then 30 else 36) + acc) ∧
    (slotOp w = 0x0b → (fFn w).testBit 3 = false → ∃ t, exec (.vscan c b) s = .next t ∧ t.mem = s.mem ∧ ∃ y : List Nat, ∃ bad : Bool,
      y = scanVal (fTy3 w) (fFn w % 4) p (x.v (fVb w)) (if (fFn w).testBit 2 then some ((s.reg (coreKey c 0x18)).setWidth 32).toNat else none) ∧
      (t.core c).results = insertResult (insertResult x.results
        ⟨s.now + 5 + acc, 2, .v (fVd w), vecOf 32 y, bad || x.hold == .halted, x.region.isSome⟩)
        ⟨s.now + 5 + acc, 2, .carry s.job.segStart, BitVec.ofNat 512 (y.getD 15 0), bad || x.hold == .halted, x.region.isSome⟩) ∧
    (slotOp w = 0x0f →
      let r := sfsRun x s.sfsImage (cfg % 2) (cfg / 2 % 2) (cfg.testBit 2) (fProg w) (fVa w) (fVd w)
      ∃ t, exec (.vsfn c b) s = .next t ∧ (t.core c).sfs = some (cfg % 2, cfg / 2 % 2, s.now + max r.latency 1 - 1) ∧ t.mem = s.mem ∧
        t.out = s.out ∧ (t.core c).hold = x.hold ∧
        ∃ bad : Bool,
          let outs := r.outs.foldl (fun rs o => insertResult rs ⟨s.now + max r.latency 1 - 1, 2, .v (fVd w + o.1), o.2,
            bad || x.hold == .halted, x.region.isSome⟩) x.results
          (t.core c).results = if r.fault then
            insertResult outs ⟨s.now + r.latency, 2, .fault x.lastIdx.toNat, 0, x.hold == .halted, x.region.isSome⟩ else outs)

/-- INT32 arithmetic wraps modulo 2^32 lane by lane; compares give all ones or zero; VSEL takes a lane of va where the mask lane's top bit
is set; shifts by the lane width or more empty the lane or fill it with its sign (R207, R211, R212, R213). -/
def Obligations.IntegerLanes : Prop :=
  ∀ (p q r : Vec) (i : Nat), i < 16 →
    let a := laneAt 32 p i
    let b := laneAt 32 q i
    laneAt 32 (varithVal tyInt32 0 p q).vec i = a + b ∧ laneAt 32 (varithVal tyInt32 1 p q).vec i = a - b ∧
    laneAt 32 (varithVal tyInt32 2 p q).vec i = a * b ∧
    laneAt 32 (varithVal tyInt32 3 p q).vec i = (if a.toInt ≤ b.toInt then a else b) ∧
    laneAt 32 (varithVal tyInt32 4 p q).vec i = (if a.toInt ≤ b.toInt then b else a) ∧
    laneAt 32 (varithVal tyInt32 7 p q).vec i = (if a.toInt < 0 then -a else a) ∧ laneAt 32 (varithVal tyInt32 8 p q).vec i = -a ∧
    laneAt 32 (vcmpVal tyInt32 0 p q).vec i = (if a = b then BitVec.allOnes 32 else 0) ∧
    laneAt 32 (vcmpVal tyInt32 2 p q).vec i = (if a.toInt < b.toInt then BitVec.allOnes 32 else 0) ∧
    laneAt 32 (vcmpVal tyInt32 8 p q).vec i = (if a.toNat < b.toNat then BitVec.allOnes 32 else 0) ∧
    laneAt 32 (vselVal tyInt32 p q r).vec i = (if (laneAt 32 r i).msb then a else b) ∧
    laneAt 32 (vbitVal tyInt32 5 p q).vec i = a <<< (b.toNat % 256) ∧ laneAt 32 (vbitVal tyInt32 6 p q).vec i = a >>> (b.toNat % 256) ∧
    laneAt 32 (vbitVal tyInt32 7 p q).vec i = a.sshiftRight (b.toNat % 256)

/-! The memory and sync slot. -/

/-- LDV and LDS read 64 or 8 bytes of local store at sa + imm15 × width in the issue cycle and queue them for the register with latency 3,
poisoned by a poisoned address; a misaligned or too high address is a class-2 fault that halts the core (R106, R107, R611). -/
def Obligations.LocalStoreLoads : Prop :=
  ∀ (c : CoreId) (b : Bundle) (s : State), Issuing c b 3 s → Clean c s →
    let w := slotWord b 3
    let x := s.core c
    let a := fun n : Nat => ((((x.s (fMemSa w)).toNat : Int) + fImm15 w * n) % 2 ^ 64).toNat
    (slotOp w = 0x01 → a 64 < 0x10000 → a 64 % 64 = 0 → exec (.ldv c b) s =
      .next (posted s c 3 3 (.v (fReg w)) (BitVec.ofNat 512 (lsValue s c (a 64) 64)) (x.pz (fMemSa w)))) ∧
    (slotOp w = 0x03 → a 8 < 0x10000 → a 8 % 8 = 0 → exec (.lds c b) s =
      .next (posted s c 3 3 (.s (fReg w % 32)) (BitVec.ofNat 512 (lsValue s c (a 8) 8)) (x.pz (fMemSa w)))) ∧
    (∀ i n, (i = .ldv c b ∧ slotOp w = 0x01 ∧ n = 64) ∨ (i = .lds c b ∧ slotOp w = 0x03 ∧ n = 8) → ¬ (a n < 0x10000 ∧ a n % n = 0) →
      ∃ t, exec i s = .next t ∧ (t.core c).hold = .halted ∧ t.mem = s.mem ∧ (∀ d, d ≠ c → t.core d = s.core d) ∧
        (x.faulted = false → bitsOf (t.reg (coreKey c 0x8)).toNat 3 0 = 10))

/-- STV and STS queue a store of 64 or 8 bytes at sa + imm15 × width, made two cycles after issue and poisoned by the source; a poisoned
address starts nothing and is reported; a misaligned or too high address is a class-2 fault (R106, R107, R108, R611). -/
def Obligations.LocalStoreStores : Prop :=
  ∀ (c : CoreId) (b : Bundle) (s : State), Issuing c b 3 s → Clean c s →
    let w := slotWord b 3
    let x := s.core c
    let a := fun n : Nat => ((((x.s (fMemSa w)).toNat : Int) + fImm15 w * n) % 2 ^ 64).toNat
    (slotOp w = 0x02 → x.pz (fMemSa w) = false → a 64 < 0x10000 → a 64 % 64 = 0 → exec (.stv c b) s =
      .next (posted s c 3 2 (.store (a 64) 64) (x.v (fReg w)) (x.pz (vReg (fReg w))))) ∧
    (slotOp w = 0x04 → x.pz (fMemSa w) = false → a 8 < 0x10000 → a 8 % 8 = 0 → exec (.sts c b) s =
      .next (posted s c 3 2 (.store (a 8) 8) ((x.s (fReg w % 32)).setWidth 512) (x.pz (fReg w % 32)))) ∧
    (∀ i, (i = .stv c b ∧ slotOp w = 0x02) ∨ (i = .sts c b ∧ slotOp w = 0x04) → x.pz (fMemSa w) = true →
      ∃ t, exec i s = .next t ∧ t.core c = (took s c 3).core c ∧ t.mem = s.mem ∧ t.poison = s.poison ∧
        ∃ data, t.out = s.out ++ [⟨.deadlineFault, data⟩]) ∧
    (∀ i n, (i = .stv c b ∧ slotOp w = 0x02 ∧ n = 64) ∨ (i = .sts c b ∧ slotOp w = 0x04 ∧ n = 8) → x.pz (fMemSa w) = false →
      ¬ (a n < 0x10000 ∧ a n % n = 0) → ∃ t, exec i s = .next t ∧ (t.core c).hold = .halted ∧ t.mem = s.mem ∧
        (x.faulted = false → bitsOf (t.reg (coreKey c 0x8)).toNat 3 0 = 10))

/-- A queued store lands at the end of its cycle: the bytes of the value stand at the core's local-store address, little-endian, every
other byte of memory keeps its value, and so do the registers; a poisoned one writes no byte and poisons the words it covers (R12, R87,
R108, R610). -/
def Obligations.StoresLand : Prop :=
  ∀ (c : CoreId) (s : State) (r : Result) (a n : Nat), MemInv s → s.poison = [] → s.errs = [] → (s.core c).results = [r] →
    s.now ≤ r.due → r.dst = .store a n → 0 < n → a + n ≤ 0x10000 →
    ∃ t, exec (.registerWriteback c) s = .next t ∧ t.now = r.due + 1 ∧ (t.core c).results = [] ∧ (t.core c).sregs = (s.core c).sregs ∧
      (t.core c).vregs = (s.core c).vregs ∧ (t.core c).accs = (s.core c).accs ∧ (∀ d, d ≠ c → t.core d = s.core d) ∧ t.csr = s.csr ∧
      (r.poison = false → (∀ i, i < n → memGet t.mem (lsKey c a + i) = BitVec.ofNat 8 (r.val.toNat / 2 ^ (8 * i))) ∧
        (∀ k, ¬ (lsKey c a ≤ k ∧ k < lsKey c a + n) → memGet t.mem k = memGet s.mem k) ∧ t.poison = []) ∧
      (r.poison = true → t.mem = s.mem ∧ ∀ u ∈ unitsOf (lsKey c a) n, smem t.poison u = true)

/-- The sync operations: TFILL empties a half of the tab buffer and starts its fill; WAITU holds for CYC; DEADLINE opens an elastic region
that freezes CYC and TB and empties L1; ECLOSE closes it and holds to the cycle after its deadline; SEGEND holds to the next segment, or
is an overrun at its start or later, after which the core is to go on behind it; PLUCK sends a wake to a logical bench; PARK parks its core (R47, R57, R60, R106, R109, R111, R114,
R325). -/
def Obligations.SyncOperations : Prop :=
  ∀ (c : CoreId) (b : Bundle) (s : State), Issuing c b 3 s →
    let w := slotWord b 3
    let x := s.core c
    (slotOp w = 0x0a → x.pz (fFillS w) = false → ∃ t, exec (.tfill c b) s = .next t ∧ SameButCounters ((took s c 3).updCore c fun y =>
        if fHalf w = 0 then { y with valid0 := false, fill0 := some ((x.s (fFillS w)).toNat % 2 ^ 48) }
        else { y with valid1 := false, fill1 := some ((x.s (fFillS w)).toNat % 2 ^ 48) }) t) ∧
    (slotOp w = 0x20 → x.hold = .none →
      exec (.waitu c b) s = .next ((took s c 3).updCore c fun y => { y with hold := .waitu (fImm26 w) })) ∧
    (slotOp w = 0x21 → ∃ t, exec (.deadline c b) s = .next t ∧ SameButCounters ((took s c 3).updCore c fun y =>
        { y with l1 := [], lastMiss := none, runAhead := [], region := some ⟨fImm26 w, s.cyc c.benchId, s.tbNow, false, false, [], []⟩ }) t) ∧
    (∀ r, slotOp w = 0x22 → x.region = some r → ∃ t, exec (.eclose c b) s = .next t ∧
      (t.core c).region = some { r with closed := true } ∧ (t.core c).runAhead = [] ∧ (t.core c).hold = .closed (s.atCyc c.benchId (r.deadline + 1)) ∧
      t.mem = s.mem ∧ t.csr = s.csr ∧ (∀ d, d ≠ c → t.core d = s.core d) ∧ (∀ d, d ≠ c.benchId → t.bench d = s.bench d) ∧
      ((allCores c.benchId).all (fun d => d == c || (s.core d).region.isNone) = true → (t.bench c.benchId).runAhead = [])) ∧
    (slotOp w = 0x23 → (s.job.inStep = true → s.now < s.job.segStart + s.segLength) →
      exec (.segend c b) s = .next ((took s c 3).updCore c fun y => { y with hold := .segend })) ∧
    (slotOp w = 0x23 → s.job.inStep = true → s.job.segStart + s.segLength ≤ s.now → ∃ t, exec (.segend c b) s = .next t ∧
      (t.core c).hold = .halted ∧ (t.core c).nextIdx = x.lastIdx ∧ t.mem = s.mem ∧
      (x.faulted = false → bitsOf (t.reg (coreKey c 0x8)).toNat 3 0 = 13)) ∧
    (∀ p, slotOp w = 0x24 → s.benchPhys c.die (fPluck w) = some p → ∃ t, exec (.pluck c b) s = .next t ∧
      SameButCounters ((took s c 3).updDie c.die fun y => { y with plucks := y.plucks ++ [p.bench.val] }) t) ∧
    (slotOp w = 0x25 → (s.bench c.benchId).lastPluck ≠ some (s.now / 2) → ∃ t, exec (.park c b) s = .next t ∧ (t.core c).parked = true ∧
      (t.core c).done = 3 :: x.done ∧ t.mem = s.mem ∧ (∀ d, d ≠ c → t.core d = s.core d) ∧ (t.bench c.benchId).wokenBy = none ∧
      (t.bench c.benchId).power = (s.bench c.benchId).power)

/-- What ends a wait: at the target a bench in RUN lets its core issue; at a closed region's deadline the core goes on in the next cycle;
an open region's deadline is a class-4 fault after which the region is gone and the core goes on after the ECLOSE; the last bundle of a fill
makes the half valid with the 256 bundles read (R59, R106, R111, R112, R114, R614). -/
def Obligations.WaitsEnd : Prop :=
  ∀ (c : CoreId) (s : State),
    (∀ n, (s.core c).hold = .waitu n → (s.bench c.benchId).power = 0 → (s.bench c.benchId).transit = .none →
      exec (.waituTargetReached c) s = .next ((s.reach (s.atCyc c.benchId n)).updCore c fun y => { y with hold := .none })) ∧
    (∀ r, (s.core c).region = some r → r.closed = true → r.bad = false → (s.core c).results = [] →
      exec (.regionDeadline c) s =
        .next ((s.reach (s.atCyc c.benchId r.deadline + 1)).updCore c fun y => { y with region := none, hold := .none })) ∧
    (∀ r k, (s.core c).region = some r → r.closed = false → (s.core c).results = [] → (s.core c).findOp (s.core c).nextIdx 0x22 = some k →
      ∃ t, exec (.regionDeadline c) s = .next t ∧ (t.core c).region = none ∧ (t.core c).hold = .none ∧ (t.core c).nextIdx = k + 1 ∧
        (t.core c).streams = [] ∧ (t.core c).wait = none ∧ t.mem = s.mem ∧ s.atCyc c.benchId r.deadline < t.now ∧
        (∀ n ∈ r.regs, n ≠ 0 → (t.core c).pz n = true) ∧ (∀ u ∈ r.mem, smem t.poison u = true) ∧
        ((s.core c).faulted = false → bitsOf (t.reg (coreKey c 0x8)).toNat 3 0 = 12)) ∧
    (∀ (half : Fin 2) (a : Nat) (bs : List Byte) (s' : State), (if half = 0 then (s.core c).fill0 else (s.core c).fill1) = some a →
      (s.updCore c fun y => if half = 0 then { y with fill0 := none } else { y with fill1 := none }).xread (.slot c) a 4096 =
        (none, bs, false, s') → ∃ t, exec (.tfillComplete c half) s = .next t ∧ t.mem = s.mem ∧ t.now = s.now ∧
          (t.core c).sregs = (s.core c).sregs ∧ (t.core c).vregs = (s.core c).vregs ∧ (t.core c).nextIdx = (s.core c).nextIdx ∧
          (if half = 0 then (t.core c).valid0 = true ∧ (t.core c).fill0 = none else (t.core c).valid1 = true ∧ (t.core c).fill1 = none) ∧
          (∀ i, i < 256 → nget (t.core c).tb (256 * half + i) 0 = bundleAt bs i) ∧
          (∀ i, i / 256 ≠ half.val → nget (t.core c).tb i 0 = nget (s.core c).tb i 0))

/-! Elastic accesses. -/

/-- LDC and STC of an address that translation serves hold the core on the line they name, an L1 hit with its data; STC holds the source
register's value. A load that is ready enters L1 and is written to its register at the end of the cycle before the core goes on, no earlier than
four cycles after its issue; a store is written to the line, and copies in L1 are updated (R87, R106, R320, R322, R325, R611). -/
def Obligations.ElasticAccesses : Prop :=
  ∀ (c : CoreId) (b : Bundle) (s : State),
    (∀ k s', Issuing c b 3 s →
      let w := slotWord b 3
      let x := s.core c
      let a := memEff x w 64 / 64 * 64 % 2 ^ 48
      (slotOp w = 0x06 → (took s c 3).elasticKey c.benchId a false = (.ok k, s') → ∃ t, exec (.ldc c b) s = .next t ∧
        (t.core c).hold = .cache ∧ t.mem = s.mem ∧ (t.core c).vregs = x.vregs ∧ (t.core c).sregs = x.sregs ∧
        ∃ v bad ready, (t.core c).wait = some ⟨true, a / 64, k, fReg w, v, bad, ready⟩ ∧ (x.pz (fMemSa w) = true → bad = true) ∧
          (∀ q, (cacheTouch x.l1 (l1Set (a / 64)) (a / 64)).1 = some q → v = q ∧ ready = true ∧
            ((∀ e ∈ s'.errs, e.1 ≠ .l1 c) → bad = x.pz (fMemSa w)))) ∧
      (slotOp w = 0x07 → x.pz (fMemSa w) = false → (took s c 3).elasticKey c.benchId a true = (.ok k, s') →
        exec (.stc c b) s = .next (s'.updCore c fun y =>
          { y with hold := .cache, wait := some ⟨false, a / 64, k, fReg w, (s'.core c).v (fReg w), (s'.core c).pz (vReg (fReg w)), true⟩ }))) ∧
    (∀ w : CacheWait, (s.core c).wait = some w → w.load = true → w.ready = true → w.poison = false →
      let on := max s.now ((s.core c).lastCycle.getD 0 + 4)
      (∀ r ∈ (s.core c).results, on ≤ r.due) → ∃ t, exec (.cacheAccessComplete c) s = .next t ∧ t.now = on ∧ t.mem = s.mem ∧
        (t.core c).wait = none ∧ (t.core c).hold = .none ∧ (t.core c).l1 = cachePut (s.core c).l1 (l1Set w.line) 4 w.line w.data ∧
        (t.core c).v w.reg = w.data ∧ (t.core c).pz (vReg w.reg) = false ∧ (∀ m, m % 64 ≠ w.reg % 64 → (t.core c).v m = (s.core c).v m) ∧
        (t.core c).results = (s.core c).results ∧ (t.core c).sregs = (s.core c).sregs ∧ (t.core c).accs = (s.core c).accs ∧
        ∀ d, d ≠ c → t.core d = s.core d) ∧
    (∀ w : CacheWait, (s.core c).wait = some w → w.load = false → w.poison = false → MemInv s → s.poison = [] → s.errs = [] →
      (s.keyOf (s.addrOf w.addr)).isSome = true → s.retireTwin w.addr = none → ∃ t, exec (.cacheAccessComplete c) s = .next t ∧
        (t.core c).wait = none ∧ (t.core c).hold = .none ∧ (t.core c).vregs = (s.core c).vregs ∧ (t.core c).sregs = (s.core c).sregs ∧
        (t.core c).l1 = cacheUpd (s.core c).l1 (l1Set w.line) w.line w.data ∧
        (∀ i, i < 64 → memGet t.mem (w.addr + i) = BitVec.ofNat 8 (w.data.toNat / 2 ^ (8 * i))) ∧
        (∀ q, ¬ (w.addr ≤ q ∧ q < w.addr + 64) → memGet t.mem q = memGet s.mem q))

/-- Gather streams: GSTR starts the stream that its 64-byte descriptor in local store describes, when R334 finds no fault in it; GWAIT
holds while the stream runs. While fewer than 16 lines are outstanding the next line of the next stream in rotation is requested, from the row
that the clamped index names: the own scratch answers at once, and a line of LPDDR6 that the partition does not hold takes a free miss register.
A line whose data is there is written to the destination at 64 × its number; one that meets a pending line is a landing collision (R106, R314,
R321, R326, R332 to R334, R612). -/
def Obligations.GatherStreams : Prop :=
  ∀ (c : CoreId) (b : Bundle) (s : State),
    (Issuing c b 3 s → Clean c s →
      let w := slotWord b 3
      let x := s.core c
      let a := (x.s (fGstrS w)).toNat
      let d := lsValue s c a 64
      (slotOp w = 0x08 → x.pz (fGstrS w) = false → a + 64 ≤ 0x10000 → gatherCheck a d = 0 →
        let g : GStream := ⟨gCtrl d % 4 == 1, gRowl d, gTable d, gStride d, gRows d, gIdx d, gDst d, gCount d, 0, 0⟩
        exec (.gstr c b) s = .next ((took s c 3).updCore c fun y => { y with streams := nset y.streams (fStream w) g })) ∧
      (slotOp w = 0x09 → exec (.gwait c b) s = .next (if (nget? x.streams (fStream w)).isSome = true
        then (took s c 3).updCore c fun y => { y with hold := .gwait (fStream w) } else took s c 3))) ∧
    (∀ i g key s', Clean c s → s.ctr = [] → (s.core c).greqs.length < 16 → (s.core c).nextStream = some i →
      nget? (s.core c).streams i = some g →
      let u := s.updCore c fun x => { x with grot := i, streams := nset x.streams i { g with next := g.next + 1 } }
      let ix := lsValue s c (g.idx + (if g.u16idx then 2 else 4) * (g.next / g.rowl)) (if g.u16idx then 2 else 4)
      let v : Int := if g.u16idx then (ix : Int) else sext 32 ix
      let a := g.table + (min (max v 0) ((g.rows : Int) - 1)).toNat * g.stride + 64 * (g.next % g.rowl)
      u.elasticKey c.benchId a false = (.ok key, s') →
        (0x800000000000 ≤ key → s'.poison = [] → s'.errs = [] → ∃ t, exec (.gatherLineIssue c) s = .next t ∧
          SameButCounters (s'.updCore c fun y => { y with greqs := y.greqs ++
            [⟨i, g.next, a / 64, key, true, BitVec.ofNat 512 (leNat ((List.range 64).map fun j => memGet s'.mem (key + j))), false⟩] }) t) ∧
        (key < 0x0a8000000000 → (s'.partLookup c.benchId (a / 64)).1 = none → (s'.bench c.benchId).missRegs.length < 64 →
          ∃ t, exec (.gatherLineIssue c) s = .next t ∧ t.mem = s.mem ∧ (t.core c).streams = (u.core c).streams ∧
            (t.core c).greqs = (s.core c).greqs ++ [⟨i, g.next, a / 64, key, false, 0, false⟩] ∧
            (t.bench c.benchId).missRegs = (s'.bench c.benchId).missRegs ++ [⟨a / 64, key, 128 + c.core.val⟩])) ∧
    (∀ (k : Nat) (q : GReq) (g : GStream), (s.core c).greqs[k]? = some q → q.ready = true → nget? (s.core c).streams q.stream = some g →
      let off := g.dst + 64 * q.num
      off + 64 ≤ 0x10000 →
      (q.poison = false → s.marked c (off / 64) = false → MemInv s → s.poison = [] → s.errs = [] →
        ∃ t, exec (.gatherLineComplete c k) s = .next t ∧ (t.core c).greqs.length < (s.core c).greqs.length ∧
          (∀ i, i < 64 → memGet t.mem (lsKey c off + i) = BitVec.ofNat 8 (q.data.toNat / 2 ^ (8 * i))) ∧
          (∀ z, ¬ (lsKey c off ≤ z ∧ z < lsKey c off + 64) → memGet t.mem z = memGet s.mem z) ∧
          (t.core c).vregs = (s.core c).vregs ∧ (t.core c).sregs = (s.core c).sregs) ∧
      (s.marked c (off / 64) = true → ∃ t, exec (.gatherLineComplete c k) s = .next t ∧ t.mem = s.mem ∧ t.poison = s.poison ∧
        smem (t.core c).lineBad (off / 64) = true ∧ ∃ data, t.out = s.out ++ [⟨.deadlineFault, data⟩]))

/-- The one queued miss of a die on a channel is served: the queue empties, the miss register frees, and the core that waits on the line has
its bytes (R326). Two adjacent demand misses of the partition while a region is open let up to four further lines take miss registers as
prefetches, none when fewer than 16 registers are free; those of an L1 let its core's L1 fetch ahead (R329, R330). -/
def Obligations.MissesAndRunAhead : Prop :=
  (∀ (ch : ChanId) (d : Die) (n : Fin 180) (i : Fin 64) (line key : Nat) (w : CacheWait) (s : State), s.poison = [] → s.errs = [] →
    s.chanFreed ch = false → s.startGiven ch (.miss d) = true →
    nget (s.hub ch.hub).misses ch.chan.val [] = [(d.val, n.val, line)] → (s.bench ⟨d, n⟩).missRegs = [⟨line, key, i.val⟩] →
    (s.core ⟨d, n, i⟩).wait = some w → w.load = true → w.line = line → w.ready = false →
    ∃ t, exec (.missSlotService ch d) s = .next t ∧ nget (t.hub ch.hub).misses ch.chan.val [] = [] ∧ (t.bench ⟨d, n⟩).missRegs = [] ∧
      t.mem = s.mem ∧ t.csr = s.csr ∧ (∀ k, k ≠ ⟨d, n, i⟩ → t.core k = s.core k) ∧
      (t.core ⟨d, n, i⟩).wait = some { w with ready := true, data := BitVec.ofNat 512 (leNat ((List.range 64).map fun j => memGet s.mem (key + j))) }) ∧
  (∀ (b : BenchId) (line : BitVec 48) (up : Bool) (s : State), s.regionOpen b = true →
    ((s.bench b).runAhead.contains (line.toNat, up) = true → (∀ i, (s.core (b.coreAt i)).runAhead.contains (line.toNat, up) = false) →
      ∃ t, exec (.prefetchIssue b line up) s = .next t ∧ (t.bench b).runAhead = (s.bench b).runAhead.erase (line.toNat, up) ∧
        t.mem = s.mem ∧ t.cores = s.cores ∧ ∃ l : List MissReg, (t.bench b).missRegs = (s.bench b).missRegs ++ l ∧ l.length ≤ 4 ∧
          (∀ r ∈ l, r.who = 64) ∧ (l ≠ [] → (t.bench b).missRegs.length ≤ 49)) ∧
    (∀ i : Fin 64, (s.bench b).runAhead.contains (line.toNat, up) = false →
      (∀ j, (s.core (b.coreAt j)).runAhead.contains (line.toNat, up) = decide (j = i)) →
      ∃ t, exec (.prefetchIssue b line up) s = .next t ∧ t.mem = s.mem ∧ (t.bench b).part = (s.bench b).part ∧
        (t.core (b.coreAt i)).runAhead = (s.core (b.coreAt i)).runAhead.erase (line.toNat, up) ∧ (∀ c, c ≠ b.coreAt i → t.core c = s.core c) ∧
        (∀ r ∈ (t.bench b).missRegs, r ∈ (s.bench b).missRegs ∨ r.who = 192 + i.val) ∧ t.out = s.out))

/-! Descriptors, landing, hubs and translation. -/

/-- DISS reads the 192 bytes of a descriptor at sa: one that the checks of R293 accept, and that moves anything, takes a descriptor slot;
one they refuse starts nothing, its first error of the segment is recorded with its code and address, and the core goes on; a misaligned
or too high address is a class-2 fault (R271, R272, R293, R302). -/
def Obligations.DescriptorsIssue : Prop :=
  ∀ (c : CoreId) (b : Bundle) (s : State), Issuing c b 3 s → Clean c s →
    let w := slotWord b 3
    let x := s.core c
    let a := (x.s (fDissS w)).toNat
    let bits := BitVec.ofNat 1536 (lsValue s c a 192)
    let code := (parseDesc bits).check (4 ≤ x.descs.length) false s.workCycles
    slotOp w = 0x05 → x.pz (fDissS w) = false →
    (s.swapHolds = false → a % 64 = 0 → a ≤ 0xff40 → code = 0 → (parseDesc bits).empty = false → ∃ t, exec (.diss c b) s = .next t ∧
      SameButCounters ((took s c 3).updCore c fun y => { y with descs := y.descs ++ [(bits, false)] }) t) ∧
    (s.swapHolds = false → a % 64 = 0 → a ≤ 0xff40 → code ≠ 0 → x.descFaulted = false → ∃ t, exec (.diss c b) s = .next t ∧ t.mem = s.mem ∧
      (t.core c).hold = x.hold ∧ (t.core c).descs = x.descs ∧ (t.core c).descFaulted = true ∧
      t.reg (coreKey c 0x38) = faultWord (code + 8) s.stepNo ∧ t.reg (coreKey c 0x40) = BitVec.ofNat 64 a) ∧
    (s.swapHolds = true → a % 64 = 0 → a ≤ 0xff40 → exec (.diss c b) s = .next (took s c 3)) ∧
    (¬ (a % 64 = 0 ∧ a ≤ 0xff40) → ∃ t, exec (.diss c b) s = .next t ∧ (t.core c).hold = .halted ∧ t.mem = s.mem ∧
      (x.faulted = false → bitsOf (t.reg (coreKey c 0x8)).toNat 3 0 = 10))

/-- A descriptor of a core that completes frees its slot, and one of an engine with no request left frees its engine, whatever its end; the
registers of the core stay. One that ends without an error moved what its walk of positions gathers and lands; one whose deadline has come lands
poisoned and is reported, once (R51, R54, R270, R272, R276, R298). -/
def Obligations.DescriptorsComplete : Prop :=
  ∀ (s : State),
    (∀ (c : CoreId) (i : Nat), ∃ t, exec (.descriptorComplete (.core c i)) s = .next t ∧
      (t.core c).descs = (s.core c).descs.eraseIdx i ∧ (t.core c).sregs = (s.core c).sregs ∧ (t.core c).vregs = (s.core c).vregs ∧
      (t.core c).accs = (s.core c).accs) ∧
    (∀ (h : Hub) (e : Fin 16) (g : Engine), nget? (s.hub h).engines e = some g →
      (g.todo = [] → g.inflight = 0 → ∃ t, exec (.descriptorComplete (.engine h e)) s = .next t ∧
        (t.hub h).engines = nerase (s.hub h).engines e ∧ (t.hub h).tags = (s.hub h).tags) ∧
      (g.todo ≠ [] ∨ g.inflight ≠ 0 → exec (.descriptorComplete (.engine h e)) s = .next s)) ∧
    (∀ (c : CoreId) (i : Nat) (rec : BitVec 1536), (s.core c).descs[i]? = some (rec, false) → (s.core c).landQ = [] →
      let d := parseDesc rec
      let u := s.updCore c fun x => { x with descs := x.descs.eraseIdx i }
      let late := decide (d.deadline ≤ s.cyc c.benchId)
      let r := u.runDesc (coreMover c) d late
      u.unreadySlot d = none → r.1 = none → r.2.1 = 0 → (s.core c).parked = false →
        exec (.descriptorComplete (.core c i)) s = .next (if late then r.2.2.coreDeadline c else r.2.2)) ∧
    (∀ (h : Hub) (e : Fin 16) (g : Engine), nget? (s.hub h).engines e = some g → g.todo = [] → g.inflight = 0 → g.late = false →
      let d := parseDesc g.desc
      let u := s.updHub h fun x => { x with engines := nerase x.engines e }
      let late := decide (s.job.segStart + 2 * d.deadline ≤ s.now)
      let r := u.runDesc (hubMover h) { d with deadline := 2 * d.deadline } late
      u.unreadySlot d = none → r.1 = none →
        exec (.descriptorComplete (.engine h e)) s = .next (if late then r.2.2.hubDeadline h else r.2.2))

/-- The landing queue: a line that finds it empty before its deadline is written whole and marked pending to its deadline; one at or after its
deadline lands poisoned and is reported; one that meets a pending line is a landing collision that writes nothing; a line that finds 16 lines
waits outside. At the deadline the mark clears. A descriptor of the core that has not landed by its deadline is late, once, and is reported (R51,
R54, R313, R314). -/
def Obligations.LinesLand : Prop :=
  ∀ (c : CoreId) (l : Fin 1024) (v : Vec) (d : BitVec 26) (p : Bool) (s : State),
    ((s.core c).landQ = [] → (s.core c).landFrom ≤ s.now →
      (s.marked c l = false → s.cyc c.benchId < d.toNat → p = false → MemInv s → s.poison = [] → s.errs = [] →
        ∃ t, exec (.landingWrite c (some (l, v, d, p))) s = .next t ∧
          (∀ i, i < 64 → memGet t.mem (lsKey c (64 * l) + i) = BitVec.ofNat 8 (v.toNat / 2 ^ (8 * i))) ∧
          (∀ k, ¬ (lsKey c (64 * l) ≤ k ∧ k < lsKey c (64 * l) + 64) → memGet t.mem k = memGet s.mem k) ∧
          (t.core c).landQ = [] ∧ (t.core c).marks = nset (s.core c).marks l d.toNat ∧ t.out = s.out ∧ t.poison = [] ∧
          (t.core c).sregs = (s.core c).sregs ∧ (t.core c).vregs = (s.core c).vregs) ∧
      (s.marked c l = false → d.toNat ≤ s.cyc c.benchId → ∃ t, exec (.landingWrite c (some (l, v, d, p))) s = .next t ∧ t.mem = s.mem ∧
        (∀ u ∈ unitsOf (lsKey c (64 * l)) 64, smem t.poison u = true) ∧ ∃ data, t.out = s.out ++ [⟨.deadlineFault, data⟩]) ∧
      (s.marked c l = true → ∃ t, exec (.landingWrite c (some (l, v, d, p))) s = .next t ∧ t.mem = s.mem ∧ t.poison = s.poison ∧
        smem (t.core c).lineBad l = true ∧ ∃ data, t.out = s.out ++ [⟨.deadlineFault, data⟩])) ∧
    (16 ≤ (s.core c).landQ.length → exec (.landingWrite c (some (l, v, d, p))) s = .next s) ∧
    ((∀ e ∈ s.myLinks.zipIdx, s.awaits e = false) →
      (∀ q, (s.core c).descs = [] → nget? (s.core c).marks l = some q → exec (.landingDeadline c l) s =
        .next ((s.reach (s.atCyc c.benchId q)).updCore c fun x => { x with marks := nerase x.marks l })) ∧
      (∀ rec, s.errs = [] → (s.core c).descs = [(rec, false)] → nget? (s.core c).marks l = none →
        ∃ t, exec (.landingDeadline c l) s = .next t ∧ t.now = max s.now (s.atCyc c.benchId (parseDesc rec).deadline) ∧ t.mem = s.mem ∧
          (t.core c).descs = [(rec, true)] ∧ ∃ data, t.out = s.out ++ [⟨.deadlineFault, data⟩]))

/-- Copy engines: a start that R293 accepts, where no commit fence is to be judged, makes the engine run with its requests, in the fabric cycle
that the slot table of a running tab names, with that table's descriptor; a channel start that the table gives to copies sends the engine's next
request to that channel under a free tag, one that no record names is left free, and one that is given to another use, or at a channel that a
window frees, does not take place; a request that completes frees its tag; a refused start records the first error of the segment with code,
engine and entry; refresh debt rises by one, and at 8 it is a DRAM fault of cause 2 (R75, R293, R310, R335 to R339, R345, R346). -/
def Obligations.CopyEngines : Prop :=
  (∀ (h : Hub) (e : Fin 16) (entry : BitVec 32) (w : BitVec 1536) (s u : State),
    let d := parseDesc w
    let r := u.requests h d
    let on := (s.copyEntry entry.toNat = none ∧ u = s) ∨
      ∃ t, s.copyEntry entry.toNat = some (t, h.val, e.val, w) ∧ u = s.reach (s.job.segStart + 2 * t)
    (∀ t h' e' w', s.copyEntry entry.toNat = some (t, h', e', w') → ¬ (h' = h.val ∧ e' = e.val ∧ w' = w) →
      exec (.copyStart h e entry w) s = .next s) ∧
    (on → u.swapHolds = true ∨ u.freedNow (hubUnit h) = true → exec (.copyStart h e entry w) s = .next u) ∧
    (on → u.swapHolds = false → u.freedNow (hubUnit h) = false → nget? (u.hub h).engines e = none →
      (d.check false true u.workFabric = 0 → d.empty = false → (u.myRegions.all fun g => g.home != 0) = true → r.1.head? ≠ some 400 →
        exec (.copyStart h e entry w) s = .next (r.2.updHub h fun x => { x with engines := nset x.engines e ⟨w, r.1, 0, false⟩ })) ∧
      (d.check false true u.workFabric ≠ 0 → (u.hub h).copyFaulted = false → u.errs = [] → ∃ t, exec (.copyStart h e entry w) s = .next t ∧
        t.mem = s.mem ∧ (t.hub h).engines = (s.hub h).engines ∧ (t.hub h).copyFaulted = true ∧
        t.reg (hubKey h 0x400) = faultWord (d.check false true u.workFabric + 8 + e * 16) s.stepNo ∧
        t.reg (hubKey h 0x408) = BitVec.ofNat 64 entry.toNat))) ∧
  (∀ (c : ChanId) (e : Fin 16) (g : Engine) (rest : List Nat) (tag : Nat) (s : State), s.chanFreed c = false → s.startGiven c (.copy e) = true →
    nget? (s.hub c.hub).engines e = some g → g.todo = c.key :: rest → rest.head? ≠ some 400 → (s.hub c.hub).freeTag = some tag →
    ∃ t, exec (.channelStart c (.copy e)) s = .next t ∧ t.mem = s.mem ∧ t.cores = s.cores ∧ t.now = max s.now (s.startCycle c) ∧
      t.hub c.hub = { s.hub c.hub with
        lastStart := nset (s.hub c.hub).lastStart c.chan (s.startCycle c), tags := nset (s.hub c.hub).tags tag e
        engines := nset (s.hub c.hub).engines e { g with todo := rest, inflight := g.inflight + 1 } }) ∧
  (∀ (c : ChanId) (s : State), s.chanFreed c = false → s.startGiven c .free = true → ∃ t, exec (.channelStart c .free) s = .next t ∧
    SameButCounters ((s.reach (s.startCycle c)).updHub c.hub fun x => { x with lastStart := nset x.lastStart c.chan (s.startCycle c) }) t) ∧
  (∀ (c : ChanId) (u : StartUse) (s : State), s.chanFreed c = true ∨ s.startGiven c u = false → exec (.channelStart c u) s = .next s) ∧
  (∀ (h : Hub) (tag : Fin 4096) (e : Nat) (g : Engine) (s : State), nget? (s.hub h).tags tag = some e → nget? (s.hub h).engines e = some g →
    g.todo = [] → (∀ p ∈ (s.hub h).engines, p.2.todo.head? ≠ some 400) → exec (.channelRequestComplete h tag) s = .next (s.updHub h fun x => { x with
      tags := nerase x.tags tag, engines := nset x.engines e { g with inflight := g.inflight - 1 } })) ∧
  (∀ (c : ChanId) (sub : Fin 2) (s : State),
    let k := 2 * c.chan.val + sub.val
    let n := nget (s.hub c.hub).debt k 0
    (n ≠ 7 → ∃ t, exec (.refreshDebtTick c sub) s = .next t ∧
      SameButCounters (s.updHub c.hub fun x => { x with debt := nset x.debt k (n + 1) }) t) ∧
    (n = 7 → (s.hub c.hub).dramFaulted = false → ∃ t, exec (.refreshDebtTick c sub) s = .next t ∧ nget (t.hub c.hub).debt k 0 = 8 ∧
      (t.hub c.hub).dramFaulted = true ∧ t.reg (hubKey c.hub 0x438) = faultWord (6 + c.chan * 8 + sub * 512) s.stepNo ∧ t.mem = s.mem))

/-- Translation: an access whose page no cache entry covers walks the three levels from the active root, and the page's entry is the most
recent of the path's cache, which keeps at most its size; a root that is not active takes the written base, the active one keeps its own
and the access is in error; a swap that was requested, with no tab running and nothing in flight, installs root 0 the first time, inverts
ACTIVE each later time, clears SWAP and empties every cache (R308, R310, R311, R312). -/
def Obligations.TranslationRoots : Prop :=
  (∀ (p : XPath) (addr : Addr) (e1 e2 e3 : Nat) (s : State), s.poison = [] → s.errs = [] → s.xlatInstalled = true →
    (s.tlbOf p).find? (tlbHas addr.toNat) = none →
    (s.tableWord (s.xlatRoot s.xlatActive + 8 * bitsOf addr.toNat 47 34)).1 = some e1 → entryBad e1 false = false →
    (s.tableWord (entryTarget e1 + 8 * bitsOf addr.toNat 33 21)).1 = some e2 → entryBad e2 true = false → e2.testBit 5 = false →
    (s.tableWord (entryTarget e2 + 8 * bitsOf addr.toNat 20 12)).1 = some e3 → entryBad e3 false = false →
    ∃ t, exec (.translationWalkComplete p addr) s = .next t ∧ t.mem = s.mem ∧
      t.tlbOf p = ((⟨addr.toNat / 4096 * 4096, 4096, BitVec.ofNat 64 e3⟩ : Tlb) :: s.tlbOf p).take (tlbSize p)) ∧
  (∀ (m : Md) (n : Fin 2) (v : Word64) (s : State),
    (¬ (s.xlatInstalled = true ∧ s.xlatActive = n.val) → Yields (.xlatRootWrite (.host m) n v) s (s.setReg (mgtKey (0x140 + 8 * n))
      ((s.reg (mgtKey (0x140 + 8 * n)) &&& ~~~0xfffffffff000#64) ||| (v &&& 0xfffffffff000#64)))) ∧
    (s.xlatInstalled = true → s.xlatActive = n.val → ∃ t, exec (.xlatRootWrite (.host m) n v) s = .next t ∧
      t.reg (mgtKey (0x140 + 8 * n)) = s.reg (mgtKey (0x140 + 8 * n)) ∧ t.mem = s.mem ∧ t.cores = s.cores ∧
      (s.fld (mdKey m 0x428) 3 3 = 0 → t.fld (mdKey m 0x428) 3 0 = 13))) ∧
  (∀ (m : Md) (s : State), Yields (.xlatSwapRequest (.host m)) s (s.setFld (mgtKey 0x150) 1 1 1)) ∧
  (∀ s : State, s.fld (mgtKey 0x150) 1 1 = 1 → s.tabState ≠ tabRunning → s.idleTransfers = true →
    ∃ t, exec .xlatSwap s = .next t ∧ t.fld (mgtKey 0x150) 1 1 = 0 ∧ t.xlatInstalled = true ∧ t.mem = s.mem ∧
      t.xlatActive = (if s.xlatInstalled = true then 1 - s.xlatActive else 0) ∧
      (∀ c, (t.core c).tlb = []) ∧ (∀ b, (t.bench b).tlb = []) ∧ (∀ h, (t.hub h).tlb = []))

/-! The dresser. -/

/-- A pass that its bench starts in a step and that finds no fault runs to its DEADLINE with what it writes on record. The norm pass writes
its norm record and no other byte; the apply pass runs every entry in order with the clip factor of its norm record and the trust of each group,
and leaves memory as they leave it; the apply pass of a step whose gradient norm is not finite writes nothing and reports the step; the
schedule pass that evaluates every group writes its value record and no other byte (R355, R357, R369, R374, R375, R378). -/
def Obligations.PassesRun : Prop :=
  ∀ (b : BenchId) (s u : State), MemInv s → s.poison = [] → s.errs = [] →
    let due := u.job.segStart + 2 * (u.fld (benchKey b 0x308) 57 32 + 1)
    (s.passStart b 1 = some u →
      let q := u.setup b
      let gs := groupsOf q.2.2.1
      let nout := leNat ((q.2.1.drop 8).take 4)
      let r := (List.range (u.fld (benchKey b 0x300) 47 32)).foldl (fun (r : Run) i => r.doEntry true b (u.drsList b) gs
        (fun g => (gs.map fun g => scalOf g kOne kOne).getD g ⟨0, 0, 0, 0, 0⟩) i)
        { s := q.2.2.2.updBench b fun x => { x with normOut := some (u.stepNo, nout) } }
      q.1 = 0 → (gs.all fun g => g.rule ≤ 3) = true → r.cause = 0 → nout + normBytes ≤ 2 ^ 20 * u.scratchMiB b →
      ∃ t, exec (.dresserNorm b) s = .next t ∧ (t.bench b).pass = some ⟨1, due, u.stepNo, [(nout, normBytes)], []⟩ ∧
        (t.bench b).normOut = some (u.stepNo, nout) ∧ t.cores = s.cores ∧
        (∀ i, i < normBytes → memGet t.mem (scratchKey b nout + i) = (normRecord r.acc).getD i 0) ∧
        (∀ k, ¬ (scratchKey b nout ≤ k ∧ k < scratchKey b nout + normBytes) → memGet t.mem k = memGet s.mem k)) ∧
    (s.passStart b 2 = some u →
      let q := ({ u with job := { u.job with applyStarted := true, lastApply := some u.stepNo } } : State).setup b
      let n := q.2.2.2.scr b (leNat ((q.2.1.drop 4).take 4)) normBytes
      let gs := groupsOf q.2.2.1
      let ng := leNat (n.2.1.take 8)
      let sc := gs.zipIdx.map fun p => scalOf p.1 (clipOf ng (leNat (q.2.2.1.take 4))) (trustOf p.1 (recUn n.2.1 p.2) (recWn n.2.1 p.2))
      let r := (List.range (u.fld (benchKey b 0x300) 47 32)).foldl
        (fun (r : Run) i => r.doEntry false b (u.drsList b) gs (fun g => sc.getD g ⟨0, 0, 0, 0, 0⟩) i)
        { s := n.2.2.setFld (drsStatus b) 4 4 0 }
      q.1 = 0 → (gs.all fun g => g.rule ≤ 3) = true → n.1 = 0 → ngSkips ng = false → r.cause = 0 →
      ∃ t, exec (.dresserApply b) s = .next t ∧ (t.bench b).pass = some ⟨2, due, u.stepNo, r.outs, r.blocks⟩ ∧ t.mem = r.s.mem ∧
        t.job.applyStarted = true ∧ t.job.lastApply = some u.stepNo ∧ t.fld (drsStatus b) 4 4 = 0 ∧ t.cores = s.cores) ∧
    (s.passStart b 2 = some u →
      let q := ({ u with job := { u.job with applyStarted := true, lastApply := some u.stepNo } } : State).setup b
      let n := q.2.2.2.scr b (leNat ((q.2.1.drop 4).take 4)) normBytes
      q.1 = 0 → ((groupsOf q.2.2.1).all fun g => g.rule ≤ 3) = true → n.1 = 0 → ngSkips (leNat (n.2.1.take 8)) = true →
      ∃ t, exec (.dresserApply b) s = .next t ∧ (t.bench b).pass = some ⟨2, due, u.stepNo, [], []⟩ ∧ t.job.applyStarted = true ∧
        t.fld (drsStatus b) 4 4 = 1 ∧ t.mem = s.mem ∧ t.cores = s.cores ∧ t.poison = [] ∧
        t.out = s.out ++ [⟨.nonFiniteStep, [s.tab.pos, b.die, b.bench, s.stepNo]⟩]) ∧
    (s.passStart b 3 = some u →
      let h := u.scr b (u.drsList b) 64
      let val := leNat (h.2.1.take 4)
      let bank := u.activeBank
      let base := u.bankOff b bank
      let r := u.scr b base 64
      let n := leNat ((r.2.1.drop 4).take 2)
      let t := u.evalGroups b base (List.range n)
      let rec' := r.2.1.take 4 ++ leBytes 4 0 ++ leBytes 8 (u.stepNo % 2 ^ 40) ++ leBytes 2 bank ++ leBytes 2 n ++ leBytes 44 0 ++
        t.2.1.flatten ++ leBytes (64 * (256 - n)) 0
      h.1 = 0 → listHeadOk h.2.1 (2 ^ 20 * u.scratchMiB b) = true → 16448 + val ≤ 2 ^ 20 * u.scratchMiB b → (u.bench b).schedLoad = none →
      bank ∉ (u.bench b).schedBad → bankBytes + base ≤ 2 ^ 20 * u.scratchMiB b → r.1 = 0 → 1 ≤ n → n ≤ 256 → t.1 = 0 →
      ∃ v, exec (.dresserSched b) s = .next v ∧ (v.bench b).pass = some ⟨3, due, u.stepNo, [(val, 16448)], []⟩ ∧ v.cores = s.cores ∧
        (∀ i, i < rec'.length → memGet v.mem (scratchKey b val + i) = rec'.getD i 0) ∧
        (∀ k, ¬ (scratchKey b val ≤ k ∧ k < scratchKey b val + rec'.length) → memGet v.mem k = memGet s.mem k))

/-- A pass that ends before its DEADLINE cycle has ended is done, and an apply pass advances LAST to its step; one that runs at that end is
a fault of cause 5 whose outputs are poisoned. Software writes LAST while no tab runs, else the write is in error; a rerun sets LAST of
every dresser bench to the step before. A bank load that is accepted is BUSY until it is done with RESULT 1; one of the active or the held
bank is refused with RESULT 2 (R357, R358, R362 to R364, R371). -/
def Obligations.PassesEnd : Prop :=
  ∀ (b : BenchId) (s : State),
    (∀ p : PassRec, (s.bench b).pass = some p → s.now < p.deadline →
      (p.outs.all fun o => o.1 + o.2 ≤ 2 ^ 20 * s.scratchMiB b) = true → ∃ t, exec (.dresserPassEnd b) s = .next t ∧
        (t.bench b).pass = none ∧ t.fld (drsStatus b) 1 0 = 2 ∧ t.mem = s.mem ∧ t.out = s.out ∧
        t.fld (benchKey b 0x310) 39 0 = (if p.pass = 2 then p.step % 2 ^ 40 else s.fld (benchKey b 0x310) 39 0)) ∧
    (∀ p : PassRec, (s.bench b).pass = some p → ∃ t, exec (.dresserPassDeadline b) s = .next t ∧ p.deadline ≤ t.now ∧
      (t.bench b).pass = none ∧ t.fld (drsStatus b) 1 0 = 3 ∧ t.mem = s.mem ∧
      (∀ o ∈ p.outs, ∀ x ∈ unitsOf (scratchKey b o.1) o.2, smem t.poison x = true) ∧
      ((s.bench b).drsFaulted = false → t.fld (benchKey b 0x338) 3 0 = 13 ∧ t.fld (benchKey b 0x338) 55 16 = s.stepNo % 2 ^ 40)) ∧
    (∀ (m : Md) (v : Word64), s.dieFenced b.die = false → s.benchFenced b = false →
      (s.tabState ≠ tabRunning →
        Yields (.drsStepWrite (.host m) b v) s (s.setFld (benchKey b 0x310) 39 0 (bitsOf v.toNat 39 0))) ∧
      (s.tabState = tabRunning → ∃ t, exec (.drsStepWrite (.host m) b v) s = .next t ∧ t.reg (benchKey b 0x310) = s.reg (benchKey b 0x310) ∧
        (s.fld (mdKey m 0x428) 3 3 = 0 → t.fld (mdKey m 0x428) 3 0 = 13)) ∧
      (v.getLsbD 1 = true → (v.toNat % 2 = s.activeBank ∨ s.heldBank = some (v.toNat % 2)) →
        Yields (.schedBankLoad (.host m) b v) s (s.setFld (benchKey b 0x328) 4 3 2)) ∧
      (∀ pages s', v.getLsbD 1 = true → v.toNat % 2 ≠ s.activeBank → s.heldBank ≠ some (v.toNat % 2) → (s.bench b).schedLoad = none →
        s.fld (benchKey b 0x320) 47 0 % 64 = 0 → bankBytes + s.bankOff b (v.toNat % 2) ≤ 2 ^ 20 * s.scratchMiB b →
        s.newCycle.bankSource (s.fld (benchKey b 0x320) 47 0) = (some pages, s') → ∃ t, exec (.schedBankLoad (.host m) b v) s = .next t ∧
          (t.bench b).schedLoad = some (v.toNat % 2, s.fld (benchKey b 0x320) 47 0, false) ∧ t.fld (benchKey b 0x328) 2 2 = 1 ∧
          t.fld (benchKey b 0x328) 4 3 = 0 ∧ t.mem = s.mem)) ∧
    (∀ n : BitVec 40, s.jobRuns = true → ∃ t, exec (.drsStepReset n) s = .next t ∧ t.mem = s.mem ∧ t.cores = s.cores ∧
      ∀ d ∈ s.liveBenches, t.fld (benchKey d.1 0x310) 39 0 = (2 ^ 40 + n.toNat - 1) % 2 ^ 40) ∧
    (∀ bank src lost, (s.bench b).schedLoad = some (bank, src, lost) → ∃ t, exec (.schedBankLoadDone b) s = .next t ∧
      (t.bench b).schedLoad = none ∧ t.fld (benchKey b 0x328) 2 2 = 0 ∧ t.fld (benchKey b 0x328) 5 5 = bank % 2 ∧
      (lost = true → t.fld (benchKey b 0x328) 4 3 = 3 ∧ t.mem = s.mem ∧ smem (t.bench b).schedBad bank = true) ∧
      (lost = false → bankBytes + s.bankOff b bank ≤ 2 ^ 20 * s.scratchMiB b → (s.bankSource src).1.isSome = true →
        t.fld (benchKey b 0x328) 4 3 = 1 ∧ smem (t.bench b).schedBad bank = false))

/-! Gradient reduction and digests. -/

/-- Selection is exact: k elements are selected, none that is not selected has a larger key than one that is, and of the elements of the
threshold key the lower indexes are taken first. Keys order numbers by magnitude, sign plays no part, and a NaN is ahead of every number
(R396, R397). -/
def Obligations.SelectionIsExact : Prop :=
  (∀ (xs : List Nat) (n : Nat), (select xs n).length = xs.length ∧ (select xs n).count true = xs.length >>> n ∧
    ∀ i j, i < xs.length → j < xs.length → (select xs n).getD i false = true → (select xs n).getD j false = false →
      selKey (xs.getD j 0) ≤ selKey (xs.getD i 0) ∧ (selKey (xs.getD i 0) = selKey (xs.getD j 0) → i < j)) ∧
  (∀ x : Nat, x < 2 ^ 31 → selKey (2 ^ 31 + x) = selKey x) ∧
  (∀ x y : Nat, x ≤ 0x7f800000 → y ≤ 0x7f800000 → (selKey x ≤ selKey y ↔ x ≤ y)) ∧
  (∀ x y : Nat, (f32 x).isNan = true → (f32 y).isNan = false → selKey y < selKey x)

/-- A node of two leaves or more splits after the largest power of two below its leaves. Every leaf but leaf 0 begins the right child of
exactly one node, which its parent's lowest leaf hosts. A node adds what both children hold, rounded once, passes what one of them holds, and
a dense value of two sparse children holds +0 elsewhere (R401, R403 to R405). -/
def Obligations.ReductionTree : Prop :=
  (∀ lo hi : Nat, lo + 2 ≤ hi → hi ≤ lo + 4096 → lo < splitMid lo hi ∧ splitMid lo hi < hi ∧
    hi - splitMid lo hi ≤ splitMid lo hi - lo ∧ ∃ k, splitMid lo hi = lo + 2 ^ k) ∧
  (∀ n l : Nat, n ≤ 4096 → l < n → (parentLeaf n l = none ↔ l = 0) ∧
    ∀ p, parentLeaf n l = some p → p < l ∧ ∃ hi, hi ≤ n ∧ (p, l, hi) ∈ hostedBy n p) ∧
  (∀ n l lo mid hi : Nat, n ≤ 4096 → (lo, mid, hi) ∈ hostedBy n l → lo = l ∧ mid = splitMid lo hi ∧ parentLeaf n mid = some l) ∧
  (∀ (thin elems i : Nat) (a b : RedVal),
    a.elems.Pairwise (fun x y => x.1 < y.1) → b.elems.Pairwise (fun x y => x.1 < y.1) →
    let at' := fun (v : RedVal) => (v.elems.find? fun e => e.1 == i).map Prod.snd
    let c := combine thin elems a b
    c.lo = a.lo ∧ c.hi = b.hi ∧ c.elems.Pairwise (fun x y => x.1 < y.1) ∧ c.sparse = isSparse thin elems (b.hi - a.lo) ∧
    at' c = (match at' a, at' b with
      | some v, some w => some (fadd v w)
      | some v, none => some v
      | none, some w => some w
      | none, none => if c.sparse = false ∧ a.sparse = true ∧ b.sparse = true ∧ i < elems then some 0 else none))

/-- A bucket's reduction starts on its bench at its START. A module that hosts no node sends its leaf to its parent's host: its gradient where
the bucket is not thinned; else the gradient with the stockpile folded in, the bank of the step's parity taking +0 for what is sent and the
folded value for the rest (R392, R395, R396, R398 to R401, R404, R406). A message that passes its checks is combined with the module's own
value and the node's value goes up; one that fails is recorded with its bucket and sender, and the value is poisoned, as it is by a message that
is late or poisoned, whose content is not judged (R52, R54, R402, R405, R417). -/
def Obligations.BucketsReduce : Prop :=
  ∀ (b : BenchId) (bucket : BitVec 32) (out : List (BitVec 24)) (m : MyBucket) (s : State), s.myBucket bucket.toNat = some m → s.job.inStep = true →
    s.redBench b m = true →
    let e := m.g.elems
    (∀ l, hostedBy m.leaves.length m.leaf = [] → parentLeaf m.leaves.length m.leaf = some l → s.job.seg = m.g.seg →
      let u := s.reach (s.job.segStart + 2 * m.g.start)
      let g := u.loadLong m.p.base (4 * e)
      let gs := lanesOf 32 e (leNat g.1)
      let r := g.2.2.loadLong (if (s.stepNo + 1) % 2 = 0 then m.p.stock0 else m.p.stock1) (4 * e)
      let bank := if s.stepNo % 2 = 0 then m.p.stock0 else m.p.stock1
      let xs := (gs.zip (lanesOf 32 e (leNat r.1))).map fun p => fadd p.1 p.2
      let sel := select xs s.thinNow
      let kept := (xs.zip sel).map fun p => if p.2 then 0 else p.1
      let sent := (xs.zip sel).zipIdx.filterMap fun p => if p.1.2 then some (p.2, p.1.1) else none
      let bad := g.2.1 || r.2.1
      let dense := fun (v : List Nat) => msgHead s.stepNo 0 s.thinNow m.g.bucket e ++ (v.map (leBytes 4)).flatten
      let sparse := msgHead s.stepNo 1 s.thinNow m.g.bucket sent.length ++ sparseBody 0 sent
      (m.g.thinnable = false → ∃ t, exec (.reductionStart b ⟨bucket, out⟩) s = .next t ∧
        Sends g.2.2 t .redMessage (m.leaves.getD l 0) out.head? g.2.1 (dense gs)) ∧
      (m.g.thinnable = true → s.thinNow = 0 →
        ∃ t, exec (.reductionStart b ⟨bucket, out⟩) s = .next t ∧
          Sends (r.2.2.storeLong bank (List.replicate (4 * e) 0) bad) t .redMessage (m.leaves.getD l 0) out.head? bad (dense xs)) ∧
      (m.g.thinnable = true → s.thinNow ≠ 0 →
        ∃ t, exec (.reductionStart b ⟨bucket, out⟩) s = .next t ∧
          Sends (r.2.2.storeLong bank (kept.map (leBytes 4)).flatten bad) t .redMessage (m.leaves.getD l 0) out.head? bad
            (if 2 * (e >>> s.thinNow) < e then sparse else dense ((expand e sent).map Prod.snd)))) ∧
    (∀ (mid hi src : Nat) (inp : MsgIn), s.msgComes inp = true → hostedBy m.leaves.length m.leaf = [(m.leaf, mid, hi)] → m.leaves.getD mid 4096 = src →
      let thin := s.thinOf m
      let sp := isSparse thin e (hi - mid)
      let (msg, late, poison, u) := s.takeMsg inp
      let c := msgCheck msg s.stepNo (if sp then 1 else 0) s.thinNow m.g.bucket (if sp then (hi - mid) * (e >>> thin) else e) e
      let own := (u.bench b).nodes.find? fun v => v.bucket == m.g.bucket && v.lo == m.leaf
      (∀ a l, own = some a → a.hi = mid → late = false → poison = false → c = 0 → sp = false → isSparse thin e (hi - a.lo) = false →
        parentLeaf m.leaves.length m.leaf = some l →
        let v := combine thin e a ⟨m.g.bucket, mid, hi, false, (lanesOf 32 e (leNat (msg.drop 32))).zipIdx.map fun p => (p.2, p.1), false⟩
        ∃ t, exec (.reductionMessage b bucket src ⟨inp, out⟩) s = .next t ∧
          Sends u t .redMessage (m.leaves.getD l 0) out.head? a.poison
            (msgHead s.stepNo 0 s.thinNow m.g.bucket e ++ (v.elems.map fun x => leBytes 4 x.2).flatten)) ∧
      (own = none → ∃ t, exec (.reductionMessage b bucket src ⟨inp, out⟩) s = .next t ∧ t.mem = u.mem ∧
        (∃ v, (t.bench b).nodes.head? = some v ∧ v.bucket = m.g.bucket ∧ v.lo = mid ∧ v.hi = hi ∧
          (v.poison = true ↔ late = true ∨ poison = true ∨ c ≠ 0)) ∧
        (late = false → poison = true ∨ c = 0 → t.out = u.out ∧
          ∀ off, (ctrSpec off 8 0x400 0x440 0x480).isSome = false → off < 2 ^ 17 → t.reg (benchKey b off) = u.reg (benchKey b off)) ∧
        (late = true → (∀ off, (ctrSpec off 8 0x400 0x440 0x480).isSome = false → off < 2 ^ 17 → t.reg (benchKey b off) = u.reg (benchKey b off)) ∧
          t.out = u.out ++ [⟨.deadlineFault, [(s.dieLog b.die).getD 0x3f, (s.benchLog b).getD 0xff, 64, s.job.seg, s.stepNo]⟩]) ∧
        (late = false → poison = false → c ≠ 0 → (u.bench b).redFaulted = false → t.fld (benchKey b 0x230) 3 0 = 8 + c ∧ t.fld (benchKey b 0x230) 55 16 = s.stepNo % 2 ^ 40 ∧
          t.fld (benchKey b 0x238) 31 0 = m.g.bucket % 2 ^ 32 ∧ t.fld (benchKey b 0x238) 43 32 = src % 2 ^ 12)))

/-- A module that hosts no node of the job's tree sends the sums of its benches' records to its parent's host; the global record that comes
from the parent's host is written to the NIN_OFF place of a bench that runs the apply pass. The owner of a bucket sends its weights, and a
receiver writes them unchanged to its parameter places; both go down the bucket's tree, to the host of the right child of each node that the
module hosts, the largest node first (R408 to R411). A message that is late or poisoned is passed on as poisoned and leaves poison where it would
have been written (R54, R409, R411). -/
def Obligations.RecordsAndParametersTravel : Prop :=
  ∀ (s : State), s.job.inStep = true →
    let n := hdrModules s.theTab
    let words := fun (bs : List Byte) => bs.map BitVec.toNat
    (∀ msg out l, s.msgComes msg = true → hostedBy n s.tab.pos = [] → parentLeaf n s.tab.pos = some l →
      ∃ t, exec (.normRecordMessage s.tab.pos false ⟨msg, out⟩) s = .next t ∧
        Sends s.moduleNorm.2.2 t .normMessage l out.head? s.moduleNorm.2.1
          (msgHead s.stepNo 3 s.thinNow 0xffffffff 0 ++ normOfVals s.moduleNorm.1)) ∧
    (∀ (src : Nat) (inp : MsgIn) (out : List (BitVec 24)) (d : BenchId) (off : Nat), s.msgComes inp = true →
      let (msg, late, poison, u) := s.takeMsg inp
      MemInv u → u.poison = [] → u.errs = [] → late = false → poison = false →
      hostedBy n s.tab.pos = [] → parentLeaf n s.tab.pos = some src → msgCheck msg s.stepNo 3 s.thinNow 0xffffffff 0 0 = 0 →
      u.ninPlaces = [(d, off)] → off + normBytes ≤ 2 ^ 20 * s.scratchMiB d →
      ∃ t, exec (.normRecordMessage src true ⟨inp, out⟩) s = .next t ∧ t.cores = u.cores ∧ t.out = u.out ∧
        (∀ i, i < normBytes → memGet t.mem (scratchKey d off + i) = (normOfVals (normVals (msg.drop 32))).getD i 0) ∧
        (∀ k, ¬ (scratchKey d off ≤ k ∧ k < scratchKey d off + normBytes) → memGet t.mem k = memGet u.mem k)) ∧
    (∀ (bucket : BitVec 32) (m : MyBucket) (src : Nat) (inp : MsgIn) (out : List (BitVec 24)), s.msgComes inp = true → s.myBucket bucket.toNat = some m →
      let send := fun (poison : Bool) (body : List Byte) => (hostedBy m.leaves.length m.leaf).reverse.map fun x =>
        (⟨.paramMessage, [m.leaves.getD x.2.1 0, poison.toNat] ++ words (msgHead s.stepNo 2 s.thinNow m.g.bucket m.g.elems ++ body)⟩ : Msg)
      (m.leaf = 0 → src = s.tab.pos → s.appliedAll m = true →
        let w := s.ownerWeights m
        ∃ t, exec (.paramDistribution bucket src ⟨inp, out⟩) s = .next t ∧ t = w.2.2.paramSend m out w.2.1 w.1 ∧
          (out = [] → t.mem = s.mem ∧ t.out = w.2.2.out ++ send w.2.1 w.1)) ∧
      (∀ l, m.leaf ≠ 0 → parentLeaf m.leaves.length m.leaf = some l → m.leaves.getD l 4096 = src →
        let (msg, late, poison, u) := s.takeMsg inp
        (late = false → poison = false → msgCheck msg s.stepNo 2 s.thinNow m.g.bucket m.g.elems m.g.elems = 0 →
          let body := (msg.drop 32).take (2 * m.g.elems)
          let w := u.storeLong m.p.params body false
          ∃ t, exec (.paramDistribution bucket src ⟨inp, out⟩) s = .next t ∧ t = w.paramSend m out false body ∧
            (out = [] → t.mem = w.mem ∧ t.poison = w.poison ∧ t.out = w.out ++ send false body)) ∧
        (late = false → poison = true →
          let body := List.replicate (2 * m.g.elems) (0 : Byte)
          let w := u.storeLong m.p.params body true
          ∃ t, exec (.paramDistribution bucket src ⟨inp, out⟩) s = .next t ∧ t = w.paramSend m out true body ∧
            (out = [] → t.mem = w.mem ∧ t.poison = w.poison ∧ t.out = w.out ++ send true body))))

/-- A hub puts its ports' hashes of the step, once, into the step's digest table, which the last 64 steps keep, and starts them anew. Once all
six hubs have, SHA3-256 over the step and the records stands in both management dies and goes to the manager, which archives each module's. The
manager's comparison gives the finding of the first row that applies, for every pair of hashes that differs (R412 to R416, R419). -/
def Obligations.StepsAreDigested : Prop :=
  hashBytes 2 0 (leBytes 8 1 ++ leBytes 8 2) = 0x3c6ef372fe94f868 ∧
  ∀ s : State,
    (∀ h : Hub, s.job.cur.isSome = true → s.job.digested.contains h.val = false → ∃ t all, exec (.digestRecordsWrite h) s = .next t ∧
      t.mgt.digests.head? = some (s.stepNo, all) ∧ t.mgt.digests.length ≤ 64 ∧ t.job.digested.contains h.val = true ∧
      ∀ p : Fin 8, (t.port ⟨h, p⟩).sentHash = [] ∧ (t.port ⟨h, p⟩).recvHash = [] ∧
        ∀ k w, (k, w) ∈ (s.port ⟨h, p⟩).sentHash ++ (s.port ⟨h, p⟩).recvHash →
          (8 * h.val + p.val, k, nget (s.port ⟨h, p⟩).sentHash k 0, nget (s.port ⟨h, p⟩).recvHash k 0) ∈ all) ∧
    (∀ d, s.mgt.digests.find? (fun d => d.1 == s.stepNo) = some d → s.job.digested.length = 6 →
      (s.mgt.hostDown.contains 0 && s.mgt.hostDown.contains 1) = false →
      let v := leNat (sha3 (leBytes 8 s.stepNo ++ (d.2.map fun r => leBytes 4 r.1 ++ leBytes 4 r.2.1 ++ leBytes 8 r.2.2.1.toNat ++
        leBytes 8 r.2.2.2.toNat).flatten))
      ∃ t, exec .stepDigest s = .next t ∧ t.mem = s.mem ∧ t.out = s.out ++ [⟨.stepDigest, [s.tab.pos, s.stepNo, v]⟩] ∧
        ∀ md : Md, (∀ i, i < 4 → t.reg (mdKey md (0x180 + 8 * i)) = BitVec.ofNat 64 (v >>> (64 * i))) ∧
          t.reg (mdKey md 0x1a0) = BitVec.ofNat 64 (2 ^ 40 + s.stepNo)) ∧
    (∀ (pos : Nat) (n : BitVec 40) (v : BitVec 256), s.isManager = true →
      let t := s.hear (.stepDigest pos n v false)
      t = { s with mgr := { s.mgr with archive := t.mgr.archive } } ∧ (n.toNat, pos, v.toNat) ∈ t.mgr.archive ∧
      ∀ a ∈ s.mgr.archive, n.toNat < a.1 + 64 → (a.1, a.2.1) ≠ (n.toNat, pos) → a ∈ t.mgr.archive) ∧
    (∀ (n : BitVec 40) (pairs : List DigestPair) (first replay : List DigestRun) (d : StepDesc), s.isManager = true → s.mgr.lastSent = some d →
      (64 ≤ d.step.toNat - n.toNat → ∃ t, exec (.digestCompare n pairs first replay) s = .next t ∧
        t.out = s.out ++ [⟨.notComparable, [n.toNat]⟩]) ∧
      (n.toNat ≤ d.step.toNat → d.step.toNat < n.toNat + 64 →
        (pairs.all (fun p => p.sent == p.recv) = false → ∃ t, exec (.digestCompare n pairs first replay) s = .next t ∧
          t.out = s.out ++ (pairs.filter fun p => p.sent != p.recv).map fun p =>
            ⟨.linkPath, [n.toNat, p.sender, p.receiver, p.bucket.toNat]⟩) ∧
        (pairs.all (fun p => p.sent == p.recv) = true → s.mgr.archive = [] → s.mgr.replayArchive = [] →
          (replay.all (fun r => first.all fun f => f.pos != r.pos || f.digest == r.digest) = true →
            ∃ t, exec (.digestCompare n pairs first replay) s = .next t ∧ t.out = s.out ++ [⟨.noModuleMarked, [n.toNat]⟩]) ∧
          (∀ f r a, first = [f] → replay = [r] → f.pos = r.pos → f.digest ≠ r.digest → firstDiff f.recs r.recs = some a →
            ∃ t, exec (.digestCompare n pairs first replay) s = .next t ∧ t.out = s.out ++ [⟨.suspect, [n.toNat, r.pos, a.1, a.2]⟩]))))

/-! Links. -/

/-- A data flit leaves while its VC has credit and the schedule lets it, into the replay buffer, with the next SEQ of its VC and the CRC over its
header and body; a VC without credit sends nothing. A VC 1 flit takes a control slot of the tab, and an outbound entry sends its bytes in order from
where its last flit ended, both at or after START (R421, R423 to R425, R435). A flit with
the expected SEQ is taken and frees its buffer, and an inbound one lands at its place; a duplicate and a flit whose CRC fails are dropped, a
gap asks for a resend, and an uncorrectable codeword, a sequence fault, an overrun and a mismatch are recorded (R424, R426, R437, R447). What the
message of a VC 1 or VC 2 flit says to a manager or a standby is heard with the flit (log 53). -/
def Obligations.FlitsTravel : Prop :=
  ∀ (p : PortId) (s : State), s.lnkState p = lnkUp →
    let x := s.port p
    let sent := fun (vc : Nat) (last : Bool) (xfer fidx : Nat) (bytes : List Byte) =>
      let head := flitHead (nget x.sent vc 0 % 2 ^ 32) vc last xfer fidx bytes.length
      (⟨.dataFlit, [p.key, head + 2 ^ 96 * (crc32 (leBytes 12 head ++ padBody bytes)).toNat] ++ (padBody bytes).map BitVec.toNat⟩ : Msg)
    (∀ (entry : BitVec 24) (vc : BitVec 2) (last : Bool) (body : List Byte), vc = 1 ∨ vc = 2 → body.length ≤ 240 →
      (x.credit vc.toNat = true → x.replay.length < 2048 → x.flits % 64 ≠ 63 → s.mayLeave p vc.toNat = true →
        ∃ t, exec (.flitSend p entry vc last body) s = .next t ∧
        (∀ e, vc = 1 → s.tabRuns = true → s.ctrlSlot p = some e → t.now = max s.now (s.job.segStart + 2 * e.1.start) ∧
          nget (t.port p).ctrlUsed e.2 0 = nget x.ctrlUsed e.2 0 + 1) ∧
        t.mem = s.mem ∧ t.out = s.out ++ [sent vc.toNat last entry.toNat (nget x.outXfer (2 ^ 24 * vc.toNat + entry.toNat) ⟨0, 0, 0, 0⟩).flits body] ∧
        (t.port p).flits = x.flits + 1 ∧ nget (t.port p).sent vc.toNat 0 = nget x.sent vc.toNat 0 + 1 ∧
        (t.port p).replay.length = x.replay.length + 1) ∧
      (x.credit vc.toNat = false ∨ s.mayLeave p vc.toNat = false → exec (.flitSend p entry vc last body) s = .next s)) ∧
    (∀ (entry : BitVec 24) (last : Bool) (body : List Byte) (e : LinkEnt),
      let q := nget x.outXfer entry.toNat ⟨0, 0, 0, 0⟩
      let r := (s.reach (s.job.segStart + 2 * e.start)).loadLong (e.loc + q.bytes) (min 240 (e.bytes - q.bytes))
      s.myLinks[entry.toNat]? = some e → s.job.inStep = true → e.seg = s.job.seg → e.dir = 0 → e.port = p.port.val → e.vc = 0 →
      q.flits < e.flits → q.bytes < e.bytes → s.haulEntry entry.toNat = false → r.2.1 = false →
      x.credit 0 = true → x.replay.length < 2048 → x.flits % 64 ≠ 63 → s.mayLeave p 0 = true →
        ∃ t, exec (.flitSend p entry 0 last body) s = .next t ∧ t.now = max s.now (s.job.segStart + 2 * e.start) ∧ t.mem = s.mem ∧ t.out = r.2.2.out ++ [sent 0 (decide (e.bytes ≤ q.bytes + min 240 (e.bytes - q.bytes))) entry.toNat q.flits r.1] ∧
        (nget (t.port p).outXfer entry.toNat ⟨0, 0, 0, 0⟩).flits = q.flits + 1 ∧
        (nget (t.port p).outXfer entry.toNat ⟨0, 0, 0, 0⟩).bytes = q.bytes + r.1.length) ∧
    (∀ (f : Flit) (rep : Option Report),
      let vc := f.vc.toNat
      let e := nget x.expect vc 0
      let d := (2 ^ 32 + f.seq.toNat - e % 2 ^ 32) % 2 ^ 32
      let good := flitCrc (flitHead f.seq.toNat vc f.last f.xfer.toNat f.fidx.toNat f.valid.toNat) f.body = f.crc
      let fault := fun (t : State) (c : Nat) => (s.port p).faulted = false → t.fld (lnkKey p 0x10) 3 0 = 8 + c ∧ t.fld (lnkKey p 0x10) 55 16 = s.stepNo % 2 ^ 40
      (∃ t, exec (.flitReceive p f ⟨false, rep⟩) s = .next t ∧
        t.fld (lnkKey p 8) 63 32 = min (s.fld (lnkKey p 8) 63 32 + 1) (2 ^ 32 - 1) ∧ t.mem = s.mem ∧ t.ports = s.ports) ∧
      (¬ good → exec (.flitReceive p f ⟨true, rep⟩) s = .next s) ∧
      (good → 1024 ≤ nget x.buffered vc 0 → ∃ t, exec (.flitReceive p f ⟨true, rep⟩) s = .next t ∧ t.mem = s.mem ∧ fault t 3) ∧
      (good → nget x.buffered vc 0 < 1024 →
        (2 ^ 32 - 2 ^ 20 ≤ d → exec (.flitReceive p f ⟨true, rep⟩) s = .next s) ∧
        (0 < d → d < 2 ^ 20 → exec (.flitReceive p f ⟨true, rep⟩) s = .next (s.updPort p fun y => { y with nak := nset y.nak vc (e % 2 ^ 32) })) ∧
        (2 ^ 20 ≤ d → d < 2 ^ 32 - 2 ^ 20 → ∃ t, exec (.flitReceive p f ⟨true, rep⟩) s = .next t ∧ t.mem = s.mem ∧ fault t 2) ∧
        (d = 0 → vc = 2 → ∃ t, exec (.flitReceive p f ⟨true, none⟩) s = .next t ∧ t.mem = s.mem ∧ nget (t.port p).expect 2 0 = (e + 1) % 2 ^ 32 ∧
          nget (t.port p).freed 2 0 = nget x.freed 2 0 + 1) ∧
        (∀ r, d = 0 → vc = 1 ∨ vc = 2 → ∃ t, exec (.flitReceive p f ⟨true, none⟩) s = .next t ∧
          exec (.flitReceive p f ⟨true, some r⟩) s = .next (t.hear r)) ∧
        (d = 0 → vc = 0 → s.job.inStep = true →
          (s.myLinks.zipIdx.find? fun a => a.1.dir != 0 && a.1.port == p.port.val && a.1.vc == 0 && a.1.xfer == f.xfer.toNat) = none →
          ∃ t, exec (.flitReceive p f ⟨true, rep⟩) s = .next t ∧ t.mem = s.mem ∧ fault t 4 ∧ nget (t.port p).freed 0 0 = nget x.freed 0 0 + 1) ∧
        (∀ (a : LinkEnt) (i k : Nat), d = 0 → vc = 0 → s.job.inStep = true → MemInv s → s.poison = [] → s.errs = [] →
          (s.myLinks.zipIdx.find? fun a => a.1.dir != 0 && a.1.port == p.port.val && a.1.vc == 0 && a.1.xfer == f.xfer.toNat) = some (a, i) →
          a.dir = 1 → s.haulEntry i = false → s.job.lateIn.contains i = false → f.fidx.toNat < a.flits → 1 ≤ f.valid.toNat → f.body.length = 240 → f.valid.toNat ≤ 240 →
          240 * f.fidx.toNat + f.valid.toNat ≤ a.bytes → f.last = false → (s.job.seg < a.seg ∨ (a.seg = s.job.seg ∧ s.now < s.job.segStart + 2 * a.deadline)) →
          let dst := a.loc + 240 * f.fidx.toNat
          (∀ j, j < 320 → s.keyOf (dst / 64 * 64 + j) = some (k + j) ∧ coreOfKey (k + j) = none ∧ s.retireTwin (k + j) = none) →
          ∃ t, exec (.flitReceive p f ⟨true, rep⟩) s = .next t ∧ t.poison = [] ∧
            (∀ j, j < f.valid.toNat → memGet t.mem (k + dst % 64 + j) = f.body.getD j 0) ∧
            (∀ z, ¬ (k + dst % 64 ≤ z ∧ z < k + dst % 64 + f.valid.toNat) → memGet t.mem z = memGet s.mem z))))

/-- Every 64th flit is a control flit with the counts of its port, the term and the heartbeat count; a port with nothing to send sends idle
flits. A control flit that arrives gives the credit, releases
what it acknowledges, has a flit resent once and no more, and gives the higher term, before which held descriptors fall (R421, R422, R424, R425, R427,
R442, R443, R447). The manager sends its heartbeat; the standby that hears none for 1 ms takes the next term, moves
the failed manager's job position to a system spare and restarts the job from the last commit; 40 µs without the parent is a timebase fault. The standby
keeps the manager's copies of the role table, the digests and the committed epoch (R439, R443, R446, R477); their form in a message is the
model's choice (log 53). -/
def Obligations.ControlTraffic : Prop :=
  ∀ s : State,
    (∀ p : PortId, s.lnkState p = lnkUp → (s.port p).flits % 64 = 63 → (s.port p).onward = [] →
      let x := s.port p
      let four := fun (m : NMap Nat) => ((List.range 4).map fun v => leBytes 4 (nget m v 0 % 2 ^ 32)).flatten
      ∃ t, exec (.controlFlitSend p) s = .next t ∧ t.mem = s.mem ∧ (t.port p).flits = x.flits + 1 ∧
        t.out = s.out ++ [⟨.controlFlit, p.key :: bareFlit 2 (four x.freed ++ four x.expect ++
          leBytes 4 ((x.nak.head?.map Prod.snd).getD 0) ++ leBytes 4 ((x.nak.head?.map fun n => 2 ^ n.1).getD 0) ++
          (s.exchange p).flatMap (leBytes 8) ++ leBytes 4 (s.fld (mgtKey 0x1c0) 63 32) ++ leBytes 4 (s.mgr.heartbeats % 2 ^ 32))⟩]) ∧
    (∀ p : PortId, s.lnkState p = lnkUp → (s.port p).flits % 64 ≠ 63 → (s.port p).onward = [] → ∃ t, exec (.controlFlitSend p) s = .next t ∧
      t.mem = s.mem ∧ (t.port p).flits = (s.port p).flits + 1 ∧ (t.port p).sent = (s.port p).sent ∧
      t.out = s.out ++ [⟨.idleFlit, p.key :: bareFlit 0 []⟩]) ∧
    (∀ (p : PortId) (f : CtrlFlit), s.lnkState p = lnkUp →
      (∃ t, exec (.controlFlitReceive p f false) s = .next t ∧ SameButCounters s t) ∧
      (f.nak = 0 → f.ts.any (fun t => t == 0#64) = true → (s.port p).onward = [] → ∃ t, exec (.controlFlitReceive p f true) s = .next t ∧ t.mem = s.mem ∧
        (t.port p).credSeen = ((List.range 4).map fun v => (v, (f.cred.getD v 0).toNat)) ∧
        (t.port p).replay = ((s.port p).replay.filter fun g => !decide ((2 ^ 32 + (f.ack.getD g.vc.toNat 0).toNat - g.seq.toNat - 1) % 2 ^ 32 < 2 ^ 31)) ∧
        t.fld (mgtKey 0x1c0) 63 32 = max (s.fld (mgtKey 0x1c0) 63 32) f.term.toNat ∧
        (s.fld (mgtKey 0x1c0) 63 32 < f.term.toNat → t.job.next = none ∧ t.job.last = none ∧ (s.job.inStep = false → t.job.cur = none))) ∧
      (∀ v : Fin 4, f.nak = 1#4 <<< v.val → f.ts.any (fun t => t == 0#64) = true → (s.port p).onward = [] → (s.port p).replay = [] →
        (s.port p).resent = [] → f.term = 0 → ∃ t, exec (.controlFlitReceive p f true) s = .next t ∧ (t.port p).resent = [] ∧ t.out = s.out ∧
          t.fld (lnkKey p 8) 31 0 = min (s.fld (lnkKey p 8) 31 0 + 1) (2 ^ 32 - 1))) ∧
    (∀ (p : PortId) (v seq : Nat), (s.port p).resent.contains (v, seq) = false → (s.port p).flits % 64 + (s.port p).replay.length < 64 →
      let again := (s.port p).replay.filter fun f => f.vc.toNat == v && (2 ^ 32 + f.seq.toNat - seq) % 2 ^ 32 < 2 ^ 31
      (s.resend p v seq).out = s.out ++ (again.map fun f => ⟨.dataFlit, [p.key, flitHead f.seq.toNat f.vc.toNat f.last f.xfer.toNat f.fidx.toNat f.valid.toNat +
        2 ^ 96 * f.crc.toNat] ++ f.body.map BitVec.toNat⟩) ∧
      ((s.resend p v seq).port p).resent = (s.port p).resent ++ again.map fun f => (v, f.seq.toNat)) ∧
    (∀ (p : PortId) (v seq : Nat), (s.port p).resent.contains (v, seq) = true → (s.port p).faulted = false → (s.port p).retryFails = 0 →
      (s.resend p v seq).fld (lnkKey p 0x10) 3 0 = 9 ∧ (s.resend p v seq).out = s.out ∧ (s.resend p v seq).lnkState p = s.lnkState p) ∧
    (s.isManager = true → ∃ t, exec .heartbeatSend s = .next t ∧ t.now = max s.now s.mgr.hbNext ∧ t.mgr.hbNext = t.now + 400000 ∧ t.mgr.heartbeats = s.mgr.heartbeats + 1 ∧
      t.out = s.out ++ [⟨.heartbeat, [s.fld (mgtKey 0x1c0) 63 32, s.mgr.heartbeats + 1]⟩]) ∧
    (s.role = roleStandby → s.fld (mgtKey 0x1c0) 63 32 < 2 ^ 32 - 1 → ∃ t, exec .managerTakeover s = .next t ∧ t.now = max s.now (4000000 + s.mgt.lastHb) ∧
      t.role = roleManager ∧ t.isManager = true ∧ t.fld (mgtKey 0x1c0) 63 32 = s.fld (mgtKey 0x1c0) 63 32 + 1 ∧ t.job.next = none ∧
      t.out = s.out ++ [⟨.newTerm, [s.fld (mgtKey 0x1c0) 63 32 + 1]⟩] ++
        (match s.mgr.roles.find? fun r => r.2 == s.managerModule, s.mgr.spares with
          | some r, sp :: _ => [⟨.movePosition, [r.1, s.managerModule, sp.1, sp.2]⟩]
          | some r, [] => [⟨.movePosition, [r.1, s.managerModule]⟩]
          | none, _ => []) ++ [⟨.restartJob, [s.mgr.committed.getD 0]⟩]) ∧
    (∀ h, s.mgt.tbHold = some h → s.fld (mgtKey 0x1c8) 1 0 = 3 → exec .timebaseHoldTimeout s = .next (s.reach (160000 + h))) ∧
    (∀ h, s.mgt.tbHold = some h → s.fld (mgtKey 0x1c8) 1 0 ≠ 3 → ∃ t, exec .timebaseHoldTimeout s = .next t ∧ t.now = max s.now (160000 + h) ∧ t.fld (mgtKey 0x1c8) 1 0 = 3 ∧
      t.fld (mgtKey 0x1e0) 4 4 = 1 ∧ t.out = s.out ++ [⟨.beyondModule, [s.tab.pos, 40, 0xf0]⟩, ⟨.timebaseFault, [s.tab.pos]⟩]) ∧
    (∀ roles ds,
      let t := s.hear (.standbyCopy roles ds)
      (s.role ≠ roleStandby → t = s) ∧
      (s.role = roleStandby → t = { s with mgr := { s.mgr with roles := roles, archive := t.mgr.archive } } ∧
        (∀ d ∈ ds, (d.1.toNat, d.2.1, d.2.2.toNat) ∈ t.mgr.archive) ∧
        ∀ a ∈ s.mgr.archive, (∀ d ∈ ds, (a.1, a.2.1) ≠ (d.1.toNat, d.2.1) ∧ d.1.toNat < a.1 + 64) → a ∈ t.mgr.archive)) ∧
    (∀ n, s.hear (.commitIdentity n) = if s.role = roleStandby then { s with mgr := { s.mgr with committed := some n.toNat } } else s)

/-- A port trains from DOWN when training is permitted, from FENCED at a request; its lanes lock within 50 ms, and it sends its identity, or it is
DOWN with a lane-lost fault; the neighbour that R430 predicts makes it UP with its counts at 0, another leaves it DOWN with an identity fault. The first lost lane
waits for the segment boundary, where the spare takes its place and service is asked for; a further one fences the port. The manager stops a
job whose transfers a fenced port carries and asks both ends to retrain; a port that is UP within 1 s restarts the job from the last commit, and
one that is not moves the module whose end did not lock (R31, R430, R432 to R434, R447, R476, R477). -/
def Obligations.PortsAndLanes : Prop :=
  ∀ (p : PortId) (s : State),
    let fault := fun (t : State) (c : Nat) => (s.port p).faulted = false → t.fld (lnkKey p 0x10) 3 0 = 8 + c ∧ t.fld (lnkKey p 0x10) 55 16 = s.stepNo % 2 ^ 40
    (∀ request : Bool, s.mayTrain p = true → s.lnkState p = lnkDown ∨ (s.lnkState p = lnkFenced ∧ request = true) →
      ∃ t, exec (.portTrainingStart p request) s = .next t ∧ t.lnkState p = lnkTraining ∧ (t.port p).trainSince = s.now ∧ t.mem = s.mem) ∧
    (s.lnkState p = lnkTraining →
      (s.now ≤ (s.port p).trainSince + trainLimit → ∃ t, exec (.portLanesLocked p) s = .next t ∧ t.lnkState p = lnkCheck ∧ t.ports = s.ports ∧
        t.out = s.out ++ [⟨.identity, [p.key, s.myModule, p.hub.val, p.port.val]⟩]) ∧
      (∃ t, exec (.portTrainingTimeout p) s = .next t ∧ t.lnkState p = lnkDown ∧ t.now = max s.now ((s.port p).trainSince + trainLimit) ∧ fault t 5)) ∧
    (∀ (mod : BitVec 12) (hub : Hub) (port : Fin 8), s.lnkState p = lnkCheck →
      (mod.toNat = s.neighbour s.myModule p.hub ∧ hub.val = (p.hub.val + 3) % 6 ∧ port = p.port → ∃ t, exec (.portIdentityResult p mod hub port) s = .next t ∧
        t.lnkState p = lnkUp ∧ t.fld (lnkKey p 0) 19 8 = mod.toNat ∧ (t.port p).flits = 0 ∧ (t.port p).sent = [] ∧ (t.port p).expect = [] ∧
        (t.port p).credSeen = [] ∧ (t.port p).freed = []) ∧
      (¬ (mod.toNat = s.neighbour s.myModule p.hub ∧ hub.val = (p.hub.val + 3) % 6 ∧ port = p.port) → ∃ t, exec (.portIdentityResult p mod hub port) s = .next t ∧
        t.lnkState p = lnkDown ∧ t.fld (lnkKey p 0) 19 8 = mod.toNat ∧ fault t 6)) ∧
    (∀ lane : Fin 8, s.lnkState p = lnkUp →
      (s.fld (lnkKey p 0) 3 3 = 0 → (s.port p).sparePending = none → ∃ t, exec (.laneLost p lane) s = .next t ∧
        (t.port p).sparePending = some lane.val ∧ t.lnkState p = lnkUp ∧ t.out = s.out) ∧
      (s.fld (lnkKey p 0) 3 3 = 1 ∨ (s.port p).sparePending.isSome = true → ∃ t, exec (.laneLost p lane) s = .next t ∧ t.lnkState p = lnkFenced ∧ fault t 5 ∧
        (t.port p).replay = [] ∧ (s.tabState = tabRunning → t.out = s.out ++ [⟨.portFence, [s.tab.pos, p.key, s.fld (lnkKey p 0) 19 8]⟩]))) ∧
    (∀ l : Nat, l < 8 → (s.port p).sparePending = some l → s.job.inStep = false ∨ (s.port p).spareDue = true → ∃ t, exec (.spareLaneSwitch p) s = .next t ∧ t.fld (lnkKey p 0) 3 3 = 1 ∧
      t.fld (lnkKey p 0) 6 4 = l ∧ (t.port p).sparePending = none ∧ t.pins.svcReq = true ∧ t.fld (mgtKey 0x1e0) 2 2 = 1) ∧
    (∀ (u : UnitRef) (neighbour : BitVec 12), s.isManager = true →
      (exec (.portFenceFault u p false neighbour) s = .next s) ∧
      (∃ t, exec (.portFenceFault u p true neighbour) s = .next t ∧ t.job.abandon = true ∧ (s.tabState = tabRunning → t.tabState = tabStopping) ∧
        t.out = s.out ++ [⟨.stopJob, [434]⟩, ⟨.retrainPort, [u.pos, p.key]⟩, ⟨.retrainPort, [neighbour.toNat, ((p.hub.val + 3) % 6) * 8 + p.port.val]⟩])) ∧
    (∀ (a b : BitVec 12) (aOk bOk : Bool) (r : Nat × Nat) (sp : Nat × Nat) (rest : List (Nat × Nat)), s.isManager = true → (aOk || bOk) = true →
      let lost := if aOk && bOk then max a.toNat b.toNat else if aOk then b.toNat else a.toNat
      s.mgr.roles.find? (fun r => r.2 == lost) = some r → s.mgr.spares = sp :: rest → ∃ t, exec (.portRetrainTimeout a b aOk bOk) s = .next t ∧
        t.mgr.spares = rest ∧ t.mgr.roles = (s.mgr.roles.map fun x => if x.1 == r.1 then (x.1, sp.1) else x) ∧ t.fld (mgtKey 0x1e0) 4 4 = 1 ∧
        t.out = s.out ++ [⟨.beyondModule, [s.tab.pos, 0x3f, 0xff]⟩, ⟨.movePosition, [r.1, lost, sp.1, sp.2]⟩, ⟨.restartJob, []⟩]) ∧
    (∀ (a b : BitVec 12) (ra rb sa sb : Nat × Nat) (rest : List (Nat × Nat)), s.isManager = true →
      s.mgr.roles.find? (fun r => r.2 == a.toNat) = some ra → s.mgr.roles.find? (fun r => r.2 == b.toNat) = some rb → ra.1 ≠ rb.1 →
      s.mgr.spares = sa :: sb :: rest → sa.1 ≠ b.toNat → ∃ t, exec (.portRetrainTimeout a b false false) s = .next t ∧ t.mgr.spares = rest ∧
        t.out = s.out ++ [⟨.beyondModule, [s.tab.pos, 0x3f, 0xff]⟩, ⟨.movePosition, [ra.1, a.toNat, sa.1, sa.2]⟩,
          ⟨.movePosition, [rb.1, b.toNat, sb.1, sb.2]⟩, ⟨.restartJob, []⟩]) ∧
    (∀ die : Fin 64, die.val < 28 ∨ (32 ≤ die.val ∧ die.val < 38) ∨ die.val = 40 ∨ die.val = 41 → s.flash.log.length < 262144 →
      ∃ t, exec (.ucieLinkFault die) s = .next t ∧ t.mem = s.mem ∧ t.ports = s.ports ∧ t.out = s.out ∧
        ∃ r, t.mgt.ring.getLast? = some r ∧ r.md = 0 ∧ r.severity = 2 ∧ r.step = s.stepNo ∧ r.loc = 0xf0 * 2 ^ 7 + 2 ^ 15 * die.val) ∧
    (∀ (pos : Nat) (k : Fin 48), s.hear (.portUp pos k) =
      if s.isManager = true ∧ (∃ r ∈ s.mgr.retrains, r.1 = pos ∧ r.2.1 = k.val ∧ s.now ≤ r.2.2 + 4000000000) then
        { s with mgr := { s.mgr with retrains := [] }, out := s.out ++ [⟨.restartJob, [s.mgr.committed.getD 0]⟩] }
      else s)

/-! The CSR window. -/

/-- A host's write of 1 to PENDING clears the fault record and what its rule clears with it (a report address, FENTRY); a write of 0 there
changes nothing. PENDING and TRIPPED of the thermal status clear one by one; COUNT of the access errors stays (R119, R175, R237, R303, R339,
R346, R387, R418, R447, R480, R506, R508, R530, R585). A record that is due is entered before the clear; one that hardware made in the fabric
cycle of the write stands (R14). Nothing else changes. -/
def Obligations.FaultRecordsClear : Prop :=
  ∀ (m : Md) (v : Word64) (s : State),
    let o := Origin.host m
    let clears := fun (i : Instr) (u : State) (bit : Nat) (f : State → State) => Yields i s (if v.getLsbD bit then f u else u)
    (∀ c, BenchThere s c.benchId →
      clears (.coreFaultClear o c v) s 3 (fun u => u.setReg (coreKey c 0x08) 0) ∧
      clears (.coreDescStatusClear o c v) s 3 (fun u => (u.setReg (coreKey c 0x38) 0).setReg (coreKey c 0x40) 0) ∧
      ((s.freshBits (coreKey c 0x08)).getLsbD 3 = true → Yields (.coreFaultClear (.same o) c v) s s) ∧
      ((s.freshBits (coreKey c 0x08)).getLsbD 3 = false →
        clears (.coreFaultClear (.same o) c v) s 3 (fun u => u.setReg (coreKey c 0x08) 0))) ∧
    (∀ b, BenchThere s b →
      clears (.benchArrayFaultClear o b v) (s.newCycle.settle b s.now) 3 (fun u => u.setReg (benchKey b 0x208) 0) ∧
      clears (.benchRingFaultClear o b v) (s.newCycle.settle b s.now) 3 (fun u => u.setReg (benchKey b 0x218) 0) ∧
      clears (.benchRedFaultClear o b v) s 3 (fun u => (u.setReg (benchKey b 0x230) 0).setReg (benchKey b 0x238) 0) ∧
      clears (.pwrBenchFaultClear o b v) s 3 (fun u => u.setReg (benchKey b 0x250) 0) ∧
      clears (.drsFaultClear o b v) s 3 (fun u => (u.setReg (benchKey b 0x338) 0).setReg (benchKey b 0x330)
        (u.reg (benchKey b 0x330) &&& 0xffff0000ffffffff#64)) ∧
      clears (.eccAddrClear o (.inl b) v) s 53 (fun u => u.setReg (benchKey b 0x268) 0)) ∧
    (∀ h, clears (.hubCopyStatusClear o h v) s 3 (fun u => (u.setReg (hubKey h 0x400) 0).setReg (hubKey h 0x408) 0) ∧
      clears (.hubDramFaultClear o h v) s 2 (fun u => u.setReg (hubKey h 0x438) 0) ∧
      clears (.haulFaultClear o h v) s 3 (fun u => u.setReg (hubKey h 0x528) 0) ∧
      clears (.eccAddrClear o (.inr h) v) s 53 (fun u => u.setReg (hubKey h 0x608) 0)) ∧
    (∀ p, clears (.lnkFaultClear o p v) s 3 (fun u => u.setReg (lnkKey p 0x10) 0)) ∧
    (∃ t, exec (.pwrThermClear o v) s = .next t ∧ t = { s with csr := t.csr, cycle := t.cycle } ∧
      (∀ k, storeKey k ≠ mgtKey 0x208 → t.reg k = s.reg k) ∧ ∀ i, i < 64 → (t.reg (mgtKey 0x208)).getLsbD i = ((s.reg (mgtKey 0x208)).getLsbD i &&
        !(v.getLsbD 19 && decide (16 ≤ i ∧ i ≤ 19)) && !(v.getLsbD 21 && i == 21))) ∧
    (∀ d, clears (.mgtAccessErrClear o d v) s 3 (fun u =>
      (u.setReg (mdKey d 0x428) (u.reg (mdKey d 0x428) &&& 0xfffffffffffffff0#64)).setReg (mdKey d 0x430) 0))

/-- A host's single-mode write sets each bit of the register as its field type says: RW takes the written bit, W1C clears on 1, W1S sets on 1,
RO keeps; an offset not listed discards the write without an error (R12, R13, R591). In one fabric cycle a bit that hardware set stands against a
1, and MD1's write stands against MD0's (R14, R583). A read gives the readable bits of the register's value, 0 at an offset not listed, and changes
nothing; one of a register held in three copies gives, in the cycle of a write, the value from before it (R13, R518, R591). An aligned access to
storage writes or reads 8 bytes (R292). EVSEL takes its fields and keeps WRAP unless a 1 clears it, EVCNT is set by a
write, and an enabled counter that adds n counts on in 64 bits and sets WRAP when COUNT passes its top; a disabled one counts nothing
(R587, R588). -/
def Obligations.RegistersReadAndWrite : Prop :=
  ∀ (m : Md) (v : Word64) (s : State),
    let o := Origin.host m
    (∀ d sp off, off < 0x20000 → off % 8 = 0 → regSpec .compute off = some sp → off ≠ 0x198 → s.dieFenced d = false →
      Yields (.csrWrite o (csrAt (dieKey d off)) v) s (s.setReg (dieKey d off) (typedWrite sp (s.reg (dieKey d off)) v)) ∧
      let old := s.reg (dieKey d off)
      let new := typedWrite sp old (v &&& ~~~(s.freshBits (dieKey d off) &&& BitVec.ofNat 64 sp.w1c))
      Yields (.csrWrite (.same o) (csrAt (dieKey d off)) v) s (s.setReg (dieKey d off)
        (if m = 0 ∧ s.cycle.writes.contains (dieKey d off) = true then (new &&& ~~~BitVec.ofNat 64 sp.rw) ||| (old &&& BitVec.ofNat 64 sp.rw) else new)) ∧
      (m = 1 → ∃ t, exec (.csrWrite (.same o) (csrAt (dieKey d off)) v) s = .next t ∧ t.cycle.writes.contains (dieKey d off) = true)) ∧
    (∀ b sp off, off < 0x20000 → off % 8 = 0 → regSpec .bench off = some sp → BenchThere s b →
      off ∉ [0x208, 0x218, 0x230, 0x250, 0x268, 0x278, 0x280, 0x288, 0x310, 0x328, 0x338] →
      Yields (.csrWrite o (csrAt (benchKey b off)) v) s (s.setReg (benchKey b off) (typedWrite sp (s.reg (benchKey b off)) v))) ∧
    (∀ (sp : RegSpec) (old : Word64) i, i < 64 → (typedWrite sp old v).getLsbD i =
      if sp.w1s.testBit i && v.getLsbD i then true else if sp.w1c.testBit i && v.getLsbD i then false
      else if sp.rw.testBit i then v.getLsbD i else old.getLsbD i) ∧
    (∀ h off, off < 0x20000 → off % 8 = 0 → regSpec .hub off = none → Yields (.csrWrite o (csrAt (hubKey h off)) v) s s ∧
      Yields (.csrRead o (csrAt (hubKey h off))) s (s.say .csrValue [m, keyAddr (hubKey h off), 0])) ∧
    (∀ h sp off, off < 0x20000 → off % 8 = 0 → regSpec .hub off = some sp → off ≠ 0x410 → Yields (.csrRead o (csrAt (hubKey h off))) s
      (s.say .csrValue [m, keyAddr (hubKey h off), (s.reg (hubKey h off) &&& BitVec.ofNat 64 sp.rd).toNat])) ∧
    (∀ d : Die, s.dieFenced d = false → Yields (.csrRead (.same o) (csrAt (dieKey d 0x100))) s
      (s.say .csrValue [m, keyAddr (dieKey d 0x100), (s.regWas (dieKey d 0x100)).toNat])) ∧
    (∀ (a : Addr) k, a.toNat % 8 = 0 → placeOf a.toNat ≠ .csr → placeOf a.toNat ≠ .none → s.keyOf a.toNat = some k →
      let w := s.store k (leBytes 8 v.toNat) false
      exec (.csrWrite o a v) s = .next (if w.1 then w.2.poisonAt a.toNat 8 else w.2) ∧
      ∃ t, exec (.csrRead o a) s = .next t ∧ t.mem = (s.load k 8).2.2.mem ∧
        t.out = (s.load k 8).2.2.out ++ [⟨.csrValue, [m, a.toNat, leNat (s.load k 8).1, ((s.load k 8).2.1 || s.keyBad k 8).toNat]⟩]) ∧
    (∀ c, BenchThere s c.benchId → Yields (.csrRead o (csrAt (coreKey c 0))) s
      (s.say .csrValue [m, keyAddr (coreKey c 0), (BitVec.ofNat 64 (s.coreStatus c) &&& 0xffff0003ffff#64).toNat])) ∧
    (∀ sel cnt, CounterAt s sel cnt →
      Yields (.evselWrite o (csrAt sel) v) s (s.setReg sel (((s.reg sel &&& 0xfffffffffffe0000#64) ||| (v &&& 0x1ffff#64)) &&&
        (if v.getLsbD 32 then 0xfffffffeffffffff#64 else 0xffffffffffffffff#64))) ∧
      Yields (.evcntWrite o (csrAt cnt) v) s (s.setReg cnt v) ∧
      ∀ n : BitVec 24, ((s.reg sel).getLsbD 8 = false → exec (.counterWrap (csrAt cnt) n) s = .next s) ∧
        ((s.reg sel).getLsbD 8 = true → ∃ t, exec (.counterWrap (csrAt cnt) n) s = .next t ∧ SameButCounters s t ∧
          t.reg cnt = s.reg cnt + n.setWidth 64 ∧ (∀ k, storeKey k ≠ storeKey cnt → storeKey k ≠ storeKey sel → t.reg k = s.reg k) ∧
          t.reg sel = if 2 ^ 48 ≤ bitsOf (s.reg cnt).toNat 47 0 + n.toNat then s.reg sel ||| 0x100000000#64 else s.reg sel))

/-- A strum or chord write of DRS_SCHED_SRC reaches every bench that its address selects, of every stack not fenced, each by the register's
field types, and no other register; it waits for its completion, which the requester gets in issue order, with one access error of cause 5
when instances discarded it (R8, R581, R582, R584). An access error discards the write or reads 0, counts, and is recorded when it is the
first: cause 1 an offset no multiple of 8, 2 the reserved mode, 3 a unit that is absent, 4 a read in a broadcast mode (R9 to R11, R585). -/
def Obligations.BroadcastWrites : Prop :=
  ∀ (m : Md) (v : Word64) (s : State),
    let o := Origin.host m
    let lands := fun (i : Instr) (a : Addr) (named : BenchId → Prop) => ∃ t, exec i s = .next t ∧
      t = { s with csr := t.csr, cycle := t.cycle, mgt := { s.mgt with broadcasts := s.mgt.broadcasts ++ [(o, a.toNat, 0)] } } ∧
      (∀ b, named b → BenchThere s b → t.reg (benchKey b 0x320) =
        (s.reg (benchKey b 0x320) &&& 0xffff000000000000#64) ||| (v &&& 0xffffffffffff#64)) ∧
      ∀ k, (∀ b, named b → BenchThere s b → storeKey k ≠ benchKey b 0x320) → t.reg k = s.reg k
    (∀ d f, d < 28 ∨ d = 0x3f → f < 180 ∨ f = 0xff →
      let a := BitVec.ofNat 48 (0xff8000000000 + regKey d f 64 0x320)
      lands (.strumWrite o a v) a fun b => (d = 0x3f ∨ d = b.die.val) ∧ (f = 0xff ∨ f = b.bench.val)) ∧
    (∀ d g, (∃ x : Die, d = x.val ∧ s.dieFenced x = false) ∨ d = 0x3f → g < 256 →
      let a := BitVec.ofNat 48 (0xff4000000000 + regKey d g 64 0x320)
      lands (.chordWrite o a v) a fun b => (d = 0x3f ∨ d = b.die.val) ∧
        ∃ k, k < 4 ∧ (s.reg (benchKey b 0x288)).getLsbD (32 + k) = true ∧ bitsOf (s.reg (benchKey b 0x288)).toNat (8 * k + 7) (8 * k) = g) ∧
    (∀ a n rest, s.mgt.broadcasts = (o, a, n) :: rest → ∃ t, exec .broadcastWriteComplete s = .next t ∧ t.mgt.broadcasts = rest ∧
      t.out = s.out ++ [⟨.completion, [m, a, n]⟩] ∧ t.mem = s.mem ∧ t.cores = s.cores ∧ (n = 0 → t.csr = s.csr ∧ t.ctr = s.ctr) ∧
      (n ≠ 0 → t.fld (mdKey m 0x428) 63 32 = min (s.fld (mdKey m 0x428) 63 32 + 1) (2 ^ 32 - 1) ∧
        (s.fld (mdKey m 0x428) 3 3 = 0 → t.fld (mdKey m 0x428) 3 0 = 13 ∧ t.reg (mdKey m 0x430) = BitVec.ofNat 64 (a % 2 ^ 48)))) ∧
    (∀ (a : Addr) (rd : Bool) (cause : Nat),
      (a.toNat % 8 ≠ 0 ∧ cause = 1) ∨
      (a.toNat % 8 = 0 ∧ a.toNat / 2 ^ 40 = 0xff ∧
        ((addrMode a.toNat = 3 ∧ cause = 2) ∨ (addrMode a.toNat = 0 ∧ s.unitAbsent (a.toNat % 2 ^ 38) = true ∧ cause = 3) ∨
          ((addrMode a.toNat = 1 ∨ addrMode a.toNat = 2) ∧ s.broadcastOk a.toNat = false ∧ cause = 3) ∨
          ((addrMode a.toNat = 1 ∨ addrMode a.toNat = 2) ∧ s.broadcastOk a.toNat = true ∧ rd = true ∧ cause = 4))) →
      ∃ t, exec (if rd then .csrRead o a else .csrWrite o a v) s = .next t ∧ t = { s with csr := t.csr, ctr := t.ctr, out := t.out, cycle := t.cycle } ∧
        t.out = (if rd then s.out ++ [⟨.csrValue, [m, a.toNat, 0]⟩] else s.out) ∧
        t.fld (mdKey m 0x428) 63 32 = min (s.fld (mdKey m 0x428) 63 32 + 1) (2 ^ 32 - 1) ∧
        (s.fld (mdKey m 0x428) 3 3 = 0 → t.fld (mdKey m 0x428) 3 0 = 8 + cause ∧
          t.reg (mdKey m 0x430) = BitVec.ofNat 64 ((if rd then 2 ^ 48 + a.toNat else a.toNat))) ∧
        (s.fld (mdKey m 0x428) 3 3 = 1 → t.reg (mdKey m 0x430) = s.reg (mdKey m 0x430)) ∧
        ∀ k, isCtr k = false → storeKey k ≠ mdKey m 0x428 → storeKey k ≠ mdKey m 0x430 → t.reg k = s.reg k)

/-- Registers with rules of their own. A program or seed word goes to the bank that is not active; the active bank is refused, with LAST,
ERR and the count (R247, R250, R251). BENCH_CHORD takes a write while STATE is EMPTY or LOADED, else the write is discarded with an access
error of cause 5 (R584, R585). CLR sets PEAK to the tags in use (R340). A watchdog TIMEOUT of 10 or more is taken and KICK restarts the
count (R563, R564). MGT_SENSOR_SEL takes its fields (R567). A flip register takes a write and a 1 to ARM arms it, but not while it is armed,
nor, when the write arms or changes the mask, while a tab runs (R528). -/
def Obligations.OwnRuleWrites : Prop :=
  ∀ (m : Md) (v : Word64) (s : State),
    let o := Origin.host m
    let refused := fun (i : Instr) (k : Nat) => ∃ t, exec i s = .next t ∧ t = { s with csr := t.csr, ctr := t.ctr, cycle := t.cycle } ∧
      (∀ j, isCtr j = false → storeKey j ≠ mdKey m 0x428 → storeKey j ≠ mdKey m 0x430 → t.reg j = s.reg j) ∧
      (s.fld (mdKey m 0x428) 3 3 = 0 → t.fld (mdKey m 0x428) 3 0 = 13 ∧ t.reg (mdKey m 0x430) = BitVec.ofNat 64 (keyAddr k))
    (∀ c, BenchThere s c.benchId →
      let store := bitsOf v.toNat 41 40
      let bank := bitsOf v.toNat 42 42
      let st := coreKey c 0x28
      store ≤ 1 → (bank ≠ bitsOf (s.fld (benchKey c.benchId 0x220) 1 0) store store → (s.core c).sfs = none →
        ∃ t, exec (.coreSfsLoadWrite o c v) s = .next t ∧ t.fld st 1 0 = 1 ∧ t.mem = s.mem ∧ (∀ d, d ≠ c → t.core d = s.core d) ∧
          (t.core c).sfsWords = nset (s.core c).sfsWords (512 * store + 256 * bank + bitsOf v.toNat 39 32) (v.setWidth 32)) ∧
        (bank = bitsOf (s.fld (benchKey c.benchId 0x220) 1 0) store store → ∃ t, exec (.coreSfsLoadWrite o c v) s = .next t ∧
          t.cores = s.cores ∧ t.mem = s.mem ∧ t.fld st 2 0 = 6 ∧ t.fld st 31 16 = min (s.fld st 31 16 + 1) 0xffff)) ∧
    (∀ b, BenchThere s b →
      (s.tabState = tabEmpty ∨ s.tabState = tabLoaded → Yields (.benchChordWrite o b v) s (s.setReg (benchKey b 0x288) (v &&& 0xfffffffff#64))) ∧
      (s.tabState ≠ tabEmpty ∧ s.tabState ≠ tabLoaded → refused (.benchChordWrite o b v) (benchKey b 0x288))) ∧
    (∀ h, (s.hub h).tags.length < 2 ^ 13 → ∃ t, exec (.hubCopyTagsClr o h v) s = .next t ∧ t = { s with csr := t.csr, cycle := t.cycle } ∧
      t.fld (hubKey h 0x410) 28 16 = (if v.getLsbD 32 then (s.hub h).tags.length else s.fld (hubKey h 0x410) 28 16) ∧
      ∀ k, storeKey k ≠ hubKey h 0x410 → t.reg k = s.reg k) ∧
    (∀ d : Md, let kicked := if v.getLsbD 16 then nset s.mgt.wdogKicked d s.now else s.mgt.wdogKicked
      (10 ≤ v.toNat % 2 ^ 16 → ∃ t, exec (.wdogKick o d v) s = .next t ∧ t.fld (mdKey d 0x400) 15 0 = v.toNat % 2 ^ 16 ∧
        t = { s with csr := t.csr, cycle := t.cycle, mgt := { s.mgt with wdogKicked := kicked } }) ∧
      (v.toNat % 2 ^ 16 < 10 → refused (.wdogKick o d v) (mdKey d 0x400)) ∧
      Yields (.sensorSelect o d v) s (s.setReg (mdKey d 0x410) ((s.reg (mdKey d 0x410) &&& 0xffffffffffff0000#64) ||| (v &&& 0xffff#64)))) ∧
    (∀ b, BenchThere s b →
      (s.fld (benchKey b 0x280) 10 10 = 0 → s.tabState ≠ tabRunning →
        Yields (.flipArm o (csrAt (benchKey b 0x278)) v) s (s.setReg (benchKey b 0x278) v) ∧
        ∃ t, exec (.flipArm o (csrAt (benchKey b 0x280)) v) s = .next t ∧ t = { s.setReg (benchKey b 0x280)
          ((s.reg (benchKey b 0x280) &&& 0xfffffffffffffc00#64) ||| (v &&& 0x7ff#64)) with ctr := t.ctr, cycle := t.cycle }) ∧
      (s.fld (benchKey b 0x280) 10 10 = 1 → refused (.flipArm o (csrAt (benchKey b 0x278)) v) (benchKey b 0x278) ∧
        refused (.flipArm o (csrAt (benchKey b 0x280)) v) (benchKey b 0x280)))

/-- A datagram of no open session, or whose tag fails, or with an old SEQ not among those answered, is discarded and counted; an answered SEQ
gets its answer again and nothing else happens; a request without its permission is DENIED (R575 to R577). An answer is kept with its SEQ. -/
def Obligations.RequestsAreJudged : Prop :=
  ∀ (rq : Rq) (i : Instr) (ty bit : Nat) (s : State), Request rq i ty bit →
    let dropped := exec i s = .next (s.countMd rq.md 0xb9)
    (s.session? rq.md rq.session.toNat = none → dropped) ∧
    (∀ x, s.session? rq.md rq.session.toNat = some x → x.opened = false ∨ 2 ^ 32 ≤ x.requests ∨ tagHolds x rq ty = false → dropped) ∧
    (∀ x n a, Genuine s rq ty x → x.answered.find? (fun p => p.1 == rq.seq.toNat) = some (n, a) →
      exec i s = .next { s with out := s.out ++ [a] }) ∧
    (∀ x h, Genuine s rq ty x → x.answered.find? (fun p => p.1 == rq.seq.toNat) = none → x.highest = some h → rq.seq.toNat ≤ h → dropped) ∧
    (∀ x, Genuine s rq ty x → Fresh rq x → x.perms.getLsbD bit = false → exec i s = .next (s.reply rq stDenied [])) ∧
    (∀ x status data, s.session? rq.md rq.session.toNat = some x →
      let t := s.reply rq status data
      let a : Msg := ⟨.reply, [rq.md.val, rq.session.toNat, rq.seq.toNat, status] ++ data⟩
      t = { s with out := s.out ++ [a], mgt := { s.mgt with sessions := t.mgt.sessions } } ∧
      t.session? rq.md rq.session.toNat = some { x with
        highest := some (max rq.seq.toNat (x.highest.getD 0)), answered := ((rq.seq.toNat, a) :: x.answered).take 64,
        requests := x.requests + 1, lastUse := s.now })

/-- What an admitted request does: reads and snapshots answer the values; a log read answers entries of the ring or of flash; a log erase
needs the whole partition read in the session; an upload of a free slot writes it and starts its verification, and one of the booted or
pending slot is REFUSED; a cancel clears PENDING of the record; a report carries the 256 bytes of R551 and their signature, 16 in a second;
a reset is REFUSED while RUNNING; a request for self-test of units with a code out of form is MALFORMED; one for units of which a window that frees
them all begins before its deadline is queued with that window and answered OK, else DEFERRED, as it is without a running job (R78, R545, R551 to
R553, R570, R577, R617). -/
def Obligations.RequestsAct : Prop :=
  ∀ (rq : Rq) (s : State),
    (∀ (h : Hub) off sp, off < 0x20000 → off % 8 = 0 → regSpec .hub off = some sp → off ≠ 0x410 → Admitted s rq 0x10 0 →
      Yields (.csrRead (.session rq) (csrAt (hubKey h off))) s (s.reply rq stOk [(s.reg (hubKey h off) &&& BitVec.ofNat 64 sp.rd).toNat])) ∧
    (∀ (h : Hub) v, Admitted s rq 0x11 1 → Yields (.csrWrite (.session rq) (csrAt (hubKey h 0x2100)) v) s
      ((s.setReg (hubKey h 0x2100) v).reply rq stOk [])) ∧
    (∀ h : Hub, Admitted s rq 0x12 0 → exec (.counterSnapshotRead rq ⟨32 + h.val, by omega⟩) s =
      .next (s.reply rq stOk ((List.range 32).map fun i => (s.reg (hubKey h (0x2200 + 8 * i))).toNat))) ∧
    (∀ first count, Admitted s rq 0x40 4 → exec (.logRead rq true first count) s = .next (s.reply rq stOk
      (((((s.mgt.ring.filter fun e => e.md == rq.md.val).drop first).take count).map fun e => (LogRec.bytes e).map BitVec.toNat).flatten))) ∧
    (∀ x, Admitted s rq 0x40 4 → s.session? rq.md rq.session.toNat = some x → (∀ n, x.logReadTo = some n → n < s.flash.log.length) →
      exec (.logErase rq) s = .next (s.reply rq stRefused [])) ∧
    (∀ x n, Admitted s rq 0x40 4 → s.session? rq.md rq.session.toNat = some x → x.logReadTo = some n → s.flash.log.length ≤ n →
      ∃ t, exec (.logErase rq) s = .next t ∧ t.flash.log = [] ∧ t.flash.slots = s.flash.slots ∧ t.mgt.ring = s.mgt.ring ∧ t.mem = s.mem ∧
        t.fld (mdKey 0 0x420) 16 16 = 0 ∧ t.out = s.out ++ [⟨.reply, [rq.md.val, rq.session.toNat, rq.seq.toNat, 0]⟩]) ∧
    (∀ (slot : Fin 2) img, Admitted s rq 0x30 3 →
      (s.sec.bootedSlot = some slot.val ∨ s.sec.record.pending = slot.val → ∃ t, exec (.imageUpload rq slot img) s = .next t ∧
        t.flash = s.flash ∧ t.sec = s.sec ∧ t.out = s.out ++ [⟨.reply, [rq.md.val, rq.session.toNat, rq.seq.toNat, 5, 2]⟩]) ∧
      (s.sec.bootedSlot ≠ some slot.val → s.sec.record.pending ≠ slot.val → s.sec.upload = none →
        ∃ t, exec (.imageUpload rq slot img) s = .next t ∧ t.flash = { s.flash with slots := s.flash.slots.set slot (some img) } ∧
          t.sec = { s.sec with upload := some (rq, slot.val) } ∧ t.out = s.out ∧ t.mem = s.mem ∧ t.fld (mdKey 0 0x370) 1 0 = 2 ∧
          t.fld (mdKey 0 0x370) 2 2 = slot.val ∧ t.fld (mdKey 1 0x370) 1 0 = 2)) ∧
    (Admitted s rq 0x30 3 → ∃ t, exec (.pendingCancel rq) s = .next t ∧ t.sec.record = { s.sec.record with pending := 0xff } ∧ t.mem = s.mem ∧
      t.out = s.out ++ [⟨.reply, [rq.md.val, rq.session.toNat, rq.seq.toNat, 0]⟩]) ∧
    (∀ nonce, Admitted s rq 0x31 0 →
      let n := match nget? s.sec.attests rq.md with | some p => if p.1 = s.tbNow / 1000000000 then p.2 else 0 | none => 0
      ∃ t, exec (.attestation rq nonce) s = .next t ∧ t.mem = s.mem ∧ t.csr = s.csr ∧
        t.out = s.out ++ [⟨.reply, [rq.md.val, rq.session.toNat, rq.seq.toNat] ++
          (if nonce.length ≠ 32 then [4] else if 16 ≤ n then [2]
            else 0 :: (s.report rq.md nonce ++ Config.mldsaSign (identitySeed rq.md) (s.report rq.md nonce)).map BitVec.toNat)⟩]) ∧
    (Admitted s rq 0x50 5 → (s.tabState = tabRunning → exec (.resetRequest rq) s = .next (s.reply rq stRefused [])) ∧
      (s.tabState ≠ tabRunning → exec (.resetRequest rq) s = .next (s.reply rq stOk []).warmReset)) ∧
    (∀ (units : List (BitVec 32)) (cls : Fin 6) (dl : BitVec 64), Admitted s rq 0x60 6 →
      let us := units.map BitVec.toNat
      (us = [] ∨ us.all unitFormOk = false → exec (.selftestRequest rq units cls dl) s = .next (s.reply rq stMalformed [])) ∧
      (us ≠ [] → us.all unitFormOk = true → us.all unitExists = true →
        (s.tabState ≠ tabRunning ∨ s.nextWindow us cls = none ∨ (∃ w, s.nextWindow us cls = some w ∧ dl.toNat ≤ w.2) →
          exec (.selftestRequest rq units cls dl) s = .next (s.reply rq stDeferred [])) ∧
        (∀ w, s.tabState = tabRunning → s.nextWindow us cls = some w → w.2 < dl.toNat →
          exec (.selftestRequest rq units cls dl) s =
            .next (({ s with job := { s.job with queued := s.job.queued ++ [(w.1, w.2, us, cls.val)] } } : State).reply rq stOk []))))

/-! Power, clocks and crossings. -/

/-- A pluck-table entry fires in its fabric cycle and sends a pluck (R490). A pluck or a request wakes a bench in HOLD or SLEEP, turns an
entry round and counts it, is noted by a bench in RUN, and is lost at one in OFF (R489); a spare that stands by stays as it is (R19). A bench whose cores have parked and that has nothing
left to write enters the state of PARK_TO, and SLEEP empties L1; a pluck of the same fabric cycle keeps it in RUN (R486, R487, R489). A wake
brings it back to RUN with CYC from the timebase; a WAITU whose cycle has passed is fault 1, and no RUN within the bound is fault 2 and fails
the bench (R492, R493). After a wake by a request it enters again (R489). -/
def Obligations.BenchesParkAndWake : Prop :=
  ∀ (b : BenchId) (s : State),
    let x := s.bench b
    (∀ entry seg t d lb n p, (plucksOf s.theTab s.tab.pos s.tab.variant)[entry]? = some (seg, t, d, lb, n) → s.tabState = tabRunning →
      s.job.inStep = true → s.job.seg = seg → s.job.pluckFired.contains entry = false → s.benchAt d lb = some p →
      ∃ u, exec (.pluckTableFire entry) s = .next u ∧ u.now = max s.now (s.job.segStart + 2 * t) ∧ u.mem = s.mem ∧ u.cores = s.cores ∧
        (u.die p.die).plucks = (s.die p.die).plucks ++ [p.bench.val] ∧ u.job = { s.job with pluckFired := entry :: s.job.pluckFired }) ∧
    (∀ bridge : Bool, bridge = true ∨ (s.die b.die).plucks.contains b.bench.val = true →
      ∃ t, exec (.pluckArrival b bridge) s = .next t ∧ t.mem = s.mem ∧ t.cores = s.cores ∧
        (t.die b.die).plucks = (if bridge then (s.die b.die).plucks else (s.die b.die).plucks.erase b.bench.val) ∧
        (x.power = 3 → t.bench b = x) ∧
        (s.isSpare b = true → t.bench b = x) ∧
        (s.isSpare b = false → x.power = 0 → x.transit = .none → t.bench b = { x with lastPluck := if bridge then x.lastPluck else some (s.now / 2) }) ∧
        (s.isSpare b = false → x.power = 1 ∨ x.power = 2 → x.transit = .none →
          t.bench b = { x with transit := .waking, wokenBy := some bridge, wakeFrom := s.now } ∧
          t.fld (benchKey b 0x248) 47 32 = min (s.fld (benchKey b 0x248) 47 32 + 1) 0xffff) ∧
        (∀ g, s.isSpare b = false → x.power ≠ 3 → x.transit = .entering g →
          t.bench b = { x with transit := .waking, wokenBy := some bridge, wakeFrom := s.now } ∧
          t.fld (benchKey b 0x248) 63 48 = min (s.fld (benchKey b 0x248) 63 48 + 1) 0xffff)) ∧
    (x.power = 0 → x.transit = .none → x.wokenBy ≠ some true → s.allParked b = true → s.benchBusy b = false →
      ∃ t, exec (.benchParkComplete b) s = .next t ∧ t.mem = s.mem ∧ (∀ d, d ≠ b → t.bench d = s.bench d) ∧
        (∀ c, (t.core c).sregs = (s.core c).sregs ∧ (t.core c).vregs = (s.core c).vregs ∧ (t.core c).accs = (s.core c).accs) ∧
        (x.lastPluck ≠ some (s.now / 2) → t.bench b = { x with power := s.parkTo b } ∧
          (s.parkTo b = 2 → ∀ c ∈ allCores b, (t.core c).l1 = []) ∧ (s.parkTo b = 1 → t.cores = s.cores)) ∧
        (x.lastPluck = some (s.now / 2) → t.bench b = x ∧ (∀ c ∈ allCores b, (t.core c).parked = false) ∧
          t.fld (benchKey b 0x248) 63 48 = min (s.fld (benchKey b 0x248) 63 48 + 1) 0xffff)) ∧
    (x.transit = .waking → ∃ t, exec (.benchWakeComplete b) s = .next t ∧ t.mem = s.mem ∧ (t.bench b).power = 0 ∧
      (t.bench b).transit = .none ∧ (t.bench b).cycAdj = (s.die b.die).lag ∧
      (x.wokenBy ≠ some true → ∀ c ∈ allCores b, (t.core c).parked = false) ∧ (x.wokenBy = some true → t.cores = s.cores) ∧
      (∀ c, (t.core c).hold = (s.core c).hold ∧ (t.core c).sregs = (s.core c).sregs) ∧
      (s.waitTarget b = none → t.out = s.out ∧ t.csr = s.csr) ∧
      (∀ n, s.waitTarget b = some n → s.now - s.job.segStart ≤ n → t.out = s.out ∧ t.csr = s.csr) ∧
      (x.pwrFaulted = false → ∀ n, s.waitTarget b = some n → n < s.now - s.job.segStart →
        t.fld (benchKey b 0x250) 3 0 = 9 ∧ t.fld (benchKey b 0x250) 55 16 = s.stepNo % 2 ^ 40)) ∧
    (x.power = 0 → x.transit = .none → x.wokenBy = some true → s.allParked b = true → s.benchBusy b = false →
      x.lastPluck ≠ some (s.now / 2) →
      exec (.benchReentry b) s = .next (s.setBench b { x with wokenBy := none, transit := .entering (s.parkTo b) })) ∧
    (x.transit = .waking → ∃ t, exec (.wakeTimeout b) s = .next t ∧ t.now = max s.now (x.wakeFrom + s.wakeLimit b) ∧ t.mem = s.mem ∧ t.cores = s.cores ∧
      t.out.getLast? = some ⟨.unitFailed, [b.die.val, b.bench.val]⟩ ∧
      (x.pwrFaulted = false → t.fld (benchKey b 0x250) 3 0 = 10 ∧ t.fld (benchKey b 0x250) 55 16 = s.stepNo % 2 ^ 40))

/-- GO of CLK_DOM_RESET starts a reset of its bench, or of the die's fabric, unless a job runs, which refuses it (R497, R498, R507). When it
ends, the bench is in RUN with idle cores and accumulators +0; its registers and memory stay unless it was in OFF (what lost power reads as
never written: log 8), and DONE is set. A PLL that loses lock is recorded; a compute die's fails the stack while a job runs, a hub's or a
management die's is beyond the module (R485, R507). A droop stretch costs the die's cores one core cycle, one in 16 at most, and a droop fault
is an envelope fault of the stack (R499 to R501). -/
def Obligations.DomainsAndDroop : Prop :=
  ∀ (m : Md) (d : Die) (s : State),
    let o := Origin.host m
    let rst := dieKey d 0x198
    (∀ v : Word64, s.dieFenced d = false → v.getLsbD 8 = true →
      (s.tabState = tabRunning ∨ s.tabState = tabStopping → ∃ t, exec (.domainResetRequest o d v) s = .next t ∧
        t = { s with csr := t.csr, cycle := t.cycle } ∧ t.fld rst 11 11 = 1) ∧
      (s.tabState ≠ tabRunning → s.tabState ≠ tabStopping → (s.die d).domReset = none →
        bitsOf v.toNat 7 0 < 180 ∨ bitsOf v.toNat 7 0 = 0xf0 → ∃ t, exec (.domainResetRequest o d v) s = .next t ∧ t.mem = s.mem ∧
          t.cores = s.cores ∧ t.die d = { s.die d with domReset := some (bitsOf v.toNat 7 0) } ∧ t.fld rst 9 9 = 1)) ∧
    (∀ b : Fin 180, (s.die d).domReset = some b.val → ∃ t, exec (.domainResetComplete d) s = .next t ∧ (t.die d).domReset = none ∧
      t.fld rst 9 9 = 0 ∧ t.fld rst 10 10 = 1 ∧ (t.bench ⟨d, b⟩).power = 0 ∧ (t.bench ⟨d, b⟩).transit = .none ∧
      (t.bench ⟨d, b⟩).steps = [] ∧ (∀ c, c.benchId ≠ ⟨d, b⟩ → t.core c = s.core c) ∧
      (∀ c ∈ allCores ⟨d, b⟩, (t.core c).accs = [] ∧ (t.core c).running = false ∧ (t.core c).hold = .none ∧ (t.core c).results = [] ∧
        (t.core c).descs = [] ∧ (t.core c).region = none ∧ (t.core c).l1 = [] ∧
        ((s.bench ⟨d, b⟩).power ≠ 3 → (t.core c).sregs = (s.core c).sregs ∧ (t.core c).vregs = (s.core c).vregs) ∧
        ((s.bench ⟨d, b⟩).power = 3 → (t.core c).sregs = [] ∧ (t.core c).vregs = [])) ∧
      ((s.bench ⟨d, b⟩).power ≠ 3 → t.mem = s.mem) ∧
      ((s.bench ⟨d, b⟩).power = 3 → ∀ k, MemInv s → memGet t.mem k =
        if lsKey (BenchId.coreAt ⟨d, b⟩ 0) 0 ≤ k ∧ k < lsKey (BenchId.coreAt ⟨d, b⟩ 0) 0 + 2 ^ 22 then memDefault else memGet s.mem k)) ∧
    (∀ pll : Fin 2, ∃ t, exec (.pllLockLoss ⟨d.val, by omega⟩ pll.castSucc) s = .next t ∧ t.mem = s.mem ∧ t.cores = s.cores ∧
      t.fld (dieKey d 0x1f0) pll.val pll.val = 0 ∧ t.fld (dieKey d 0x1f0) 15 8 = min (s.fld (dieKey d 0x1f0) 15 8 + 1) 255 ∧
      t.out = (if s.jobRuns then s.out ++ [⟨.unitFailed, [d.val, 0xf0]⟩] else s.out)) ∧
    (∀ h : Hub, ∃ t, exec (.pllLockLoss ⟨32 + h.val, by omega⟩ 0) s = .next t ∧ t.fld (hubKey h 0x1f0) 0 0 = 0 ∧ t.fld (mgtKey 0x1e0) 4 4 = 1 ∧
      t.out = s.out ++ [⟨.beyondModule, [s.tab.pos, 32 + h.val, 0xf0]⟩]) ∧
    ((∀ t, (s.die d).lastStretch = some t → t + 16 ≤ s.now) → ∃ t, exec (.droopStretch d) s = .next t ∧ t.mem = s.mem ∧ t.cores = s.cores ∧
      t.die d = { s.die d with lag := (s.die d).lag + 1, lastStretch := some s.now } ∧
      t.fld (dieKey d 0x190) 31 0 = min (s.fld (dieKey d 0x190) 31 0 + 1) (2 ^ 32 - 1)) ∧
    (∀ t, (s.die d).lastStretch = some t → s.now < t + 16 → exec (.droopStretch d) s = .next s) ∧
    (∃ t, exec (.droopFault d) s = .next t ∧ t.mem = s.mem ∧ t.fld (dieKey d 0x190) 32 32 = 1 ∧ t.mgt.envRaised = true ∧
      t.out = if s.mgt.envRaised then s.out else s.out ++ [⟨.envelopeFault, [s.stepNo, d.val]⟩, ⟨.unitFailed, [d.val, 0xf0]⟩])

/-- A 1 µs window ends at the next whole microsecond of the timebase. One at or below 24 kW changes nothing else; one above is counted, and the
tenth within 1 ms raises the envelope fault, once a step, given to the stack whose excess over its part is largest and above a tenth of it, else beyond the module (R74, R501). A thermal fault stops
the job at the next segment boundary (R503). A thermal trip asserts THERM_TRIP_L, latches TRIPPED, stops every PLL but the standby PLL and with
them the cores, and loses LPDDR6 contents only (what is lost reads as never written: log 8) (R504, R508). -/
def Obligations.PowerAndHeat : Prop :=
  ∀ s : State,
    (∀ draw per, ∃ t, exec (.powerWindow draw per) s = .next t ∧ t.now = max s.now (s.atTb s.nextMicro) ∧ t.mgt.windowEnd = s.nextMicro ∧
      t.mem = s.mem ∧ t.cores = s.cores ∧
      (draw ≤ 2400 → t = { s.reach (s.atTb s.nextMicro) with mgt := { s.mgt with windowEnd := s.nextMicro } })) ∧
    (∀ draw per, 2400 < draw →
      let recent := s.mgt.overs.filter fun u => decide (s.nextMicro < 1000000 + u)
      ∃ t, exec (.powerWindow draw per) s = .next t ∧ t.mem = s.mem ∧ t.cores = s.cores ∧ t.mgt.overs = recent ++ [s.nextMicro] ∧
        (recent.length < 9 → t.out = s.out ∧ t.mgt.envRaised = s.mgt.envRaised ∧
          t.fld (mgtKey 0x200) 31 0 = min (s.fld (mgtKey 0x200) 31 0 + 1) (2 ^ 32 - 1)) ∧
        (9 ≤ recent.length → t.mgt.envRaised = true ∧ (s.mgt.envRaised = true → t.out = s.out) ∧
          (s.mgt.envRaised = false → ∃ u, (u < 28 ∨ u = 0x3f) ∧ t.fld (mgtKey 0x200) 32 32 = 1 ∧ t.fld (mgtKey 0x200) 38 33 = u ∧
            t.out = s.out ++ [⟨.envelopeFault, [s.stepNo, u]⟩, if u = 0x3f then ⟨.beyondModule, [s.tab.pos, 0x3f, 0xff]⟩
              else ⟨.unitFailed, [u, 0xf0]⟩] ∧
            let gap := fun i => nget t.mgt.excess (2 * i) 0 - nget t.mgt.excess (2 * i + 1) 0
            (u < 28 → nget t.mgt.excess (2 * u + 1) 0 < 10 * gap u ∧ ∀ i, i < 28 → gap i ≤ gap u)))) ∧
    (∀ u : UnitRef, ∃ t, exec (.thermalFault u) s = .next t ∧ t.mem = s.mem ∧ t.cores = s.cores ∧ t.job.abandon = true ∧
      t.job.thermal = (s.job.thermal || u.pos == s.tab.pos) ∧
      (s.tabState = tabRunning → t.tabState = tabStopping) ∧ (s.tabState ≠ tabRunning → t.tabState = s.tabState) ∧
      smem t.mgr.stopping u.pos = true ∧ t.out = s.out ++ [⟨.stopJob, [u.pos, 503]⟩]) ∧
    (∃ t, exec .thermalTrip s = .next t ∧ t.pins = { s.pins with thermTrip := true } ∧ t.fld (mgtKey 0x208) 21 21 = 1 ∧
      (∀ c, t.core c = { s.core c with running := false }) ∧ t.flash = s.flash ∧ (∀ d : Die, t.fld (dieKey d 0x1f0) 1 0 = 0) ∧ (∀ h : Hub, t.fld (hubKey h 0x1f0) 0 0 = 0) ∧
      (∀ m : Md, t.fld (mdKey m 0x1f0) 1 0 = 0 ∧ t.fld (mdKey m 0x1f0) 2 2 = s.fld (mdKey m 0x1f0) 2 2) ∧
      (MemInv s → ∀ k, memGet t.mem k = if k < 0x0a8000000000 then memDefault else memGet s.mem k))

/-! Stored data. -/

/-- A scrub access that a foreground access claims, or one out of the scrubber's order, only keeps what struck the word; else no damage changes
nothing but the scrubber's place, one damaged unit is recorded and corrected, and one found again in the lap is a hard failure (an LPDDR6 block gets
the first free retire entry, its copy to be made); two are uncorrectable: recorded, reported as a deadline fault, the word stays as it is, and one
that recurs after the word was written is a hard failure, whose block moves to a spare at once (R509, R512, R513, R515, R522 to R524, R530). A lap
ends with its length, its count, and LAPWARN and a warning when it was too long (R526, R530). A triple gives what two copies hold and repairs
the third; with no two alike it gives the bitwise majority and fails its die; a software write of the same cycle stays (R516 to R518). The copy of a retired block carries its bytes
(R522). An armed flip mask is stored with the next write of a later cycle, and ARMED and the mask clear (R527, R528). -/
def Obligations.StoredErrors : Prop :=
  ∀ s : State,
    (∀ (st : StoreRef) (addr : Nat) (strike : BitVec 288) (claimed over' : Bool),
      let m := errAt s st addr ^^^ strike
      let n := damage (isLpddr st) m
      let ecc := match (storeOwner st).1 with | .inl b => benchKey b 0x260 | .inr h => hubKey h 0x600
      let rec' := fun unc => BitVec.ofNat 64 ((if unc then 2 ^ 52 else 0) + 2 ^ 53 + s.eccAddr st addr % 2 ^ 48 + 2 ^ 48 * (storeOwner st).2)
      let blk := addr % 2 ^ 35 / 4096
      ∃ t, exec (.scrubAccess st addr strike claimed over') s = .next t ∧ (n ≠ 2 ∨ s.seenUe.contains (st, addr, true) = false → t.mem = s.mem) ∧
        (s.scrubDue st addr = false → t = s.setErr st addr m) ∧
        (s.scrubDue st addr = true → claimed = true → SameButCounters (s.setErr st addr m) t) ∧
        (s.scrubDue st addr = true → claimed = false → n = 0 → SameButCounters ((s.setErr st addr m).scrubPass st addr) t) ∧
        (s.scrubDue st addr = true → claimed = false → smem s.poison addr = false →
          (n = 1 → errAt t st addr = 0 ∧ t.fld ecc 31 0 = min (s.fld ecc 31 0 + 1) (2 ^ 32 - 1) ∧ t.reg (ecc + 8) = rec' false ∧
            t.cores = s.cores ∧ (over' = true → t.seenCe = s.seenCe ∧ t.out = s.out) ∧
            (over' = false → s.seenCe.contains (cePlace st addr m) = false → t.seenCe = cePlace st addr m :: s.seenCe ∧ t.out = s.out) ∧
            (∀ c k, over' = false → st = .lpddr c → s.seenCe.contains (cePlace st addr m) = true → s.freeRetire c.hub c.chan = some k →
              s.retiring c.hub c.chan blk = false → t.reg (retireKey c.hub c.chan k) = BitVec.ofNat 64 (2 ^ 24 + blk))) ∧
          (∀ c k, n = 2 → st = .lpddr c → s.seenUe.contains (st, addr, true) = true → s.freeRetire c.hub c.chan = some k →
            s.retiring c.hub c.chan blk = false → t.reg (retireKey c.hub c.chan k) = BitVec.ofNat 64 blk ∧
            (t.hub c.hub).retired = (s.hub c.hub).retired ++ [8 * c.chan.val + k] ∧
            let lo := 2 ^ 35 * c.key + retireBase + 4096 * k
            (MemInv s → ∀ a, memGet t.mem a = if lo ≤ a ∧ a < lo + 4096 then memDefault else memGet s.mem a)) ∧
          (n = 2 → s.seenUe.contains (st, addr, true) = false → s.seenUe.contains (st, addr, false) = false → errAt t st addr = m ∧ t.reg (ecc + 8) = rec' true ∧
            t.fld ecc 63 32 = min (s.fld ecc 63 32 + 1) (2 ^ 32 - 1) ∧ t.seenUe = (st, addr, false) :: s.seenUe ∧
            (∃ data, t.out = s.out ++ [⟨.deadlineFault, data⟩]) ∧
            (∀ c, st = .accFile c → (t.core c).pz (128 + addr / 8 % 64) = true) ∧
            (∀ c, st = .registers c → addr < 32 → (t.core c).pz addr = true)))) ∧
    (∀ (b : BenchId) (c : CoreId) (secs : BitVec 32), c.benchId = b → ∃ t, exec (.scrubLapEnd (.localStore c) secs) s = .next t ∧
      t.mem = s.mem ∧ t.fld (benchKey b 0x270) 31 0 = secs.toNat ∧
      t.fld (benchKey b 0x270) 47 32 = (s.fld (benchKey b 0x270) 47 32 + 1) % 2 ^ 16 ∧ (∀ e ∈ t.seenCe, e.1 ≠ .localStore c) ∧
      t.scrubNext (.localStore c) = 0 ∧
      (secs.toNat ≤ 3600 * s.fld (mgtKey 0x230) 15 0 → t.out = s.out) ∧
      (3600 * s.fld (mgtKey 0x230) 15 0 < secs.toNat → t.fld (benchKey b 0x270) 54 54 = 1 ∧
        t.out = s.out ++ [⟨.warning, [526, benchKey b 0x270]⟩])) ∧
    (∀ (k : Nat) (x y z : Word64), k < 2 ^ 38 → storeKey k = k → isTriple k = true →
      (x = y → y = z → exec (.voteRepair (csrAt k) x y z) s = .next s) ∧
      (∀ v, ¬ (x = y ∧ y = z) → (x = y ∧ v = x) ∨ (x = z ∧ v = x) ∨ (y = z ∧ v = y) →
        exec (.voteRepair (csrAt k) x y z) s =
          .next ((if s.cycle.soft.contains k then s else s.setReg k v).satFld (mgtKey 0x238) 31 0 1)) ∧
      (x ≠ y → x ≠ z → y ≠ z → ∃ t, exec (.voteRepair (csrAt k) x y z) s = .next t ∧ t.mem = s.mem ∧ t.cores = s.cores ∧
        t.fld (mgtKey 0x238) 32 32 = 1 ∧ t.fld (mgtKey 0x238) 38 33 = keyDie k ∧
        (k ≠ mgtKey 0x1e0 → t.reg k = if s.cycle.soft.contains k then s.reg k else (x &&& y) ||| (x &&& z) ||| (y &&& z)) ∧
        t.out = s.out ++ [⟨.criticalFault, [keyDie k]⟩, if keyDie k < 28 then ⟨.unitFailed, [keyDie k, 0xf0]⟩
          else ⟨.beyondModule, [s.tab.pos, keyDie k, 0xf0]⟩])) ∧
    (∀ (c : ChanId) (k : Fin 8),
      let e := retireKey c.hub c.chan k
      let src := 2 ^ 35 * c.key + 4096 * s.fld e 22 0
      let dst := 2 ^ 35 * c.key + retireBase + 4096 * k.val
      MemInv s → s.poison = [] → s.errs = [] → s.fld e 24 24 = 1 → (s.hub c.hub).retired.contains (8 * c.chan.val + k.val) = false →
      ∃ t, exec (.pageRetireCopy c k) s = .next t ∧ (∀ i, i < 4096 → memGet t.mem (dst + i) = memGet s.mem (src + i)) ∧
        (∀ a, ¬ (dst ≤ a ∧ a < dst + 4096) → memGet t.mem a = memGet s.mem a) ∧ t.cores = s.cores ∧ t.csr = s.csr ∧
        t.hub c.hub = { s.hub c.hub with retired := (s.hub c.hub).retired ++ [8 * c.chan.val + k.val] }) ∧
    (∀ (b : BenchId) (addr : Nat),
      let arm := benchKey b 0x280
      let mask := BitVec.ofNat 288 ((s.reg (benchKey b 0x278)).toNat + 2 ^ 64 * s.fld arm 7 0)
      (s.fld arm 10 10 = 0 ∨ (s.freshBits arm).getLsbD 10 = true → exec (.flipCorruptWrite (.clusterStore b) addr) s = .next s) ∧
      (s.fld arm 10 10 = 1 → (s.freshBits arm).getLsbD 10 = false → ∃ t, exec (.flipCorruptWrite (.clusterStore b) addr) s = .next t ∧ t.mem = s.mem ∧
        errAt t (.clusterStore b) addr = errAt s (.clusterStore b) addr ^^^ mask ∧ t.reg (benchKey b 0x278) = 0 ∧
        t.fld arm 7 0 = 0 ∧ t.fld arm 10 10 = 0 ∧ t.fld arm 9 8 = s.fld arm 9 8))

/-! Checkpoints and fault absorption. -/

/-- A haul descriptor of the tab's hub slot table starts in its segment at its START; one in form starts its stream unless the commit fence stops
the hub for the step; one out of form is fault 5, a fence hit fault 3 (R452, R461). The rows of a commit complete in their order only, the first when
no copy is under way and the second when every replica has gone; the report goes to the manager with HAUL_VAULT's place for the epoch
in every hub (R459, R480). A commit deadline with rows open is fault 1 at HB2 (R459). When every position has reported an epoch, the manager
records it and sends the notice; the notice frees the inputs held for it (R32, R460). -/
def Obligations.EpochsCommit : Prop :=
  ∀ s : State,
    let n := s.stepNo
    let row := fun (k : Nat) => { s with job := { s.job with commitRow := k } }
    (∀ (h : Hub) (d : BitVec 512),
      let x := s.hub h
      let u := match s.haulSlot h d with | some (_, t) => s.reach (s.job.segStart + 2 * t) | none => s
      let fault := fun (t : State) (cause : Nat) => t.mem = s.mem ∧ (x.haulFaulted = false →
        t.fld (hubKey h 0x528) 3 0 = 8 + cause ∧ t.fld (hubKey h 0x528) 55 16 = n % 2 ^ 40)
      let clear := x.fence = some (n, false) ∨ ((∀ f, x.fence ≠ some (n, f)) ∧ n ≤ s.fld (hubKey h 0x518) 39 0 + 1)
      ((∃ k t, s.haulSlot h d = some (k, t) ∧ k ≠ s.job.seg) → exec (.haulStart h d) s = .next s) ∧
      ((∀ k t, s.haulSlot h d = some (k, t) → k = s.job.seg) →
      (u.swapHolds = true ∨ u.freedNow (hubUnit h) = true → exec (.haulStart h d) s = .next u) ∧
      (u.swapHolds = false → u.freedNow (hubUnit h) = false →
      (s.haulOk (parseHaul d) = false → ∃ t, exec (.haulStart h d) s = .next t ∧ fault t 5 ∧ t.out = s.out) ∧
      (s.haulOk (parseHaul d) = true → x.fence = some (n, true) → exec (.haulStart h d) s = .next u) ∧
      (s.haulOk (parseHaul d) = true → (∀ f, x.fence ≠ some (n, f)) → s.fld (hubKey h 0x518) 39 0 + 1 < n →
        ∃ t, exec (.haulStart h d) s = .next t ∧ fault t 3 ∧ (t.hub h).fence = some (n, true) ∧ (t.hub h).haul = x.haul ∧
          ∃ data, t.out = s.out ++ [⟨.deadlineFault, data⟩]) ∧
      (s.haulOk (parseHaul d) = true → (parseHaul d).stream ≤ 1 → clear → ∃ t, exec (.haulStart h d) s = .next t ∧ t.now = u.now ∧ t.mem = s.mem ∧
        t.out = s.out ∧ (t.hub h).haul = some d ∧ (t.hub h).haulLinks = sinsert x.haulLinks (parseHaul d).link ∧
        (t.hub h).fence = some (n, false) ∧
        t.reg (hubKey h 0x508) = BitVec.ofNat 64 (1 + 4 * (parseHaul d).stream + 2 ^ 32 * (parseHaul d).region))))) ∧
    (s.job.inStep = true →
      (s.job.commitRow = 0 → exec (.commitEpoch .copyOut) s = .next (if s.copiesDone then row 1 else s)) ∧
      (s.job.commitRow = 1 → exec (.commitEpoch .replica) s = .next (if s.replicasSent then row 2 else s)) ∧
      (s.job.commitRow = 3 → exec (.commitEpoch .acknowledged) s = .next (row 4)) ∧
      (s.job.commitRow = 4 → ∃ t, exec (.commitEpoch .ownRecord) s = .next t ∧ t.job = (row 5).job ∧ (s.errs = [] → t.out = s.out) ∧ t.cores = s.cores ∧
        t.fld (hubKey 2 0x508) 1 0 = 0) ∧
      (s.job.commitRow = 5 → ∃ t, exec (.commitEpoch .report) s = .next t ∧ t.job = (row 6).job ∧ t.mem = s.mem ∧
        t.out = s.out ++ [⟨.commitReport, [s.tab.pos, n]⟩] ∧ ∀ h : Hub, t.reg (hubKey h 0x510) = BitVec.ofNat 64 (2 ^ 40 + n)) ∧
      (s.job.commitRow ≠ 5 → exec (.commitEpoch .report) s = .next s) ∧ (s.job.commitRow ≠ 3 → exec (.commitEpoch .acknowledged) s = .next s)) ∧
    (∀ g : Seg, s.job.inStep = true → s.segNow = some g → g.stepEnd = true →
      let late := s.job.segStart + 2 * jobField s.theTab s.tab.pos s.tab.variant 8 4
      (s.job.commitRow = 6 → s.job.buddyDone = true → exec .commitDeadline s = .next (s.reach late)) ∧
      (s.job.commitRow = 0 → ∃ t, exec .commitDeadline s = .next t ∧ t.mem = s.mem ∧ t.now = max s.now late ∧
        ∀ h : Hub, (s.hub h).engines ≠ [] → (s.hub h).haulFaulted = false → t.fld (hubKey h 0x528) 3 0 = 9) ∧
      (0 < s.job.commitRow → s.job.commitRow < 6 → ∃ t, exec .commitDeadline s = .next t ∧ t.mem = s.mem ∧ t.now = max s.now late ∧
        ((s.hub 2).haulFaulted = false → t.fld (hubKey 2 0x528) 3 0 = 9) ∧
        (s.job.buddyDone = false → (s.hub 5).haulFaulted = false → t.fld (hubKey 5 0x528) 3 0 = 9))) ∧
    (∀ (pos : Nat) (e : BitVec 40),
      let all := if s.mgr.roles.isEmpty then List.range s.tab.rxPositions else s.mgr.roles.map Prod.fst
      let have' := fun p => p = pos ∨ s.mgr.reports.contains (e.toNat, p) = true
      (s.isManager = false → exec (.commitReport pos e) s = .next s) ∧
      (s.isManager = true → all ≠ [] → (∀ p ∈ all, have' p) → ∃ t, exec (.commitReport pos e) s = .next t ∧ t.mem = s.mem ∧
        t.csr = s.csr ∧ t.mgr.committed = some e.toNat ∧ (∀ r ∈ t.mgr.reports, r.1 ≠ e.toNat) ∧
        t.out = s.out ++ [⟨.commitNotice, [e.toNat]⟩, ⟨.commitIdentity, [e.toNat]⟩]) ∧
      (s.isManager = true → (∃ p ∈ all, ¬ have' p) → ∃ t, exec (.commitReport pos e) s = .next t ∧ t.out = s.out ∧
        t.mgr.committed = s.mgr.committed ∧ t.mgr.reports.contains (e.toNat, pos) = true)) ∧
    (∀ e : BitVec 40, ∃ t, exec (.jobCommitNotice e) s = .next t ∧ t.mem = s.mem ∧ t.out = s.out ∧
      t.job = { s.job with heldInputs := s.job.heldInputs.filter fun k => e.toNat < k } ∧
      ∀ h : Hub, t.reg (hubKey h 0x518) = BitVec.ofNat 64 (2 ^ 40 + e.toNat))

/-- The drain of a staged epoch begins when none runs, and when it commits its slot holds the epoch with its regions, unless a drive of the slot is
out (R456, R480, R574). A restart takes the latest candidate whose regions are intact: the module waits for step e + 1 with the loader at its mark,
the samples held back for it and DRS_STEP at e; without one it is refused with fault 6, and one of another tab is refused (R463 to R466). -/
def Obligations.VaultAndRestart : Prop :=
  ∀ s : State,
    (∀ v, s.mgt.staged = some v → s.mgt.draining = none → ∃ t, exec .vaultDrain s = .next t ∧ t.mem = s.mem ∧ t.out = s.out ∧
      t.mgt.staged = none ∧ t.mgt.draining = some v ∧ ∀ h : Hub, t.fld (hubKey h 0x520) 41 41 = 1 ∧
        t.fld (hubKey h 0x520) 40 0 = s.fld (hubKey h 0x520) 40 0) ∧
    (s.mgt.staged = none ∨ s.mgt.draining ≠ none → exec .vaultDrain s = .next s) ∧
    (∀ v done, s.mgt.draining = some v → (s.slotStopped (s.vaultSlot v) = true → exec (.vaultDrainCommit done) s = .next s) ∧
      (s.slotStopped (s.vaultSlot v) = false → ∃ t, exec (.vaultDrainCommit done) s = .next t ∧ t.mem = s.mem ∧ t.out = s.out ∧
        t.mgt.draining = none ∧ t.mgt.exporting = none ∧ 
        (∃ w, nget? t.mgt.vault (s.vaultSlot v) = some w ∧ w.epoch = v ∧ w.regions.map Prod.fst = s.regionsUp.map RegionRec.region ∧
          w.records.length = 3) ∧
        ∀ h : Hub, t.fld (hubKey h 0x520) 39 0 = v % 2 ^ 40 ∧ t.fld (hubKey h 0x520) 41 40 = 1)) ∧
    (∀ done, s.mgt.draining = none → exec (.vaultDrainCommit done) s = .next s) ∧
    (∀ (cs : List RestoreCandidate) c, latestIntact cs = some c → c ∈ cs ∧ c.intact = true ∧ ∀ d ∈ cs, d.intact = true → d.epoch ≤ c.epoch) ∧
    (∀ cs : List RestoreCandidate, latestIntact cs = none ↔ ∀ d ∈ cs, d.intact = false) ∧
    (∀ var (cs : List RestoreCandidate),
      (s.job.inStep = true → exec (.restart var cs) s = .next s) ∧
      (s.job.inStep = false → latestIntact cs = none → ∃ t, exec (.restart var cs) s = .next t ∧ t.mem = s.mem ∧
        t.out = s.out ++ [⟨.restoreRefused, []⟩] ∧ ((s.hub 2).haulFaulted = false → t.fld (hubKey 2 0x528) 3 0 = 14)) ∧
      (∀ c, s.job.inStep = false → latestIntact cs = some c →
        (s.tab.loaded.isSome = true → c.tabId ≠ hdrTabId256 s.theTab →
          exec (.restart var cs) s = .next (s.say .restoreRefused [c.epoch.toNat])) ∧
        (s.tab.loaded = none ∨ c.tabId = hdrTabId256 s.theTab → ∃ t, exec (.restart var cs) s = .next t ∧ t.tab.variant = var ∧
          t.loader.cursor = c.cursor.toNat ∧ (∀ p, nget? s.loader.marks (c.epoch.toNat + 1) = some p → t.loader.held = p.2) ∧
          (nget? s.loader.marks (c.epoch.toNat + 1) = none → t.loader.held = c.held) ∧
          t.loader.marks = [(c.epoch.toNat + 1, c.cursor.toNat, t.loader.held)] ∧ t.job.restored = (s.tabState != tabRunning) ∧ t.job.cur = none ∧ t.job.next = none ∧ t.job.last = none ∧
          t.job.abandon = false ∧ t.job.heldInputs = (s.job.heldInputs.filter fun k => k == c.epoch.toNat + 1) ∧ t.cores = s.cores ∧
          (s.errs = [] → t.out = (if s.isManager then s.out ++ [⟨.restoreFrom, [c.epoch.toNat]⟩] else s.out)) ∧
          (c.regions = [] → t.mem = s.mem ∧ ∀ b ∈ s.liveBenches, t.fld (benchKey b.1 0x310) 39 0 = c.epoch.toNat % 2 ^ 40))))

/-- Three polls without an answer fail the unit, an answer clears the count (R467). Order 3 of R468 fences a failed stack and maps its logical
number to the spare stack, or is beyond the module when the spare is in service, used up or unfit; transfers in flight towards it are discarded; it
fences a failed bench and gives its number to the first free spare bench; what lost power reads as never written (log 8). Order 4 takes the route of
the fenced stack once no step runs and no transfer is in flight (log 40), order 7 commits the
spare records, order 8 ends the absorption and marks the spare used; an order out of turn does nothing (R21, R22, R28, R468, R471, R475,
R476). A first package is retired under a new root with SWAP set, a second is beyond the module (R473, R477). A fault beyond the module is
reported, and the manager moves the position and restarts the job (R477, R478). -/
def Obligations.FaultsAreAbsorbed : Prop :=
  ∀ s : State,
    (∀ d b, s.pollsPaused = false → s.dieFenced d = false →
      let k := pollKey b
      let n := nget (s.die d).missedPolls k 0
      exec (.statusPoll d b true) s = .next (s.updDie d fun x => { x with missedPolls := nerase x.missedPolls k }) ∧
      ∃ t, exec (.statusPoll d b false) s = .next t ∧ t.die d = { s.die d with missedPolls := nset (s.die d).missedPolls k (n + 1) } ∧
        t.mem = s.mem ∧ t.cores = s.cores ∧ t.out = (if n = 2 then s.out ++ [⟨.unitFailed, [d.val, k]⟩] else s.out)) ∧
    (∀ (d : Die) (applied : Bool) rs,
      let u := d.val * 256 + 0xf0
      let hits := fun (w : BitVec 1536) => (parseDesc w).dstBoxes.any fun b => match placeOf b.1.toNat with
        | .scratch l _ _ | .store l _ _ _ => s.dieLog d == some l
        | _ => false
      (∀ (l : Nat) (p : Die), s.dieFenced d = false → s.dieLog d = some l → s.spareDie = some p → p ≠ d →
        (s.fld (mgtKey 0x60) 7 6 = 0 → (s.die p).spareUnfit = [] → l < 27 → ∃ t, exec (.stackAbsorption d 3 ⟨applied, rs⟩) s = .next t ∧
          t.dieFenced d = true ∧ t.physOf l = p.val ∧ t.physOf 27 = 0x3f ∧ t.fld (mgtKey 0x60) 7 6 = 1 ∧ t.fld (mgtKey 0x60) 13 8 = d.val ∧
          t.absorbed u = 3 ∧ (∀ b, b.die = d → (t.bench b).power = 3) ∧ (∀ b, b.die ≠ d → t.bench b = s.bench b) ∧
          (∀ c : CoreId, c.die = d → t.core c = {}) ∧
          (∀ c : CoreId, c.die ≠ d → t.core c = { s.core c with descs := (s.core c).descs.filter fun x => !hits x.1 }) ∧
          (∀ h e g, nget? (t.hub h).engines e = some g → hits g.desc = false) ∧
          (MemInv s → ∀ (c : CoreId) a, a < 0x10000 → memGet t.mem (lsKey c a) = if c.die = d then memDefault else memGet s.mem (lsKey c a))) ∧
        (s.fld (mgtKey 0x60) 7 6 ≠ 0 ∨ (s.die p).spareUnfit ≠ [] → ∃ t, exec (.stackAbsorption d 3 ⟨applied, rs⟩) s = .next t ∧
          t.mem = s.mem ∧ t.dies = s.dies ∧ t.fld (mgtKey 0x1e0) 4 4 = 1 ∧ t.out = s.out ++ [⟨.beyondModule, [s.tab.pos, d.val, 0xf0]⟩])) ∧
      (s.absorbed u = 3 →
        (s.job.inStep = false → s.idleTransfers = true → ∃ t, exec (.stackAbsorption d 4 ⟨applied, rs⟩) s = .next t ∧ t.job.route = d.val + 1 ∧
          t.job.routeWant = none ∧ t.absorbed u = 4 ∧ t.mem = s.mem) ∧
        (s.job.inStep = false → s.idleTransfers = false → exec (.stackAbsorption d 4 ⟨applied, rs⟩) s = .next s) ∧
        (s.job.inStep = true → exec (.stackAbsorption d 4 ⟨applied, rs⟩) s = .next { s with job := { s.job with routeWant := some (d.val + 1) } })) ∧
      (s.absorbed u = 6 → ∃ t, exec (.stackAbsorption d 7 ⟨applied, rs⟩) s = .next t ∧ t.absorbed u = 7 ∧ t.mem = s.mem ∧
        t.flash.copies.length = s.flash.copies.length ∧ ∀ c ∈ t.flash.copies, c = ⟨true, true, s.recordSeq + 1, t.sec.record⟩) ∧
      (s.absorbed u = 7 → ∃ t, exec (.stackAbsorption d 8 ⟨applied, rs⟩) s = .next t ∧ t.fld (mgtKey 0x60) 7 6 = 2 ∧ t.fld (mgtKey 0x1e0) 0 0 = 1 ∧
        t.pins.svcReq = true ∧ t.mem = s.mem) ∧
      (∀ order : Fin 9, 4 ≤ order.val → s.absorbed u + 1 ≠ order.val → exec (.stackAbsorption d order ⟨applied, rs⟩) s = .next s) ∧
      (∃ t, exec (.stackAbsorption d 1 ⟨applied, rs⟩) s = .next t ∧ t.mem = s.mem ∧ t.out = s.out ++ [⟨.unitFailed, [d.val, 0xf0]⟩]) ∧
      (∃ t, exec (.stackAbsorption d 2 ⟨applied, rs⟩) s = .next t ∧ t.mem = s.mem ∧ (s.job.inStep = true → t.job.abandon = true))) ∧
    (∀ (b : BenchId) (l k : Nat) (applied : Bool) rs, s.benchFenced b = false → s.benchLog b = some l → s.freeSpare b.die = some k → b.bench.val < 176 →
      ∃ t, exec (.benchAbsorption b 3 ⟨applied, rs⟩) s = .next t ∧ t.spareLog b.die k = l % 256 ∧ t.fld (dieKey b.die 0x100) 39 32 = b.bench.val ∧
        (t.bench b).power = 3 ∧ (t.die b.die).failedBenches.contains b.bench.val = true ∧ t.absorbed (b.die.val * 256 + b.bench.val) = 3 ∧
        (∀ d, d ≠ b → t.bench d = s.bench d) ∧ t.cores = s.cores.filter fun e => e.1 / 64 != b.key) ∧
    (∀ (b : BenchId) (applied : Bool) rs, s.benchFenced b = false → s.freeSpare b.die = none → ∃ t, exec (.benchAbsorption b 3 ⟨applied, rs⟩) s = .next t ∧
      t.mem = s.mem ∧ t.benches = s.benches ∧ t.out = s.out ++ [⟨.beyondModule, [s.tab.pos, b.die.val, b.bench.val]⟩]) ∧
    (∀ (pkg : Fin 84) (root : Word64),
      (s.fld (mgtKey 0x1e0) 22 16 ≠ 0x7f → ∀ tb rb, ∃ t, exec (.packageRetirement pkg root tb rb) s = .next t ∧ t.mem = s.mem ∧
        t.fld (mgtKey 0x1e0) 4 4 = 1 ∧ t.fld (mgtKey 0x1e0) 22 16 = s.fld (mgtKey 0x1e0) 22 16) ∧
      (s.fld (mgtKey 0x1e0) 22 16 = 0x7f → ∀ tb rb,
        let absorbing := s.mgt.absorbing.map fun (p : Nat × Nat) => (p.1, min p.2 2)
        let w0 := (({ s with mgt := { s.mgt with absorbing := absorbing } } : State).setFld (mgtKey 0x1e0) 22 16 pkg).dropRange (2 ^ 37 * pkg)
          (2 ^ 35 * (4 * pkg + 4))
        let w1 := rb.foldl (fun (s : State) b => s.storeLong (retarget pkg b.1) [b.2] false) w0
        let w2 := tb.foldl (fun (s : State) t => s.storeLong t.1 (leBytes 8 (retargetWord pkg t.2).toNat) false) w1
        ∃ t, exec (.packageRetirement pkg root tb rb) s = .next t ∧ t.mem = w2.mem ∧ t.fld (mgtKey 0x150) 1 1 = 1 ∧
          t.fld (mgtKey 0x1e0) 3 3 = 1 ∧ t.fld (mgtKey 0x1e0) 22 16 = pkg.val) ∧
      (s.fld (mgtKey 0x1e0) 22 16 = 0x7f → ∃ t, exec (.packageRetirement pkg root [] []) s = .next t ∧ t.fld (mgtKey 0x1e0) 22 16 = pkg.val ∧
        t.fld (mgtKey 0x150) 1 1 = 1 ∧ t.fld (mgtKey 0x1e0) 3 3 = 1 ∧ t.cores = s.cores ∧
        t.fld (mgtKey (0x140 + 8 * (if s.xlatInstalled then 1 - s.xlatActive else 0))) 47 12 = bitsOf root.toNat 47 12 ∧
        (MemInv s → ∀ a, memGet t.mem a = if 2 ^ 37 * pkg.val ≤ a ∧ a < 2 ^ 37 * (pkg.val + 1) then memDefault else memGet s.mem a))) ∧
    (∃ t, exec .spareRecordCommit s = .next t ∧ t.mem = s.mem ∧ t.csr = s.csr ∧ t.out = s.out ∧
      t.flash.copies = s.flash.copies.map (fun _ => ⟨true, true, s.recordSeq + 1, t.sec.record⟩) ∧
      t.sec.record.failedStack = (if s.fld (mgtKey 0x60) 13 8 < 28 then some (s.fld (mgtKey 0x60) 13 8) else none)) ∧
    (∀ u : UnitRef, (u.pos = s.tab.pos → s.isManager = false → ∃ t, exec (.beyondModuleFault u) s = .next t ∧ t.mem = s.mem ∧
        t.fld (mgtKey 0x1e0) 4 4 = 1 ∧ t.out = s.out ++ [⟨.beyondModule, [s.tab.pos, u.die, u.bench.toNat]⟩]) ∧
      (s.isManager = true → ∃ t, exec (.beyondModuleFault u) s = .next t ∧ t.mem = s.mem ∧ t.job.abandon = true ∧
        ∃ var, t.out.getLast? = some ⟨.restartJob, [s.mgr.committed.getD 0, var]⟩))

/-! Tabs, jobs, steps. -/

/-- The tab's state machine (R35 to R42): a load request is taken in EMPTY and LOADED once the factory special-function images stand in the
cores (R249), and answered BUSY elsewhere; the sections take RECEIVING to CHECKING; an abort and 10 s without data return to the state before
the load; the checks end in LOADED with the tab's ids, or in the state before with the code and place of the refusal. A discard of a tab that
was newly checked returns the earlier tab, or EMPTY; a tab under which a job has run stays. The manager holds every module's outcome: a refusal
makes it discard the tab everywhere, and it starts a job only when all report one TAB_ID. A job starts in LOADED only; a stop takes RUNNING to
STOPPING, and idle units take STOPPING to LOADED with every core idle. An event that the table does not list for a state leaves the state and
is acknowledged. -/
def Obligations.TabStates : Prop :=
  ∀ s : State,
    let st := s.tabState
    let back := s.tab.prev % 8
    let acked := .next (s.say .ack [])
    (∀ pos n, (st = tabEmpty ∨ st = tabLoaded → s.sec.sfsLoaded = true → ∃ t, exec (.tabLoadRequest pos n) s = .next t ∧ t.tabState = tabReceiving ∧
        t.tab = { s.tab with received := none, prev := st, rxPos := pos, rxPositions := n, rxSince := s.tbNow } ∧
        t.mgr = { s.mgr with loads := [] } ∧ t.out = s.out ++ [⟨.ack, []⟩] ∧ t.mem = s.mem) ∧
      ((st ≠ tabEmpty ∧ st ≠ tabLoaded) ∨ s.sec.sfsLoaded = false → ∃ t, exec (.tabLoadRequest pos n) s = .next t ∧ t.tab = s.tab ∧ t.tabState = st ∧
        t.fld (mgtKey 0x100) 15 8 = codeBusy ∧ t.out = s.out ++ [⟨.tabRefused, [codeBusy, 0]⟩])) ∧
    (∀ g, (st = tabReceiving → ∃ t, exec (.tabSectionsReceived g) s = .next t ∧ t.tabState = tabChecking ∧
        t.tab = { s.tab with received := some g } ∧ t.mem = s.mem ∧ t.out = s.out) ∧
      (st ≠ tabReceiving → exec (.tabSectionsReceived g) s = acked)) ∧
    (∀ i, i = .tabTransferAborted ∨ i = .tabReceiveTimeout →
      (st = tabReceiving → ∃ t, exec i s = .next t ∧ t.tabState = back ∧ t.tab = { s.tab with received := none } ∧ t.mem = s.mem ∧
        (i = .tabTransferAborted → t.now = s.now) ∧ (i = .tabReceiveTimeout → t.now = max s.now (s.atTb (10000000000 + s.tab.rxSince)))) ∧
      (st ≠ tabReceiving → exec i s = acked)) ∧
    (∀ g, st = tabChecking → s.tab.received = some g →
      let r := if s.tab.refuseAll then (codeResource, 0) else tabCheck g s.sec.imageHash (s.reg (mgtKey 0)).toNat s.tab.rxPos s.tab.rxPositions
      ∃ t, exec .tabChecksComplete s = .next t ∧ t.tab.received = none ∧ t.cores = s.cores ∧
        (r.1 = 0 → t.tabState = tabLoaded ∧ t.tab.loaded = some g ∧ t.tab.pos = s.tab.rxPos ∧ t.tab.variant = 0 ∧ t.tab.newly = true ∧
          t.tab.earlier = (if s.tab.prev = tabLoaded then s.tab.loaded else none) ∧ t.fld (mgtKey 0x100) 15 8 = 0 ∧
          (∀ i, i < 4 → t.reg (mgtKey (0x108 + 8 * i)) = BitVec.ofNat 64 (hdrTabId g i)) ∧
          (s.errs = [] → t.out = s.out ++ [⟨.tabLoaded, [(hdrTabId256 g).toNat]⟩]) ∧
          (s.isManager = true → nget? t.mgr.loads s.tab.rxPos = some (some (hdrTabId256 g)))) ∧
        (r.1 ≠ 0 → t.tabState = back ∧ t.tab.loaded = s.tab.loaded ∧ t.fld (mgtKey 0x100) 15 8 = r.1 % 256 ∧
          t.fld (mgtKey 0x100) 63 32 = r.2 % 2 ^ 32 ∧ t.mem = s.mem ∧ t.out = s.out ++ [⟨.tabRefused, [r.1, r.2]⟩] ++
            (if s.isManager then [⟨.discardTab, []⟩] else []) ∧ (s.isManager = true → nget? t.mgr.loads s.tab.rxPos = some none))) ∧
    (st ≠ tabChecking ∨ s.tab.received = none → exec .tabChecksComplete s = acked) ∧
    (∀ pos got, (s.isManager = false → s.hear (.tabOutcome pos got) = s) ∧
      (s.isManager = true → s.hear (.tabOutcome pos got) = { s with
        mgr := { s.mgr with loads := nset s.mgr.loads pos got }
        out := s.out ++ if got = none then [⟨.discardTab, []⟩] else [] })) ∧
    (st = tabLoaded → s.tab.newly = true → s.tab.earlier = none → ∃ t, exec .tabDiscard s = .next t ∧ t.tabState = tabEmpty ∧ t.tab.loaded = none ∧
      t.out = s.out ++ [⟨.ack, []⟩] ∧ t.mem = s.mem ∧ ∀ i, i < 4 → t.reg (mgtKey (0x108 + 8 * i)) = 0) ∧
    (∀ g, st = tabLoaded → s.tab.newly = true → s.tab.earlier = some g → ∃ t, exec .tabDiscard s = .next t ∧ t.tabState = tabLoaded ∧ t.tab.loaded = some g ∧
      t.tab.earlier = none ∧ t.tab.newly = false ∧ t.tab.pos = s.tab.earlierPos ∧
      (s.errs = [] → t.out = s.out ++ [⟨.tabLoaded, [(hdrTabId256 g).toNat]⟩])) ∧
    (st = tabEmpty ∨ st = tabRunning ∨ st = tabStopping ∨ (st = tabLoaded ∧ s.tab.newly = false) → exec .tabDiscard s = acked) ∧
    (st = tabReceiving ∨ st = tabChecking → ∃ t, exec .tabDiscard s = .next t ∧ t.tabState = back ∧ t.tab = { s.tab with received := none } ∧
      t.out = s.out ++ [⟨.ack, []⟩]) ∧
    (st = tabLoaded → s.isManager = true → s.allLoaded = false → exec .jobStart s = .next s) ∧
    (st = tabLoaded → s.isManager = false ∨ s.allLoaded = true →
      let u := (if s.isManager then s.say .startJob [] else s).clearStock
      ∃ t, exec .jobStart s = .next t ∧ t.tabState = tabRunning ∧ t.tab = { s.tab with earlier := none, newly := false } ∧
        t.job = { route := s.job.route, routeWant := s.job.routeWant, heldInputs := s.job.heldInputs } ∧ t.mem = u.mem ∧
        t.out = u.out ++ [⟨.ack, []⟩] ∧ (s.job.restored = true → t.mem = s.mem ∧ t.cores = s.cores) ∧
        (s.errs = [] → t.cores = s.cores) ∧
        ∀ b, s.isSpare b = false → (s.bench b).power ≠ 3 → (t.bench b).power = 0) ∧
    (st ≠ tabLoaded → exec .jobStart s = .next (s.say .tabRefused [if st = tabEmpty then codeNoTab else codeBusy, 0])) ∧
    (∀ f : Bool, ∃ t, exec (.jobStop f) s = .next t ∧ t.mem = s.mem ∧ t.cores = s.cores ∧ t.tab = s.tab ∧
      t.tabState = (if st = tabRunning then tabStopping else st) ∧ (st = tabRunning → t.job = { s.job with abandon := true }) ∧
      t.out = (if f ∧ st = tabRunning then s.out else s.out ++ [⟨.ack, []⟩])) ∧
    (st = tabStopping → s.job.inStep = false → ∃ t, exec .stoppingIdle s = .next t ∧ t.tabState = tabLoaded ∧ t.mem = s.mem ∧ t.job.cur = none ∧
      t.job.next = none ∧ t.job.abandon = false ∧ (∀ c, (t.core c).running = false ∧ (t.core c).sregs = (s.core c).sregs) ∧
      (s.job.thermal = false → t.benches = s.benches)) ∧
    (st = tabStopping → s.job.inStep = true → exec .stoppingIdle s = .next s) ∧ (st ≠ tabStopping → exec .stoppingIdle s = acked)

/-- A descriptor of the running tab is held as the current or the next one, when it follows the last and comes 2 µs ahead of its START; else
it is refused with the cause of R442 (R394 for THIN), or its step does not start, which the module reports once (R49). A term above the
module's own first replaces it. The manager sends a descriptor with its term 40 µs ahead, a replayed one with what the descriptor log holds
(R465). 2 µs before a step without a descriptor the module reports that. A segment start begins the next step or segment at its instant of the
timebase, ends the step after its last segment, and drops an abandoned step with both descriptors; CORE_SCARRY is 0 at its start (R46 to R48,
R230, R442). A deadline fault stops its step on the module; the manager answers the faults of one run by one stop and one rerun, from the last
commit where R360 or R361 asks for it, and a unit that has failed in an earlier run is reported as failed (R56). -/
def Obligations.StepsAndSegments : Prop :=
  ∀ s : State,
    let own := s.fld (mgtKey 0x1c0) 63 32
    (∀ d : StepDesc,
      let follows := match s.job.last with
        | none => 2000 + s.tbNow ≤ d.start.toNat
        | some l => d.replay = true ∨ (d.step = l.step + 1 ∧ d.start.toNat = l.start.toNat + hdrStepNs s.theTab)
      let refused := fun c => exec (.stepDescriptor d) s = .next (s.say .descriptorFault [s.tab.pos, d.step.toNat, c])
      let mine := s.tabState = tabRunning ∧ d.tab.toNat = hdrTabId s.theTab 0
      let room := s.job.cur = none ∨ s.job.next = none
      let early := s.job.last = none ∨ 2000 + s.tbNow ≤ d.start.toNat
      let j := { s.job with
        last := some d, missed := if s.job.missed = some d.step.toNat then none else s.job.missed
        heldInputs := if s.job.last = none then s.job.heldInputs.filter (· == d.step.toNat) else s.job.heldInputs }
      (s.tabState ≠ tabRunning → refused 8) ∧ (s.tabState = tabRunning → d.tab.toNat ≠ hdrTabId s.theTab 0 → refused 1) ∧
      (mine → own < d.term.toNat → exec (.stepDescriptor d) s = exec (.stepDescriptor d) (s.raiseTerm d.term.toNat)) ∧
      (mine → d.term.toNat < own → refused 2) ∧ (mine → d.term.toNat = own → ¬ room → refused 3) ∧
      (mine → d.term.toNat = own → room → s.job.last = none → d.start.toNat < 2000 + s.tbNow → refused 4) ∧
      (∀ l, mine → d.term.toNat = own → room → s.job.last = some l → d.replay = false → d.step ≠ l.step + 1 → refused 5) ∧
      (∀ l, mine → d.term.toNat = own → room → s.job.last = some l → d.replay = false → d.step = l.step + 1 →
        d.start.toNat ≠ l.start.toNat + hdrStepNs s.theTab → refused 6) ∧
      (mine → d.term.toNat = own → room → follows → s.thinOk d.thin.toNat = false → refused 7) ∧
      (mine → d.term.toNat = own → room → follows → s.thinOk d.thin.toNat = true → ¬ early →
        exec (.stepDescriptor d) s = .next (s.missStep d.step.toNat)) ∧
      (mine → d.term.toNat = own → follows → s.thinOk d.thin.toNat = true → early →
        (s.job.cur = none → exec (.stepDescriptor d) s = .next { s with job := { j with cur := some d, stepDone := false } }) ∧
        (∀ e, s.job.cur = some e → s.job.next = none → exec (.stepDescriptor d) s = .next { s with job := { j with next := some d } }))) ∧
    (∀ d : StepDesc,
      let may := s.isManager = true ∧ 40000 + s.tbNow ≤ d.start.toNat ∧ ∀ l, s.mgr.lastSent = some l → l.start.toNat ≤ s.tbNow
      let sent := fun (e : StepDesc) runs => Host.Outcome.next ({ s with mgr := { s.mgr with
        lastSent := some e, descLog := s.mgr.descLog ++ [e], runs := runs } }.say .descriptor (descWords e))
      let own := BitVec.ofNat 32 own
      let rerun := nset s.mgr.runs d.step.toNat (nget s.mgr.runs d.step.toNat 0 + 1)
      let logged := s.mgr.descLog.find? fun e => e.step == d.step
      (may → d.replay = false → exec (.stepDescriptorSend d) s = sent { d with term := own } s.mgr.runs) ∧
      (may → d.replay = true → logged = none → exec (.stepDescriptorSend d) s = sent { d with term := own } rerun) ∧
      (∀ e, may → d.replay = true → logged = some e → exec (.stepDescriptorSend d) s =
        sent { d with bank := e.bank, thin := e.thin, seedEpoch := e.seedEpoch, term := own } rerun) ∧
      (¬ may → exec (.stepDescriptorSend d) s = .next s)) ∧
    (∀ l, s.tabState = tabRunning → s.nextDesc = none → s.job.last = some l →
      let u := s.reach (s.atTb (l.start.toNat + hdrStepNs s.theTab - 2000))
      let n := l.step.toNat + 1
      (s.job.missed = some n → exec .descriptorDeadline s = .next u) ∧
      (s.job.missed ≠ some n → exec .descriptorDeadline s =
        .next ({ u with job := { u.job with missed := some n } }.say .descriptorDeadline [s.tab.pos, s.job.seg, n]))) ∧
    (∀ d, s.nextDesc = some d → exec .descriptorDeadline s = .next s) ∧
    (∀ d g, s.job.inStep = false → s.tabState = tabRunning → s.nextDesc = some d → segOf s.theTab 0 = some g → ∃ t,
      exec .segmentStart s = .next t ∧ t.now = max s.now (s.segInstant d 0) ∧ t.job.inStep = true ∧ t.job.cur = some d ∧ t.job.seg = 0 ∧
      t.job.segStart = s.segInstant d 0 ∧ t.job.commitRow = 0 ∧ t.job.windows = [] ∧ t.tab = s.tab ∧
      ∀ c, t.reg (coreKey c 0x18) = 0) ∧
    (∀ d g, s.job.inStep = true → s.job.cur = some d → s.job.abandon = false → s.job.seg + 1 < hdrSegments s.theTab →
      segOf s.theTab (s.job.seg + 1) = some g → ∃ t, exec .segmentStart s = .next t ∧ max s.now (s.segInstant d (s.job.seg + 1)) ≤ t.now ∧
        t.job.inStep = true ∧ t.job.cur = some d ∧ t.job.next = s.job.next ∧ t.job.seg = s.job.seg + 1 ∧
        t.job.segStart = s.segInstant d (s.job.seg + 1) ∧ t.job.windows = [] ∧ t.tab = s.tab ∧ ∀ c, t.reg (coreKey c 0x18) = 0) ∧
    (∀ d, s.job.inStep = true → s.job.cur = some d → hdrSegments s.theTab ≤ s.job.seg + 1 → s.job.abandon = false → s.job.next = none →
      ∃ t, exec .segmentStart s = .next t ∧ max s.now (s.atTb (d.start.toNat + hdrStepNs s.theTab)) ≤ t.now ∧ t.job.inStep = false ∧
        t.job.stepDone = true ∧ t.job.cur = some d ∧ (s.tabState = tabRunning → t.job.missed = some (d.step.toNat + 1))) ∧
    (∀ d e g, s.job.inStep = true → s.job.cur = some d → hdrSegments s.theTab ≤ s.job.seg + 1 → s.job.abandon = false → s.job.next = some e →
      s.tabState = tabRunning → segOf s.theTab 0 = some g → ∃ t, exec .segmentStart s = .next t ∧ max s.now (s.segInstant e 0) ≤ t.now ∧
        t.job.inStep = true ∧ t.job.cur = some e ∧ t.job.seg = 0 ∧ t.job.segStart = s.segInstant e 0 ∧ t.job.commitRow = 0 ∧
        ∀ c, t.reg (coreKey c 0x18) = 0) ∧
    (∀ d, s.job.inStep = true → s.job.cur = some d → s.job.abandon = true → ∃ t, exec .segmentStart s = .next t ∧ t.job.inStep = false ∧
      t.job.cur = none ∧ t.job.next = none ∧ t.job.abandon = false ∧ t.job.stoppedStep = some d.step.toNat) ∧
    (∀ (u : UnitRef) (n : BitVec 40) (applied skew : Bool),
      let halted := { s.job with abandon := s.job.abandon || (s.job.inStep && s.stepNo == n.toNat) }
      let run := nget s.mgr.runs n.toNat 0
      let again := ∃ f ∈ s.mgr.faults, f.1 = n.toNat ∧ f.2.1 = unitNum u ∧ f.2.2.1 < run
      let mine := s.mgr.faults.filter fun f => f.1 == n.toNat && f.2.2.1 == run
      let restore := applied || skew || s.job.lastApply == some n.toNat
      let from' := s.mgr.committed.getD 0
      let noted := fun x => Host.Outcome.next { s with
        job := halted, mgr := { s.mgr with faults := (n.toNat, unitNum u, run, restore.toNat) :: s.mgr.faults }, out := s.out ++ x }
      (s.isManager = false → exec (.deadlineFault u ⟨n, applied, skew⟩) s = .next { s with job := halted }) ∧
      (s.isManager = true → again → exec (.deadlineFault u ⟨n, applied, skew⟩) s = noted [⟨.unitFailed, [u.pos, u.die, u.bench.toNat]⟩]) ∧
      (s.isManager = true → ¬ again → exec (.deadlineFault u ⟨n, applied, skew⟩) s = noted
        ((if mine = [] then [⟨.stopStep, [n.toNat]⟩] else []) ++
          (if restore = true ∧ ∀ f ∈ mine, f.2.2.2 = 0 then [⟨.restoreFrom, [from']⟩] else []) ++
          (if mine = [] then [⟨.rerunStep, [if skew then from' + 1 else n.toNat]⟩] else []))))

/-- A tuning window opens in its segment and ends after its length (R75). An atom acts only in an open window that frees its unit for its
class (R77): a refresh lowers the debt, a rate read sets the channel's rate and one at the limit or above is DRAM fault 1, a scrub counts,
a self-test sets BENCH_SELFTEST and a failed one counts, a sweep with a reading of 95 °C or more sets HOT (R342 to R346, R502, R508, R578, R579).
A request that its window did not serve goes to the next one that frees its units for its class (R78). -/
def Obligations.TuningWindows : Prop :=
  ∀ (entry : Nat) (s : State),
    (∀ w, s.myWindows[entry]? = some w → s.job.inStep = true → s.job.seg = w.seg → s.job.windows.contains entry = false →
      exec (.tuningWindowOpen entry) s = .next ({ s with job := { s.job with windows := s.job.windows ++ [entry] } }.reach
        (s.job.segStart + 4 * w.start))) ∧
    (∀ w, s.myWindows[entry]? = some w → s.job.inStep = false ∨ s.job.seg ≠ w.seg ∨ s.job.windows.contains entry = true →
      exec (.tuningWindowOpen entry) s = .next s) ∧
    (∀ (c : ChanId) (sub : Fin 2),
      let k := 2 * c.chan.val + sub.val
      (s.openFor entry 0 (chanUnit c) = true → ∃ t, exec (.maintenanceAtom entry (.refresh c sub)) s = .next t ∧ t.mem = s.mem ∧
        t.csr = s.csr ∧ nget (t.hub c.hub).debt k 0 = nget (s.hub c.hub).debt k 0 - 1 ∧
        ∀ j, j ≠ k → nget (t.hub c.hub).debt j 0 = nget (s.hub c.hub).debt j 0) ∧
      (s.openFor entry 0 (chanUnit c) = false → exec (.maintenanceAtom entry (.refresh c sub)) s = .next s)) ∧
    (∀ (c : ChanId) (r : BitVec 2), s.openFor entry 0 (chanUnit c) = true → r ≠ 3 →
      let f := 2 * (c.chan.val % 28)
      ∃ t, exec (.maintenanceAtom entry (.rateRead c r)) s = .next t ∧ t.mem = s.mem ∧
        t.fld (hubKey c.hub (0x428 + 8 * (c.chan.val / 28))) (f + 1) f = r.toNat ∧
        (r.toNat < s.fld (hubKey c.hub 0x420) 1 0 → t.reg (hubKey c.hub 0x438) = s.reg (hubKey c.hub 0x438)) ∧
        (s.fld (hubKey c.hub 0x420) 1 0 ≤ r.toNat → (s.hub c.hub).dramFaulted = false → t.fld (hubKey c.hub 0x438) 1 0 = 1 ∧
          t.fld (hubKey c.hub 0x438) 2 2 = 1)) ∧
    (∀ (b : BenchId) n, s.openFor entry 3 (s.benchUnit b) = true →
      ∃ t, exec (.maintenanceAtom entry (.scrub b n)) s = .next t ∧ SameButCounters s t) ∧
    (∀ (b : BenchId) (r : Fin 4), s.openFor entry 4 (s.benchUnit b) = true → ∃ t, exec (.maintenanceAtom entry (.selfTest b r)) s = .next t ∧
      t.mem = s.mem ∧ t.cores = s.cores ∧ t.fld (benchKey b 0x290) 1 0 = (if r.val = 0 then 1 else 2) ∧
      (r.val ≠ 0 → t.fld (benchKey b 0x290) 3 2 = r.val - 1 ∧
        t.fld (benchKey b 0x290) 31 16 = min (s.fld (benchKey b 0x290) 31 16 + 1) 0xffff)) ∧
    (∀ (die : Fin 64) v i, (blockOf die 0xf0 0).isSome = true → s.openFor entry 2 (s.dieUnit die) = true → s.mgt.sensors = [] →
      ∀ x : BitVec 16, 0 ≤ x.toInt → x.toInt ≤ 105 * 16 → ∃ t, exec (.maintenanceAtom entry (.sensorSweep die [x] v i)) s = .next t ∧ t.mem = s.mem ∧
        t.fld (mgtKey 0x208) 7 0 = x.toNat / 16 ∧ t.fld (mgtKey 0x208) 13 8 = die.val ∧
        t.fld (mgtKey 0x208) 20 20 = (if 95 * 16 ≤ x.toInt then 1 else 0) ∧ t.out = s.out) ∧
    (∀ w, s.myWindows[entry]? = some w → s.job.windows.contains entry = true → ∃ t, exec (.tuningWindowEnd entry) s = .next t ∧
      t.now = max s.now (s.job.segStart + 4 * (w.start + w.length)) ∧ t.job.windows = s.job.windows.erase entry ∧ t.mem = s.mem ∧
      (s.job.queued = [] → t.job.queued = [] ∧ t.csr = s.csr) ∧
      ∀ t0 us cls, s.job.queued = [(entry, t0, us, cls)] →
        let u := s.reach (s.job.segStart + 4 * (w.start + w.length))
        (t0 < u.tbNow → t.job.queued = ((u.nextWindow us cls).map fun p => (p.1, p.2, us, cls)).toList) ∧
        (u.tbNow ≤ t0 → t.job.queued = s.job.queued)) ∧
    (s.job.windows.contains entry = false → exec (.tuningWindowEnd entry) s = .next s)

/-! Boot, security and management. -/

/-- PORST_L, a fall of PWROK, a loss of VAON and a power-up leave every register at its reset value but what is said to stay, empty all
memory, stop every unit and keep the flash; WRST_L, while PORST_L and PWROK are high, keeps the contents of LPDDR6, which goes to self-refresh,
the vault and the timebase; a loss of REF_CLK is beyond the module (R348, R445, R594 to R596). BOOT acts only with the supplies up and STATE 0:
it counts, holds with reason 9 when no copy of the record is intact (10 when an identity fails), loads the factory special-function images
at order 5 (R249), and ends READY or HELD (R537, R546, R547, R557). The watchdogs count from the reset (log 44).
A record update writes the three copies with the next SEQ (R538). -/
def Obligations.ResetsAndBoot : Prop :=
  ∀ s : State,
    let fresh := fun (t : State) (warm : Bool) => t.cores = [] ∧ t.benches = [] ∧ t.dies = [] ∧ t.ports = [] ∧ t.tab = {} ∧ t.job = {} ∧
      t.mgt.sessions = [] ∧ t.mgt.ring = [] ∧ t.mgt.wdogKicked = [(0, s.now), (1, s.now)] ∧ t.mgt.vault = s.mgt.vault ∧ t.flash = s.flash ∧ t.now = s.now ∧ t.out = s.out ∧ t.pending = s.pending ∧
      ∀ k, keepMask warm (storeKey k) = 0 → t.reg k = regReset 0 k
    let bare := fun (t : State) => fresh t false ∧ t.mem = [] ∧ t.poison = [] ∧ t.errs = [] ∧ t.hubs = []
    let kept := fun (t : State) => fresh t true ∧ t.tbNow = s.tbNow ∧ (∀ h : Hub, t.hub h = { selfRefresh := true }) ∧
      (MemInv s → ∀ a, memGet t.mem a = if a < 0x0a8000000000 then memGet s.mem a else memDefault)
    (∃ t, exec .porstAssert s = .next t ∧ bare t ∧ t.tbNow = 0 ∧ t.pins = { s.pins with svcReq := false, thermTrip := false, porstL := false }) ∧
    (∃ t, exec .pwrokFall s = .next t ∧ bare t ∧ t.pins.pwrok = false ∧ t.pins.railsUp = false) ∧
    (∃ t, exec .powerUp s = .next t ∧ bare t ∧ t.pins.pwrok = true ∧ t.pins.railsUp = true ∧ t.pins.vaon = true ∧ t.pins.porstL = false) ∧
    (∃ t, exec .vaonLoss s = .next t ∧ t.mem = [] ∧ t.cores = [] ∧ t.flash = s.flash ∧ t.fld (mgtKey 0x208) 21 21 = 0 ∧ t.pins.vaon = false) ∧
    (s.pins.porstL = true → s.pins.pwrok = true → ∃ t, exec .wrstAssert s = .next t ∧ kept t ∧ t.pins.wrstL = false) ∧
    (s.pins.porstL = false ∨ s.pins.pwrok = false → exec .wrstAssert s = .next { s with pins := { s.pins with wrstL := false } }) ∧
    (∃ t, exec .refClkLoss s = .next t ∧ t.pins = { s.pins with refClk := false } ∧ t.mem = s.mem ∧
      t.out = if s.pins.pwrok then s.out ++ [⟨.beyondModule, [s.tab.pos, 40, 0xf0]⟩] else s.out) ∧
    (∀ (n : Fin 10) failed,
      let ready := s.pins.pwrok = true ∧ s.pins.railsUp = true ∧ s.pins.vaon = true ∧ s.fld (mdKey 0 0x300) 2 0 = 0 ∧ s.sec.held = false
      let ok := Config.pufOk 0 && Config.pufOk 1
      (¬ ready → exec (.boot n failed) s = .next s) ∧
      (ready → n.val = 0 → ∃ t, exec (.boot n failed) s = .next t ∧ t.mem = s.mem ∧ t.out = s.out ∧ t.pins.porstL = true ∧ ∀ m : Md,
        t.fld (mdKey m 0x300) 47 32 = min (s.fld (mdKey m 0x300) 47 32 + 1) 0xffff ∧ t.fld (mdKey m 0x300) 2 0 = s.fld (mdKey m 0x300) 2 0) ∧
      (ready → 2 ≤ n.val → inForce s.flash.copies = none → ∃ t, exec (.boot n failed) s = .next t ∧ t.sec.held = true ∧
        t.pins.svcReq = true ∧ t.flash = s.flash ∧ (∀ m : Md, t.fld (mdKey m 0x300) 2 0 = 4 ∧
          t.fld (mdKey m 0x300) 11 8 = (if ok then 9 else 10) ∧ t.fld (mdKey m 0x300) 4 3 = 3) ∧
        (∀ e ∈ t.mem, 0x0a8000000000 ≤ e.1) ∧ (s.benches = [] → ∀ b, (t.bench b).power = 3)) ∧
      (ready → 5 ≤ n.val → ∃ t, exec (.boot n failed) s = .next t ∧
        (t.sec.held = false → t.sec.sfsLoaded = true ∧ ∀ c, (t.core c).sfsWords = [])) ∧
      (ready → n.val = 9 → ∃ t, exec (.boot n failed) s = .next t ∧
        ((t.fld (mdKey 0 0x300) 2 0 = 3 ∧ t.sec.held = false) ∨ (t.fld (mdKey 0 0x300) 2 0 = 4 ∧ t.sec.held = true)))) ∧
    (∃ t, exec .recordUpdate s = .next t ∧ t.mem = s.mem ∧ t.csr = s.csr ∧ t.sec.record = { s.sec.record with
        service := BitVec.ofNat 4 (s.fld (mgtKey 0x1e0) 3 0), retiredPkg := s.fld (mgtKey 0x1e0) 22 16 } ∧
      t.flash = { s.flash with copies := s.flash.copies.map fun _ => ⟨true, true, s.recordSeq + 1, t.sec.record⟩ })

/-- In HELD the recovery service gives the SEC_ registers, and, but for reason 10, takes an image into a slot and a reset (R548). The
verification of an upload sets PENDING and clears TRIED when the slot passes, and leaves the record else, with its reason (R545, R553). A
session opens in the orders of R556: out of form is MALFORMED, a ninth one or a number in use is BUSY, a signature of no key of the access list
drops the session; one that verifies opens it with the key's permissions. An idle session closes after 300 s (R576). -/
def Obligations.RecoveryAndSessions : Prop :=
  ∀ (md : Md) (s : State),
    (exec (.recoveryStatus md) s = .next (if s.sec.held then s.say .recoveryReply (md.val :: (List.range 15).map fun i =>
      (s.reg (storeKey (mdKey md (0x300 + 8 * i)))).toNat) else s)) ∧
    (let acts := s.sec.held = true ∧ s.fld (mdKey 0 0x300) 11 8 ≠ 10
     (∀ (slot : Fin 2) img, (acts → exec (.recoveryUpload slot img) s =
        .next { s with flash := { s.flash with slots := s.flash.slots.set slot (some img) } }) ∧
        (¬ acts → exec (.recoveryUpload slot img) s = .next s)) ∧
      (acts → exec .recoveryReset s = .next s.warmReset) ∧ (¬ acts → exec .recoveryReset s = .next s)) ∧
    (∀ rq slot, s.sec.upload = some (rq, slot) →
      let r := s.sec.record
      let why := slotReason (s.slotAt slot) (s.reg (mgtKey 0)).toNat (validDelegation r) r.vendorKey r.minSvn.toNat
      ∃ t, exec .imageVerifyComplete s = .next t ∧ t.mem = s.mem ∧ t.sec.upload = none ∧
        t.sec.record = (if why = 0 then { r with pending := slot, tried := 0 } else r) ∧ t.fld (mdKey md 0x370) 1 0 = 0 ∧
        t.fld (mdKey md 0x370) 6 4 = (if why = 0 then 1 else 4) ∧ (why ≠ 0 → t.fld (mdKey md 0x370) 11 8 = why ∧ t.flash = s.flash) ∧
        t.out = s.out ++ [⟨.reply, [rq.md.val, rq.session.toNat, rq.seq.toNat] ++ if why = 0 then [0, 1] else [5, 4]⟩]) ∧
    (s.sec.upload = none → exec .imageVerifyComplete s = .next s) ∧
    (∀ (id : BitVec 32) ek nonce,
      let refused := fun st => ∃ t, exec (.sessionOpenRequest md id ek nonce) s = .next t ∧
        t = { s with ctr := t.ctr, out := s.out ++ [⟨.sessionReply, [md.val, id.toNat, st]⟩] }
      (s.portUp md = false → exec (.sessionOpenRequest md id ek nonce) s = .next s) ∧
      (s.portUp md = true → ek.length ≠ 1184 ∨ nonce.length ≠ 32 → refused 4) ∧
      (s.portUp md = true → ek.length = 1184 → nonce.length = 32 → 8 ≤ s.sessionsOf md ∨ (s.session? md id.toNat).isSome = true → refused 2) ∧
      (s.portUp md = true → ek.length = 1184 → nonce.length = 32 → s.sessionsOf md < 8 → s.session? md id.toNat = none →
        ∃ t x data, exec (.sessionOpenRequest md id ek nonce) s = .next t ∧ t.mgt.sessions = s.mgt.sessions ++ [x] ∧ x.md = md.val ∧
          x.id = id.toNat ∧ x.opened = false ∧ x.perms = 0 ∧ x.lastUse = s.now ∧ t.out = s.out ++ [⟨.sessionReply, md.val :: id.toNat :: 0 :: data⟩] ∧
          t.mem = s.mem ∧ t.csr = s.csr)) ∧
    (∀ (id : BitVec 32) sig,
      (s.session? md id.toNat = none → exec (.sessionOpenConfirm md id sig) s = .next (s.countMd md 0xb9)) ∧
      (∀ x, s.session? md id.toNat = some x → x.opened = true → exec (.sessionOpenConfirm md id sig) s = .next (s.countMd md 0xb9)) ∧
      (∀ x, s.session? md id.toNat = some x → x.opened = false →
        let key := s.accessList.find? fun k => Config.mldsaVerify k.1 x.transcript sig
        ∃ t, exec (.sessionOpenConfirm md id sig) s = .next t ∧ t.mem = s.mem ∧ t.csr = s.csr ∧
          t.session? md id.toNat = key.map (fun k => { x with
            opened := true, rxKey := (sessionKeys x).take 32, txKey := (sessionKeys x).drop 32, perms := k.2 &&& 0x7f#16, lastUse := s.now }) ∧
          t.out = s.out ++ [⟨.sessionReply, [md.val, id.toNat, if key.isSome then 0 else 1]⟩])) ∧
    (∀ id : BitVec 32, (s.session? md id.toNat = none → exec (.sessionIdleTimeout md id) s = .next s) ∧
      ∀ x, s.session? md id.toNat = some x → ∃ t, exec (.sessionIdleTimeout md id) s = .next t ∧ t.session? md id.toNat = none ∧
        t.mem = s.mem ∧ t.out = s.out ∧ t.now = if 2 ^ 32 ≤ x.requests then s.now else max s.now (x.lastUse + 300 * 4000000000))

/-- A poll that answers enters the reading, and the third in a row without an answer marks it invalid (R565, R566). An entry of the log carries
its time, SEQ, step and location, and a pinned one goes to flash while there is room (R568 to R570). A watchdog's expiry in boot is a warm
reset, later it restarts the controller, and a second within 10 s is beyond the module (R555, R563); so is a third restart of a host's software
within an hour (R561). A drive that is out stops the vault (R574). The loader places each sample whole or in two pieces of a bucket's length at
most, no two pieces in one slot, drops those that fit no placement and holds the rest back; the slots of a
bucket are filled in the order of the step plan (R619; log 46), a split's span stands in both its slots, the inputs of the step are held from
here on, and another step's packing waits for those it must keep (R32, R66 to R69). -/
def Obligations.HostsAndDevices : Prop :=
  ∀ s : State,
    (∀ (dev : Fin 32) (v : BitVec 16), exec (.i3cPoll dev (some v)) s = .next { s with mgt := { s.mgt with
      sensors := nset s.mgt.sensors (sensorKey 3 0 dev) (v, true, s.tbNow), i3cMisses := nerase s.mgt.i3cMisses dev } }) ∧
    (∀ dev : Fin 32, ∃ t, exec (.i3cPoll dev none) s = .next t ∧ t.mem = s.mem ∧ t.out = s.out ∧
      nget t.mgt.i3cMisses dev 0 = nget s.mgt.i3cMisses dev 0 + 1 ∧ (nget s.mgt.i3cMisses dev 0 ≠ 2 → t.mgt.sensors = s.mgt.sensors) ∧
      (∀ r, nget s.mgt.i3cMisses dev 0 = 2 → nget? s.mgt.sensors (sensorKey 3 0 dev) = some r →
        nget? t.mgt.sensors (sensorKey 3 0 dev) = some (r.1, false, r.2.2))) ∧
    (s.flash.log.length < 262143 → ∀ (md : Md) (sev : Fin 4) (pin : Bool) (code : BitVec 16) (loc : BitVec 21) (data : BitVec 224),
      let e : LogRec := ⟨s.tbNow, nget s.mgt.nextSeq md 0 % 2 ^ 32, md, sev, pin, code.toNat, s.stepNo, loc.toNat, data.toNat⟩
      (∃ t, exec (.logEntry md sev pin code loc data) s = .next t ∧ t.mem = s.mem ∧ t.out = s.out ∧
        t.flash.log = (if pin then s.flash.log ++ [e] else s.flash.log) ∧ (pin = false → t.mgt.ring.getLast? = some e) ∧
        nget t.mgt.nextSeq md 0 = nget s.mgt.nextSeq md 0 + 1) ∧
      (∀ (dev : Fin 32) (w : BitVec 16), ∃ t r, exec (.i3cInBandInterrupt dev w) s = .next t ∧ t.mem = s.mem ∧
        t.mgt.ring.getLast? = some r ∧ r.md = 1 ∧ r.severity = 0 ∧ r.data = 2 ^ 16 * dev + w.toNat)) ∧
    (∀ md : Md,
      let wdog := mdKey md 0x400
      (s.fld (mdKey md 0x300) 2 0 ≠ 3 → ∃ t, exec (.watchdogExpiry md) s = .next t ∧ t.cores = [] ∧ t.tab = {} ∧ t.flash = s.flash ∧
        t.now = max s.now (nget s.mgt.wdogKicked md 0 + 480000000000)) ∧
      (s.fld (mdKey md 0x300) 2 0 = 3 → ∃ t, exec (.watchdogExpiry md) s = .next t ∧ t.mem = s.mem ∧ t.cores = s.cores ∧ t.tab = s.tab ∧
        t.now = max s.now (nget s.mgt.wdogKicked md 0 + 4000000 * s.fld wdog 15 0) ∧
        t.fld wdog 47 32 = min (s.fld wdog 47 32 + 1) 0xffff ∧ nget? t.mgt.wdogExpired md = some t.now ∧
        (nget? s.mgt.wdogExpired md = none → t.out = s.out) ∧
        (∀ x, nget? s.mgt.wdogExpired md = some x → t.now ≤ 40000000000 + x →
          t.out = s.out ++ [⟨.beyondModule, [s.tab.pos, 40 + md.val, 0xf0]⟩]))) ∧
    (∀ md : Md,
      let recent := (s.mgt.hostRestarts.filter fun r => r.1 == md.val && decide (s.now ≤ 14400000000000 + r.2)).length
      ∃ t, exec (.hostRestart md) s = .next t ∧ t.mem = s.mem ∧ t.mgt.hostRestarts = s.mgt.hostRestarts ++ [(md.val, s.now)] ∧
        (recent < 2 → t.out = s.out ∧ t.mgt.hostDown = s.mgt.hostDown) ∧
        (2 ≤ recent → smem t.mgt.hostDown md.val = true ∧ t.out = s.out ++ [⟨.beyondModule, [s.tab.pos, 40 + md.val, 0xf0]⟩])) ∧
    (∀ d : Nat, (∃ t, exec (.driveRemoval d) s = .next t ∧ t.mem = s.mem ∧ t.out = s.out ∧ t.mgt.drivesOut = sinsert s.mgt.drivesOut d) ∧
      exec (.driveReplacement d) s = .next { s with mgt := { s.mgt with drivesOut := serase s.mgt.drivesOut d } }) ∧
    (∀ (step : BitVec 40) (xs : List Sample) (maps : List (Addr × List Byte)),
      let bs := bucketsOf s.theTab
      let from' := (nget? s.loader.marks step.toNat).getD (s.loader.cursor, s.loader.held)
      let all := from'.2 ++ xs
      let p := pack bs (hdrPolicy s.theTab) all
      let q := p.inSlots bs (planOf s.theTab)
      let waits := s.hostsUp = false ∨ s.tab.loaded = none ∨ ∃ n ∈ s.job.heldInputs, n ≠ step.toNat
      (waits → exec (.loaderPack step ⟨xs, maps⟩) s = .next s) ∧
      (¬ waits → ∃ t, exec (.loaderPack step ⟨xs, maps⟩) s = .next t ∧ (s.errs = [] → t.cores = s.cores ∧ t.out = s.out) ∧
        t.loader.cursor = from'.1 + xs.length ∧ t.loader.held = p.held ∧ t.loader.oversize = s.loader.oversize + p.dropped ∧
        nget? t.loader.marks step.toNat = some from' ∧ t.loader.step = step.toNat ∧ t.job.heldInputs = sinsert s.job.heldInputs step.toNat ∧
        t.loader.placed = (q.placed.map fun e => (e.1.id, e.2.bucket, e.2.slot, e.2.tokenOff)) ∧ t.loader.spans = q.spans) ∧
      p.dropped = (all.filter fun x => neverFits bs (hdrPolicy s.theTab) x.tokens).length ∧
      p.held.Sublist all ∧ (p.placed.map fun e => (e.2.bucket, e.2.slot)).Nodup ∧
      (q.placed.map fun e => (e.2.bucket, e.2.slot)).Nodup ∧ (∀ e ∈ q.placed, e.2.slot < slotsOf bs e.2.bucket) ∧
      (∀ e ∈ p.placed, e.1 ∈ all ∧ e.2.slot < slotsOf bs e.2.bucket ∧ e.2.tokenOff + e.2.count ≤ e.1.tokens) ∧
      (bs.Pairwise (fun a b => a.len ≤ b.len) → ∀ e ∈ p.placed, ∀ b, bs[e.2.bucket]? = some b → e.2.count ≤ b.len))
end

