-- ==== Sys2Proof/Laws/Memory.lean ====
section
/-!
SUPPORT. Laws of memory in its canonical form, and of the sparse maps: a read after a write at the same place gives what was written,
a write leaves every other place alone, and every write keeps the form.
-/
namespace Sys2Proof.Machine

/-! Sparse maps. -/

@[simp] theorem nget?_nset_self {β : Type} (m : NMap β) (i : Nat) (x : β) : nget? (nset m i x) i = some x := by
  induction m with
  | nil => simp [nset, nget?]
  | cons e m ih =>
    obtain ⟨k, v⟩ := e
    unfold nset
    split
    · simp [nget?]
    · split
      · simp_all [nget?]
      · rename_i h1 h2; simp [nget?, h1, h2, ih]

theorem nget?_nset_other {β : Type} (m : NMap β) (i j : Nat) (x : β) (h : j ≠ i) :
    nget? (nset m i x) j = nget? m j := by
  induction m with
  | nil => simp [nset, nget?, h]
  | cons e m ih =>
    obtain ⟨k, v⟩ := e
    unfold nset
    split
    · rename_i h1
      simp only [nget?, h, if_false]
      split
      · simp [show j ≠ k by omega, show j < k by omega]
      · rfl
    · split
      · rename_i h1 h2; subst h2; simp [nget?, h]
      · simp only [nget?, ih]

@[simp] theorem nget_nset_self {β : Type} (m : NMap β) (i : Nat) (x d : β) : nget (nset m i x) i d = x := by
  simp [nget]

theorem nget_nset_other {β : Type} (m : NMap β) (i j : Nat) (x d : β) (h : j ≠ i) : nget (nset m i x) j d = nget m j d := by
  simp [nget, nget?_nset_other m i j x h]

/-! One byte. -/

/-- Everything above `lo` lies above it. -/
theorem memWfFrom_mono {lo lo' : Option Nat} {m : List Host.Cell} (h : memWfFrom lo m = true)
    (hl : ∀ l', lo' = some l' → ∃ l, lo = some l ∧ l' ≤ l) : memWfFrom lo' m = true := by
  cases m with
  | nil => rfl
  | cons e m =>
    obtain ⟨k, v⟩ := e
    cases lo' with
    | none => cases lo <;> simp_all [memWfFrom]
    | some l' =>
      obtain ⟨l, rfl, hle⟩ := hl l' rfl
      simp [memWfFrom] at h ⊢
      exact ⟨⟨by omega, h.1.2⟩, h.2⟩

theorem memErase_wfFrom {lo : Option Nat} {m : List Host.Cell} (a : Nat) (h : memWfFrom lo m = true) :
    memWfFrom lo (memErase m a) = true := by
  induction m generalizing lo with
  | nil => rfl
  | cons e m ih =>
    obtain ⟨k, v⟩ := e
    have hk := h
    simp [memWfFrom] at h
    unfold memErase
    split
    · refine memWfFrom_mono h.2 fun l' hl => ⟨k, rfl, ?_⟩
      subst hl; have := h.1.1; simp at this; omega
    · split
      · exact hk
      · simp [memWfFrom, h.1, ih h.2]

theorem memInsert_wfFrom {lo : Option Nat} {m : List Host.Cell} (a : Nat) {x : Byte} (hx : x ≠ memDefault)
    (hl : ∀ l, lo = some l → l < a) (h : memWfFrom lo m = true) : memWfFrom lo (memInsert m a x) = true := by
  induction m generalizing lo with
  | nil => cases lo <;> simp [memInsert, memWfFrom, hx]; exact hl _ rfl
  | cons e m ih =>
    obtain ⟨k, v⟩ := e
    have hd := h
    simp [memWfFrom] at h
    unfold memInsert
    split
    · rename_i h1
      cases lo <;> simp [memWfFrom, hx, h1, h.1.2, h.2]; exact hl _ rfl
    · split
      · simp_all [memWfFrom]
      · rename_i h1 h2
        simp [memWfFrom, h.1, ih (lo := some k) (fun l hl => by simp at hl; omega) h.2]

/-- A write keeps the canonical form. -/
theorem memSet_wf {m : List Host.Cell} (a : Nat) (x : Byte) (h : Memory.wf m = true) : Memory.wf (memSet m a x) = true := by
  unfold memSet
  split
  · exact memErase_wfFrom a h
  · exact memInsert_wfFrom a ‹_› (by simp) h

theorem memGet_below {lo : Nat} {m : List Host.Cell} (h : memWfFrom (some lo) m = true) (a : Nat) (ha : a ≤ lo) :
    memGet m a = memDefault := by
  cases m with
  | nil => rfl
  | cons e m =>
    obtain ⟨k, v⟩ := e
    simp [memWfFrom] at h
    simp [memGet, show a ≠ k by omega, show a < k by omega]

theorem memGet_memErase {lo : Option Nat} {m : List Host.Cell} (h : memWfFrom lo m = true) (a b : Nat) :
    memGet (memErase m a) b = if b = a then memDefault else memGet m b := by
  induction m generalizing lo with
  | nil => simp [memErase, memGet]
  | cons e m ih =>
    obtain ⟨k, v⟩ := e
    simp [memWfFrom] at h
    unfold memErase
    split
    · rename_i h1; subst h1
      split
      · rename_i h2; subst h2; exact memGet_below h.2 b (Nat.le_refl _)
      · rename_i h2
        simp only [memGet, h2, if_false]
        split
        · exact memGet_below h.2 b (by omega)
        · rfl
    · split
      · rename_i h1 h2
        simp only [memGet]
        split <;> split <;> simp_all <;> omega
      · rename_i h1 h2
        simp only [memGet, ih h.2]
        by_cases hba : b = a
        · subst hba; simp [h1, h2]
        · simp [hba]

theorem memGet_memInsert (m : List Host.Cell) (a b : Nat) (x : Byte) :
    memGet (memInsert m a x) b = if b = a then x else memGet m b := by
  induction m with
  | nil => simp [memInsert, memGet]
  | cons e m ih =>
    obtain ⟨k, v⟩ := e
    unfold memInsert
    split
    · rename_i h1
      simp only [memGet]
      by_cases hba : b = a
      · simp [hba]
      · simp only [hba, if_false]
        split
        · rename_i h2; simp [show b ≠ k by omega, show b < k by omega]
        · rfl
    · split
      · rename_i h1 h2; subst h2
        by_cases hba : b = a <;> simp [memGet, hba]
      · rename_i h1 h2
        simp only [memGet, ih]
        by_cases hba : b = a
        · subst hba; simp [h1, h2]
        · simp [hba]

/-- What a byte reads as after a write of one byte. -/
theorem memGet_memSet {m : List Host.Cell} (h : Memory.wf m = true) (a b : Nat) (x : Byte) :
    memGet (memSet m a x) b = if b = a then x else memGet m b := by
  unfold memSet
  split
  · rename_i hx; subst hx; exact memGet_memErase h a b
  · exact memGet_memInsert m a b x

/-! Runs of bytes. -/

theorem putBytes_wf (bs : List Byte) : ∀ (m : List Host.Cell) (k : Nat), Memory.wf m = true → Memory.wf (putBytes m k bs) = true := by
  induction bs with
  | nil => intro m k h; exact h
  | cons b bs ih => intro m k h; exact ih _ _ (memSet_wf k b h)

/-- What a byte reads as after a run of bytes was written: a byte of the run, or what it read as before. -/
theorem memGet_putBytes (bs : List Byte) : ∀ (m : List Host.Cell) (k : Nat), Memory.wf m = true → ∀ a,
    memGet (putBytes m k bs) a = if k ≤ a ∧ a < k + bs.length then bs.getD (a - k) 0 else memGet m a := by
  induction bs with
  | nil => intro m k _ a; simp [putBytes, show ¬(k ≤ a ∧ a < k) by omega]
  | cons b bs ih =>
    intro m k h a
    rw [putBytes, ih _ _ (memSet_wf k b h), memGet_memSet h]
    by_cases h1 : a = k
    · subst h1; rw [if_neg (by omega)]; simp
    · by_cases h2 : k ≤ a ∧ a < k + (b :: bs).length
      · simp only [List.length_cons] at h2
        have h3 : k + 1 ≤ a ∧ a < k + 1 + bs.length := by omega
        have h4 : a - k = (a - (k + 1)) + 1 := by omega
        simp only [h3, if_true, List.length_cons, h2, h4, List.getD_cons_succ, and_self]
      · have h3 : ¬(k + 1 ≤ a ∧ a < k + 1 + bs.length) := by simp only [List.length_cons] at h2; omega
        rw [if_neg h3, if_neg h1, if_neg h2]

/-- Dropping bytes keeps the canonical form. -/
theorem memFilter_wf (p : Host.Cell → Bool) {m : List Host.Cell} (h : Memory.wf m = true) : Memory.wf (m.filter p) = true := by
  suffices ∀ lo, memWfFrom lo m = true → memWfFrom lo (m.filter p) = true from this none h
  intro lo h
  induction m generalizing lo with
  | nil => rfl
  | cons e m ih =>
    obtain ⟨k, v⟩ := e
    simp [memWfFrom] at h
    rw [List.filter_cons]
    split
    · simp [memWfFrom, h.1, ih (by rename_i h0 _; simp_all [Memory.wf]; exact memWfFrom_mono h.2 (by simp)) _ h.2]
    · refine ih ?_ _ (memWfFrom_mono h.2 fun l' hl => ⟨k, rfl, ?_⟩)
      · exact memWfFrom_mono h.2 (by simp)
      · subst hl; have := h.1.1; simp at this; omega

end Sys2Proof.Machine
end

