-- ==== Sys2Proof/Laws/State.lean ====
section
/-!
SUPPORT. What each base update of the state leaves in each field, and what the accessors read after it.
-/
namespace Sys2Proof.Machine

variable (s : State)

@[simp] theorem State.pending_setCore (c : CoreId) (x : CoreState) : (s.setCore c x).pending = s.pending := rfl
@[simp] theorem State.now_setCore (c : CoreId) (x : CoreState) : (s.setCore c x).now = s.now := rfl
@[simp] theorem State.tbBase_setCore (c : CoreId) (x : CoreState) : (s.setCore c x).tbBase = s.tbBase := rfl
@[simp] theorem State.lastSync_setCore (c : CoreId) (x : CoreState) : (s.setCore c x).lastSync = s.lastSync := rfl
@[simp] theorem State.draws_setCore (c : CoreId) (x : CoreState) : (s.setCore c x).draws = s.draws := rfl
@[simp] theorem State.csr_setCore (c : CoreId) (x : CoreState) : (s.setCore c x).csr = s.csr := rfl
@[simp] theorem State.ctr_setCore (c : CoreId) (x : CoreState) : (s.setCore c x).ctr = s.ctr := rfl
@[simp] theorem State.cycle_setCore (c : CoreId) (x : CoreState) : (s.setCore c x).cycle = s.cycle := rfl
@[simp] theorem State.mem_setCore (c : CoreId) (x : CoreState) : (s.setCore c x).mem = s.mem := rfl
@[simp] theorem State.poison_setCore (c : CoreId) (x : CoreState) : (s.setCore c x).poison = s.poison := rfl
@[simp] theorem State.errs_setCore (c : CoreId) (x : CoreState) : (s.setCore c x).errs = s.errs := rfl
@[simp] theorem State.seenCe_setCore (c : CoreId) (x : CoreState) : (s.setCore c x).seenCe = s.seenCe := rfl
@[simp] theorem State.seenUe_setCore (c : CoreId) (x : CoreState) : (s.setCore c x).seenUe = s.seenUe := rfl
@[simp] theorem State.writeBacks_setCore (c : CoreId) (x : CoreState) : (s.setCore c x).writeBacks = s.writeBacks := rfl
@[simp] theorem State.scrubPos_setCore (c : CoreId) (x : CoreState) : (s.setCore c x).scrubPos = s.scrubPos := rfl
@[simp] theorem State.benches_setCore (c : CoreId) (x : CoreState) : (s.setCore c x).benches = s.benches := rfl
@[simp] theorem State.dies_setCore (c : CoreId) (x : CoreState) : (s.setCore c x).dies = s.dies := rfl
@[simp] theorem State.hubs_setCore (c : CoreId) (x : CoreState) : (s.setCore c x).hubs = s.hubs := rfl
@[simp] theorem State.ports_setCore (c : CoreId) (x : CoreState) : (s.setCore c x).ports = s.ports := rfl
@[simp] theorem State.tab_setCore (c : CoreId) (x : CoreState) : (s.setCore c x).tab = s.tab := rfl
@[simp] theorem State.job_setCore (c : CoreId) (x : CoreState) : (s.setCore c x).job = s.job := rfl
@[simp] theorem State.loader_setCore (c : CoreId) (x : CoreState) : (s.setCore c x).loader = s.loader := rfl
@[simp] theorem State.mgr_setCore (c : CoreId) (x : CoreState) : (s.setCore c x).mgr = s.mgr := rfl
@[simp] theorem State.mgt_setCore (c : CoreId) (x : CoreState) : (s.setCore c x).mgt = s.mgt := rfl
@[simp] theorem State.sec_setCore (c : CoreId) (x : CoreState) : (s.setCore c x).sec = s.sec := rfl
@[simp] theorem State.flash_setCore (c : CoreId) (x : CoreState) : (s.setCore c x).flash = s.flash := rfl
@[simp] theorem State.pins_setCore (c : CoreId) (x : CoreState) : (s.setCore c x).pins = s.pins := rfl
@[simp] theorem State.out_setCore (c : CoreId) (x : CoreState) : (s.setCore c x).out = s.out := rfl
@[simp] theorem State.bench_setCore (c : CoreId) (x : CoreState) (b' : BenchId) : (s.setCore c x).bench b' = s.bench b' := rfl
@[simp] theorem State.die_setCore (c : CoreId) (x : CoreState) (d' : Die) : (s.setCore c x).die d' = s.die d' := rfl
@[simp] theorem State.hub_setCore (c : CoreId) (x : CoreState) (h' : Hub) : (s.setCore c x).hub h' = s.hub h' := rfl
@[simp] theorem State.port_setCore (c : CoreId) (x : CoreState) (p' : PortId) : (s.setCore c x).port p' = s.port p' := rfl
@[simp] theorem State.reg_setCore (c : CoreId) (x : CoreState) (k' : Nat) : (s.setCore c x).reg k' = s.reg k' := rfl
@[simp] theorem State.fld_setCore (c : CoreId) (x : CoreState) (k' hi' lo' : Nat) : (s.setCore c x).fld k' hi' lo' = s.fld k' hi' lo' := rfl

@[simp] theorem State.pending_updCore (c : CoreId) (f : CoreState → CoreState) : (s.updCore c f).pending = s.pending := rfl
@[simp] theorem State.now_updCore (c : CoreId) (f : CoreState → CoreState) : (s.updCore c f).now = s.now := rfl
@[simp] theorem State.tbBase_updCore (c : CoreId) (f : CoreState → CoreState) : (s.updCore c f).tbBase = s.tbBase := rfl
@[simp] theorem State.lastSync_updCore (c : CoreId) (f : CoreState → CoreState) : (s.updCore c f).lastSync = s.lastSync := rfl
@[simp] theorem State.draws_updCore (c : CoreId) (f : CoreState → CoreState) : (s.updCore c f).draws = s.draws := rfl
@[simp] theorem State.csr_updCore (c : CoreId) (f : CoreState → CoreState) : (s.updCore c f).csr = s.csr := rfl
@[simp] theorem State.ctr_updCore (c : CoreId) (f : CoreState → CoreState) : (s.updCore c f).ctr = s.ctr := rfl
@[simp] theorem State.cycle_updCore (c : CoreId) (f : CoreState → CoreState) : (s.updCore c f).cycle = s.cycle := rfl
@[simp] theorem State.mem_updCore (c : CoreId) (f : CoreState → CoreState) : (s.updCore c f).mem = s.mem := rfl
@[simp] theorem State.poison_updCore (c : CoreId) (f : CoreState → CoreState) : (s.updCore c f).poison = s.poison := rfl
@[simp] theorem State.errs_updCore (c : CoreId) (f : CoreState → CoreState) : (s.updCore c f).errs = s.errs := rfl
@[simp] theorem State.seenCe_updCore (c : CoreId) (f : CoreState → CoreState) : (s.updCore c f).seenCe = s.seenCe := rfl
@[simp] theorem State.seenUe_updCore (c : CoreId) (f : CoreState → CoreState) : (s.updCore c f).seenUe = s.seenUe := rfl
@[simp] theorem State.writeBacks_updCore (c : CoreId) (f : CoreState → CoreState) : (s.updCore c f).writeBacks = s.writeBacks := rfl
@[simp] theorem State.scrubPos_updCore (c : CoreId) (f : CoreState → CoreState) : (s.updCore c f).scrubPos = s.scrubPos := rfl
@[simp] theorem State.benches_updCore (c : CoreId) (f : CoreState → CoreState) : (s.updCore c f).benches = s.benches := rfl
@[simp] theorem State.dies_updCore (c : CoreId) (f : CoreState → CoreState) : (s.updCore c f).dies = s.dies := rfl
@[simp] theorem State.hubs_updCore (c : CoreId) (f : CoreState → CoreState) : (s.updCore c f).hubs = s.hubs := rfl
@[simp] theorem State.ports_updCore (c : CoreId) (f : CoreState → CoreState) : (s.updCore c f).ports = s.ports := rfl
@[simp] theorem State.tab_updCore (c : CoreId) (f : CoreState → CoreState) : (s.updCore c f).tab = s.tab := rfl
@[simp] theorem State.job_updCore (c : CoreId) (f : CoreState → CoreState) : (s.updCore c f).job = s.job := rfl
@[simp] theorem State.loader_updCore (c : CoreId) (f : CoreState → CoreState) : (s.updCore c f).loader = s.loader := rfl
@[simp] theorem State.mgr_updCore (c : CoreId) (f : CoreState → CoreState) : (s.updCore c f).mgr = s.mgr := rfl
@[simp] theorem State.mgt_updCore (c : CoreId) (f : CoreState → CoreState) : (s.updCore c f).mgt = s.mgt := rfl
@[simp] theorem State.sec_updCore (c : CoreId) (f : CoreState → CoreState) : (s.updCore c f).sec = s.sec := rfl
@[simp] theorem State.flash_updCore (c : CoreId) (f : CoreState → CoreState) : (s.updCore c f).flash = s.flash := rfl
@[simp] theorem State.pins_updCore (c : CoreId) (f : CoreState → CoreState) : (s.updCore c f).pins = s.pins := rfl
@[simp] theorem State.out_updCore (c : CoreId) (f : CoreState → CoreState) : (s.updCore c f).out = s.out := rfl
@[simp] theorem State.bench_updCore (c : CoreId) (f : CoreState → CoreState) (b' : BenchId) : (s.updCore c f).bench b' = s.bench b' := rfl
@[simp] theorem State.die_updCore (c : CoreId) (f : CoreState → CoreState) (d' : Die) : (s.updCore c f).die d' = s.die d' := rfl
@[simp] theorem State.hub_updCore (c : CoreId) (f : CoreState → CoreState) (h' : Hub) : (s.updCore c f).hub h' = s.hub h' := rfl
@[simp] theorem State.port_updCore (c : CoreId) (f : CoreState → CoreState) (p' : PortId) : (s.updCore c f).port p' = s.port p' := rfl
@[simp] theorem State.reg_updCore (c : CoreId) (f : CoreState → CoreState) (k' : Nat) : (s.updCore c f).reg k' = s.reg k' := rfl
@[simp] theorem State.fld_updCore (c : CoreId) (f : CoreState → CoreState) (k' hi' lo' : Nat) : (s.updCore c f).fld k' hi' lo' = s.fld k' hi' lo' := rfl

@[simp] theorem State.pending_setBench (b : BenchId) (x : BenchState) : (s.setBench b x).pending = s.pending := rfl
@[simp] theorem State.now_setBench (b : BenchId) (x : BenchState) : (s.setBench b x).now = s.now := rfl
@[simp] theorem State.tbBase_setBench (b : BenchId) (x : BenchState) : (s.setBench b x).tbBase = s.tbBase := rfl
@[simp] theorem State.lastSync_setBench (b : BenchId) (x : BenchState) : (s.setBench b x).lastSync = s.lastSync := rfl
@[simp] theorem State.draws_setBench (b : BenchId) (x : BenchState) : (s.setBench b x).draws = s.draws := rfl
@[simp] theorem State.csr_setBench (b : BenchId) (x : BenchState) : (s.setBench b x).csr = s.csr := rfl
@[simp] theorem State.ctr_setBench (b : BenchId) (x : BenchState) : (s.setBench b x).ctr = s.ctr := rfl
@[simp] theorem State.cycle_setBench (b : BenchId) (x : BenchState) : (s.setBench b x).cycle = s.cycle := rfl
@[simp] theorem State.mem_setBench (b : BenchId) (x : BenchState) : (s.setBench b x).mem = s.mem := rfl
@[simp] theorem State.poison_setBench (b : BenchId) (x : BenchState) : (s.setBench b x).poison = s.poison := rfl
@[simp] theorem State.errs_setBench (b : BenchId) (x : BenchState) : (s.setBench b x).errs = s.errs := rfl
@[simp] theorem State.seenCe_setBench (b : BenchId) (x : BenchState) : (s.setBench b x).seenCe = s.seenCe := rfl
@[simp] theorem State.seenUe_setBench (b : BenchId) (x : BenchState) : (s.setBench b x).seenUe = s.seenUe := rfl
@[simp] theorem State.writeBacks_setBench (b : BenchId) (x : BenchState) : (s.setBench b x).writeBacks = s.writeBacks := rfl
@[simp] theorem State.scrubPos_setBench (b : BenchId) (x : BenchState) : (s.setBench b x).scrubPos = s.scrubPos := rfl
@[simp] theorem State.cores_setBench (b : BenchId) (x : BenchState) : (s.setBench b x).cores = s.cores := rfl
@[simp] theorem State.dies_setBench (b : BenchId) (x : BenchState) : (s.setBench b x).dies = s.dies := rfl
@[simp] theorem State.hubs_setBench (b : BenchId) (x : BenchState) : (s.setBench b x).hubs = s.hubs := rfl
@[simp] theorem State.ports_setBench (b : BenchId) (x : BenchState) : (s.setBench b x).ports = s.ports := rfl
@[simp] theorem State.tab_setBench (b : BenchId) (x : BenchState) : (s.setBench b x).tab = s.tab := rfl
@[simp] theorem State.job_setBench (b : BenchId) (x : BenchState) : (s.setBench b x).job = s.job := rfl
@[simp] theorem State.loader_setBench (b : BenchId) (x : BenchState) : (s.setBench b x).loader = s.loader := rfl
@[simp] theorem State.mgr_setBench (b : BenchId) (x : BenchState) : (s.setBench b x).mgr = s.mgr := rfl
@[simp] theorem State.mgt_setBench (b : BenchId) (x : BenchState) : (s.setBench b x).mgt = s.mgt := rfl
@[simp] theorem State.sec_setBench (b : BenchId) (x : BenchState) : (s.setBench b x).sec = s.sec := rfl
@[simp] theorem State.flash_setBench (b : BenchId) (x : BenchState) : (s.setBench b x).flash = s.flash := rfl
@[simp] theorem State.pins_setBench (b : BenchId) (x : BenchState) : (s.setBench b x).pins = s.pins := rfl
@[simp] theorem State.out_setBench (b : BenchId) (x : BenchState) : (s.setBench b x).out = s.out := rfl
@[simp] theorem State.core_setBench (b : BenchId) (x : BenchState) (c' : CoreId) : (s.setBench b x).core c' = s.core c' := rfl
@[simp] theorem State.die_setBench (b : BenchId) (x : BenchState) (d' : Die) : (s.setBench b x).die d' = s.die d' := rfl
@[simp] theorem State.hub_setBench (b : BenchId) (x : BenchState) (h' : Hub) : (s.setBench b x).hub h' = s.hub h' := rfl
@[simp] theorem State.port_setBench (b : BenchId) (x : BenchState) (p' : PortId) : (s.setBench b x).port p' = s.port p' := rfl
@[simp] theorem State.reg_setBench (b : BenchId) (x : BenchState) (k' : Nat) : (s.setBench b x).reg k' = s.reg k' := rfl
@[simp] theorem State.fld_setBench (b : BenchId) (x : BenchState) (k' hi' lo' : Nat) : (s.setBench b x).fld k' hi' lo' = s.fld k' hi' lo' := rfl

@[simp] theorem State.pending_updBench (b : BenchId) (f : BenchState → BenchState) : (s.updBench b f).pending = s.pending := rfl
@[simp] theorem State.now_updBench (b : BenchId) (f : BenchState → BenchState) : (s.updBench b f).now = s.now := rfl
@[simp] theorem State.tbBase_updBench (b : BenchId) (f : BenchState → BenchState) : (s.updBench b f).tbBase = s.tbBase := rfl
@[simp] theorem State.lastSync_updBench (b : BenchId) (f : BenchState → BenchState) : (s.updBench b f).lastSync = s.lastSync := rfl
@[simp] theorem State.draws_updBench (b : BenchId) (f : BenchState → BenchState) : (s.updBench b f).draws = s.draws := rfl
@[simp] theorem State.csr_updBench (b : BenchId) (f : BenchState → BenchState) : (s.updBench b f).csr = s.csr := rfl
@[simp] theorem State.ctr_updBench (b : BenchId) (f : BenchState → BenchState) : (s.updBench b f).ctr = s.ctr := rfl
@[simp] theorem State.cycle_updBench (b : BenchId) (f : BenchState → BenchState) : (s.updBench b f).cycle = s.cycle := rfl
@[simp] theorem State.mem_updBench (b : BenchId) (f : BenchState → BenchState) : (s.updBench b f).mem = s.mem := rfl
@[simp] theorem State.poison_updBench (b : BenchId) (f : BenchState → BenchState) : (s.updBench b f).poison = s.poison := rfl
@[simp] theorem State.errs_updBench (b : BenchId) (f : BenchState → BenchState) : (s.updBench b f).errs = s.errs := rfl
@[simp] theorem State.seenCe_updBench (b : BenchId) (f : BenchState → BenchState) : (s.updBench b f).seenCe = s.seenCe := rfl
@[simp] theorem State.seenUe_updBench (b : BenchId) (f : BenchState → BenchState) : (s.updBench b f).seenUe = s.seenUe := rfl
@[simp] theorem State.writeBacks_updBench (b : BenchId) (f : BenchState → BenchState) : (s.updBench b f).writeBacks = s.writeBacks := rfl
@[simp] theorem State.scrubPos_updBench (b : BenchId) (f : BenchState → BenchState) : (s.updBench b f).scrubPos = s.scrubPos := rfl
@[simp] theorem State.cores_updBench (b : BenchId) (f : BenchState → BenchState) : (s.updBench b f).cores = s.cores := rfl
@[simp] theorem State.dies_updBench (b : BenchId) (f : BenchState → BenchState) : (s.updBench b f).dies = s.dies := rfl
@[simp] theorem State.hubs_updBench (b : BenchId) (f : BenchState → BenchState) : (s.updBench b f).hubs = s.hubs := rfl
@[simp] theorem State.ports_updBench (b : BenchId) (f : BenchState → BenchState) : (s.updBench b f).ports = s.ports := rfl
@[simp] theorem State.tab_updBench (b : BenchId) (f : BenchState → BenchState) : (s.updBench b f).tab = s.tab := rfl
@[simp] theorem State.job_updBench (b : BenchId) (f : BenchState → BenchState) : (s.updBench b f).job = s.job := rfl
@[simp] theorem State.loader_updBench (b : BenchId) (f : BenchState → BenchState) : (s.updBench b f).loader = s.loader := rfl
@[simp] theorem State.mgr_updBench (b : BenchId) (f : BenchState → BenchState) : (s.updBench b f).mgr = s.mgr := rfl
@[simp] theorem State.mgt_updBench (b : BenchId) (f : BenchState → BenchState) : (s.updBench b f).mgt = s.mgt := rfl
@[simp] theorem State.sec_updBench (b : BenchId) (f : BenchState → BenchState) : (s.updBench b f).sec = s.sec := rfl
@[simp] theorem State.flash_updBench (b : BenchId) (f : BenchState → BenchState) : (s.updBench b f).flash = s.flash := rfl
@[simp] theorem State.pins_updBench (b : BenchId) (f : BenchState → BenchState) : (s.updBench b f).pins = s.pins := rfl
@[simp] theorem State.out_updBench (b : BenchId) (f : BenchState → BenchState) : (s.updBench b f).out = s.out := rfl
@[simp] theorem State.core_updBench (b : BenchId) (f : BenchState → BenchState) (c' : CoreId) : (s.updBench b f).core c' = s.core c' := rfl
@[simp] theorem State.die_updBench (b : BenchId) (f : BenchState → BenchState) (d' : Die) : (s.updBench b f).die d' = s.die d' := rfl
@[simp] theorem State.hub_updBench (b : BenchId) (f : BenchState → BenchState) (h' : Hub) : (s.updBench b f).hub h' = s.hub h' := rfl
@[simp] theorem State.port_updBench (b : BenchId) (f : BenchState → BenchState) (p' : PortId) : (s.updBench b f).port p' = s.port p' := rfl
@[simp] theorem State.reg_updBench (b : BenchId) (f : BenchState → BenchState) (k' : Nat) : (s.updBench b f).reg k' = s.reg k' := rfl
@[simp] theorem State.fld_updBench (b : BenchId) (f : BenchState → BenchState) (k' hi' lo' : Nat) : (s.updBench b f).fld k' hi' lo' = s.fld k' hi' lo' := rfl

@[simp] theorem State.pending_setDie (d : Die) (x : DieState) : (s.setDie d x).pending = s.pending := rfl
@[simp] theorem State.now_setDie (d : Die) (x : DieState) : (s.setDie d x).now = s.now := rfl
@[simp] theorem State.tbBase_setDie (d : Die) (x : DieState) : (s.setDie d x).tbBase = s.tbBase := rfl
@[simp] theorem State.lastSync_setDie (d : Die) (x : DieState) : (s.setDie d x).lastSync = s.lastSync := rfl
@[simp] theorem State.draws_setDie (d : Die) (x : DieState) : (s.setDie d x).draws = s.draws := rfl
@[simp] theorem State.csr_setDie (d : Die) (x : DieState) : (s.setDie d x).csr = s.csr := rfl
@[simp] theorem State.ctr_setDie (d : Die) (x : DieState) : (s.setDie d x).ctr = s.ctr := rfl
@[simp] theorem State.cycle_setDie (d : Die) (x : DieState) : (s.setDie d x).cycle = s.cycle := rfl
@[simp] theorem State.mem_setDie (d : Die) (x : DieState) : (s.setDie d x).mem = s.mem := rfl
@[simp] theorem State.poison_setDie (d : Die) (x : DieState) : (s.setDie d x).poison = s.poison := rfl
@[simp] theorem State.errs_setDie (d : Die) (x : DieState) : (s.setDie d x).errs = s.errs := rfl
@[simp] theorem State.seenCe_setDie (d : Die) (x : DieState) : (s.setDie d x).seenCe = s.seenCe := rfl
@[simp] theorem State.seenUe_setDie (d : Die) (x : DieState) : (s.setDie d x).seenUe = s.seenUe := rfl
@[simp] theorem State.writeBacks_setDie (d : Die) (x : DieState) : (s.setDie d x).writeBacks = s.writeBacks := rfl
@[simp] theorem State.scrubPos_setDie (d : Die) (x : DieState) : (s.setDie d x).scrubPos = s.scrubPos := rfl
@[simp] theorem State.cores_setDie (d : Die) (x : DieState) : (s.setDie d x).cores = s.cores := rfl
@[simp] theorem State.benches_setDie (d : Die) (x : DieState) : (s.setDie d x).benches = s.benches := rfl
@[simp] theorem State.hubs_setDie (d : Die) (x : DieState) : (s.setDie d x).hubs = s.hubs := rfl
@[simp] theorem State.ports_setDie (d : Die) (x : DieState) : (s.setDie d x).ports = s.ports := rfl
@[simp] theorem State.tab_setDie (d : Die) (x : DieState) : (s.setDie d x).tab = s.tab := rfl
@[simp] theorem State.job_setDie (d : Die) (x : DieState) : (s.setDie d x).job = s.job := rfl
@[simp] theorem State.loader_setDie (d : Die) (x : DieState) : (s.setDie d x).loader = s.loader := rfl
@[simp] theorem State.mgr_setDie (d : Die) (x : DieState) : (s.setDie d x).mgr = s.mgr := rfl
@[simp] theorem State.mgt_setDie (d : Die) (x : DieState) : (s.setDie d x).mgt = s.mgt := rfl
@[simp] theorem State.sec_setDie (d : Die) (x : DieState) : (s.setDie d x).sec = s.sec := rfl
@[simp] theorem State.flash_setDie (d : Die) (x : DieState) : (s.setDie d x).flash = s.flash := rfl
@[simp] theorem State.pins_setDie (d : Die) (x : DieState) : (s.setDie d x).pins = s.pins := rfl
@[simp] theorem State.out_setDie (d : Die) (x : DieState) : (s.setDie d x).out = s.out := rfl
@[simp] theorem State.core_setDie (d : Die) (x : DieState) (c' : CoreId) : (s.setDie d x).core c' = s.core c' := rfl
@[simp] theorem State.bench_setDie (d : Die) (x : DieState) (b' : BenchId) : (s.setDie d x).bench b' = s.bench b' := rfl
@[simp] theorem State.hub_setDie (d : Die) (x : DieState) (h' : Hub) : (s.setDie d x).hub h' = s.hub h' := rfl
@[simp] theorem State.port_setDie (d : Die) (x : DieState) (p' : PortId) : (s.setDie d x).port p' = s.port p' := rfl
@[simp] theorem State.reg_setDie (d : Die) (x : DieState) (k' : Nat) : (s.setDie d x).reg k' = s.reg k' := rfl
@[simp] theorem State.fld_setDie (d : Die) (x : DieState) (k' hi' lo' : Nat) : (s.setDie d x).fld k' hi' lo' = s.fld k' hi' lo' := rfl

@[simp] theorem State.pending_updDie (d : Die) (f : DieState → DieState) : (s.updDie d f).pending = s.pending := rfl
@[simp] theorem State.now_updDie (d : Die) (f : DieState → DieState) : (s.updDie d f).now = s.now := rfl
@[simp] theorem State.tbBase_updDie (d : Die) (f : DieState → DieState) : (s.updDie d f).tbBase = s.tbBase := rfl
@[simp] theorem State.lastSync_updDie (d : Die) (f : DieState → DieState) : (s.updDie d f).lastSync = s.lastSync := rfl
@[simp] theorem State.draws_updDie (d : Die) (f : DieState → DieState) : (s.updDie d f).draws = s.draws := rfl
@[simp] theorem State.csr_updDie (d : Die) (f : DieState → DieState) : (s.updDie d f).csr = s.csr := rfl
@[simp] theorem State.ctr_updDie (d : Die) (f : DieState → DieState) : (s.updDie d f).ctr = s.ctr := rfl
@[simp] theorem State.cycle_updDie (d : Die) (f : DieState → DieState) : (s.updDie d f).cycle = s.cycle := rfl
@[simp] theorem State.mem_updDie (d : Die) (f : DieState → DieState) : (s.updDie d f).mem = s.mem := rfl
@[simp] theorem State.poison_updDie (d : Die) (f : DieState → DieState) : (s.updDie d f).poison = s.poison := rfl
@[simp] theorem State.errs_updDie (d : Die) (f : DieState → DieState) : (s.updDie d f).errs = s.errs := rfl
@[simp] theorem State.seenCe_updDie (d : Die) (f : DieState → DieState) : (s.updDie d f).seenCe = s.seenCe := rfl
@[simp] theorem State.seenUe_updDie (d : Die) (f : DieState → DieState) : (s.updDie d f).seenUe = s.seenUe := rfl
@[simp] theorem State.writeBacks_updDie (d : Die) (f : DieState → DieState) : (s.updDie d f).writeBacks = s.writeBacks := rfl
@[simp] theorem State.scrubPos_updDie (d : Die) (f : DieState → DieState) : (s.updDie d f).scrubPos = s.scrubPos := rfl
@[simp] theorem State.cores_updDie (d : Die) (f : DieState → DieState) : (s.updDie d f).cores = s.cores := rfl
@[simp] theorem State.benches_updDie (d : Die) (f : DieState → DieState) : (s.updDie d f).benches = s.benches := rfl
@[simp] theorem State.hubs_updDie (d : Die) (f : DieState → DieState) : (s.updDie d f).hubs = s.hubs := rfl
@[simp] theorem State.ports_updDie (d : Die) (f : DieState → DieState) : (s.updDie d f).ports = s.ports := rfl
@[simp] theorem State.tab_updDie (d : Die) (f : DieState → DieState) : (s.updDie d f).tab = s.tab := rfl
@[simp] theorem State.job_updDie (d : Die) (f : DieState → DieState) : (s.updDie d f).job = s.job := rfl
@[simp] theorem State.loader_updDie (d : Die) (f : DieState → DieState) : (s.updDie d f).loader = s.loader := rfl
@[simp] theorem State.mgr_updDie (d : Die) (f : DieState → DieState) : (s.updDie d f).mgr = s.mgr := rfl
@[simp] theorem State.mgt_updDie (d : Die) (f : DieState → DieState) : (s.updDie d f).mgt = s.mgt := rfl
@[simp] theorem State.sec_updDie (d : Die) (f : DieState → DieState) : (s.updDie d f).sec = s.sec := rfl
@[simp] theorem State.flash_updDie (d : Die) (f : DieState → DieState) : (s.updDie d f).flash = s.flash := rfl
@[simp] theorem State.pins_updDie (d : Die) (f : DieState → DieState) : (s.updDie d f).pins = s.pins := rfl
@[simp] theorem State.out_updDie (d : Die) (f : DieState → DieState) : (s.updDie d f).out = s.out := rfl
@[simp] theorem State.core_updDie (d : Die) (f : DieState → DieState) (c' : CoreId) : (s.updDie d f).core c' = s.core c' := rfl
@[simp] theorem State.bench_updDie (d : Die) (f : DieState → DieState) (b' : BenchId) : (s.updDie d f).bench b' = s.bench b' := rfl
@[simp] theorem State.hub_updDie (d : Die) (f : DieState → DieState) (h' : Hub) : (s.updDie d f).hub h' = s.hub h' := rfl
@[simp] theorem State.port_updDie (d : Die) (f : DieState → DieState) (p' : PortId) : (s.updDie d f).port p' = s.port p' := rfl
@[simp] theorem State.reg_updDie (d : Die) (f : DieState → DieState) (k' : Nat) : (s.updDie d f).reg k' = s.reg k' := rfl
@[simp] theorem State.fld_updDie (d : Die) (f : DieState → DieState) (k' hi' lo' : Nat) : (s.updDie d f).fld k' hi' lo' = s.fld k' hi' lo' := rfl

@[simp] theorem State.pending_setHub (h : Hub) (x : HubState) : (s.setHub h x).pending = s.pending := rfl
@[simp] theorem State.now_setHub (h : Hub) (x : HubState) : (s.setHub h x).now = s.now := rfl
@[simp] theorem State.tbBase_setHub (h : Hub) (x : HubState) : (s.setHub h x).tbBase = s.tbBase := rfl
@[simp] theorem State.lastSync_setHub (h : Hub) (x : HubState) : (s.setHub h x).lastSync = s.lastSync := rfl
@[simp] theorem State.draws_setHub (h : Hub) (x : HubState) : (s.setHub h x).draws = s.draws := rfl
@[simp] theorem State.csr_setHub (h : Hub) (x : HubState) : (s.setHub h x).csr = s.csr := rfl
@[simp] theorem State.ctr_setHub (h : Hub) (x : HubState) : (s.setHub h x).ctr = s.ctr := rfl
@[simp] theorem State.cycle_setHub (h : Hub) (x : HubState) : (s.setHub h x).cycle = s.cycle := rfl
@[simp] theorem State.mem_setHub (h : Hub) (x : HubState) : (s.setHub h x).mem = s.mem := rfl
@[simp] theorem State.poison_setHub (h : Hub) (x : HubState) : (s.setHub h x).poison = s.poison := rfl
@[simp] theorem State.errs_setHub (h : Hub) (x : HubState) : (s.setHub h x).errs = s.errs := rfl
@[simp] theorem State.seenCe_setHub (h : Hub) (x : HubState) : (s.setHub h x).seenCe = s.seenCe := rfl
@[simp] theorem State.seenUe_setHub (h : Hub) (x : HubState) : (s.setHub h x).seenUe = s.seenUe := rfl
@[simp] theorem State.writeBacks_setHub (h : Hub) (x : HubState) : (s.setHub h x).writeBacks = s.writeBacks := rfl
@[simp] theorem State.scrubPos_setHub (h : Hub) (x : HubState) : (s.setHub h x).scrubPos = s.scrubPos := rfl
@[simp] theorem State.cores_setHub (h : Hub) (x : HubState) : (s.setHub h x).cores = s.cores := rfl
@[simp] theorem State.benches_setHub (h : Hub) (x : HubState) : (s.setHub h x).benches = s.benches := rfl
@[simp] theorem State.dies_setHub (h : Hub) (x : HubState) : (s.setHub h x).dies = s.dies := rfl
@[simp] theorem State.ports_setHub (h : Hub) (x : HubState) : (s.setHub h x).ports = s.ports := rfl
@[simp] theorem State.tab_setHub (h : Hub) (x : HubState) : (s.setHub h x).tab = s.tab := rfl
@[simp] theorem State.job_setHub (h : Hub) (x : HubState) : (s.setHub h x).job = s.job := rfl
@[simp] theorem State.loader_setHub (h : Hub) (x : HubState) : (s.setHub h x).loader = s.loader := rfl
@[simp] theorem State.mgr_setHub (h : Hub) (x : HubState) : (s.setHub h x).mgr = s.mgr := rfl
@[simp] theorem State.mgt_setHub (h : Hub) (x : HubState) : (s.setHub h x).mgt = s.mgt := rfl
@[simp] theorem State.sec_setHub (h : Hub) (x : HubState) : (s.setHub h x).sec = s.sec := rfl
@[simp] theorem State.flash_setHub (h : Hub) (x : HubState) : (s.setHub h x).flash = s.flash := rfl
@[simp] theorem State.pins_setHub (h : Hub) (x : HubState) : (s.setHub h x).pins = s.pins := rfl
@[simp] theorem State.out_setHub (h : Hub) (x : HubState) : (s.setHub h x).out = s.out := rfl
@[simp] theorem State.core_setHub (h : Hub) (x : HubState) (c' : CoreId) : (s.setHub h x).core c' = s.core c' := rfl
@[simp] theorem State.bench_setHub (h : Hub) (x : HubState) (b' : BenchId) : (s.setHub h x).bench b' = s.bench b' := rfl
@[simp] theorem State.die_setHub (h : Hub) (x : HubState) (d' : Die) : (s.setHub h x).die d' = s.die d' := rfl
@[simp] theorem State.port_setHub (h : Hub) (x : HubState) (p' : PortId) : (s.setHub h x).port p' = s.port p' := rfl
@[simp] theorem State.reg_setHub (h : Hub) (x : HubState) (k' : Nat) : (s.setHub h x).reg k' = s.reg k' := rfl
@[simp] theorem State.fld_setHub (h : Hub) (x : HubState) (k' hi' lo' : Nat) : (s.setHub h x).fld k' hi' lo' = s.fld k' hi' lo' := rfl

@[simp] theorem State.pending_updHub (h : Hub) (f : HubState → HubState) : (s.updHub h f).pending = s.pending := rfl
@[simp] theorem State.now_updHub (h : Hub) (f : HubState → HubState) : (s.updHub h f).now = s.now := rfl
@[simp] theorem State.tbBase_updHub (h : Hub) (f : HubState → HubState) : (s.updHub h f).tbBase = s.tbBase := rfl
@[simp] theorem State.lastSync_updHub (h : Hub) (f : HubState → HubState) : (s.updHub h f).lastSync = s.lastSync := rfl
@[simp] theorem State.draws_updHub (h : Hub) (f : HubState → HubState) : (s.updHub h f).draws = s.draws := rfl
@[simp] theorem State.csr_updHub (h : Hub) (f : HubState → HubState) : (s.updHub h f).csr = s.csr := rfl
@[simp] theorem State.ctr_updHub (h : Hub) (f : HubState → HubState) : (s.updHub h f).ctr = s.ctr := rfl
@[simp] theorem State.cycle_updHub (h : Hub) (f : HubState → HubState) : (s.updHub h f).cycle = s.cycle := rfl
@[simp] theorem State.mem_updHub (h : Hub) (f : HubState → HubState) : (s.updHub h f).mem = s.mem := rfl
@[simp] theorem State.poison_updHub (h : Hub) (f : HubState → HubState) : (s.updHub h f).poison = s.poison := rfl
@[simp] theorem State.errs_updHub (h : Hub) (f : HubState → HubState) : (s.updHub h f).errs = s.errs := rfl
@[simp] theorem State.seenCe_updHub (h : Hub) (f : HubState → HubState) : (s.updHub h f).seenCe = s.seenCe := rfl
@[simp] theorem State.seenUe_updHub (h : Hub) (f : HubState → HubState) : (s.updHub h f).seenUe = s.seenUe := rfl
@[simp] theorem State.writeBacks_updHub (h : Hub) (f : HubState → HubState) : (s.updHub h f).writeBacks = s.writeBacks := rfl
@[simp] theorem State.scrubPos_updHub (h : Hub) (f : HubState → HubState) : (s.updHub h f).scrubPos = s.scrubPos := rfl
@[simp] theorem State.cores_updHub (h : Hub) (f : HubState → HubState) : (s.updHub h f).cores = s.cores := rfl
@[simp] theorem State.benches_updHub (h : Hub) (f : HubState → HubState) : (s.updHub h f).benches = s.benches := rfl
@[simp] theorem State.dies_updHub (h : Hub) (f : HubState → HubState) : (s.updHub h f).dies = s.dies := rfl
@[simp] theorem State.ports_updHub (h : Hub) (f : HubState → HubState) : (s.updHub h f).ports = s.ports := rfl
@[simp] theorem State.tab_updHub (h : Hub) (f : HubState → HubState) : (s.updHub h f).tab = s.tab := rfl
@[simp] theorem State.job_updHub (h : Hub) (f : HubState → HubState) : (s.updHub h f).job = s.job := rfl
@[simp] theorem State.loader_updHub (h : Hub) (f : HubState → HubState) : (s.updHub h f).loader = s.loader := rfl
@[simp] theorem State.mgr_updHub (h : Hub) (f : HubState → HubState) : (s.updHub h f).mgr = s.mgr := rfl
@[simp] theorem State.mgt_updHub (h : Hub) (f : HubState → HubState) : (s.updHub h f).mgt = s.mgt := rfl
@[simp] theorem State.sec_updHub (h : Hub) (f : HubState → HubState) : (s.updHub h f).sec = s.sec := rfl
@[simp] theorem State.flash_updHub (h : Hub) (f : HubState → HubState) : (s.updHub h f).flash = s.flash := rfl
@[simp] theorem State.pins_updHub (h : Hub) (f : HubState → HubState) : (s.updHub h f).pins = s.pins := rfl
@[simp] theorem State.out_updHub (h : Hub) (f : HubState → HubState) : (s.updHub h f).out = s.out := rfl
@[simp] theorem State.core_updHub (h : Hub) (f : HubState → HubState) (c' : CoreId) : (s.updHub h f).core c' = s.core c' := rfl
@[simp] theorem State.bench_updHub (h : Hub) (f : HubState → HubState) (b' : BenchId) : (s.updHub h f).bench b' = s.bench b' := rfl
@[simp] theorem State.die_updHub (h : Hub) (f : HubState → HubState) (d' : Die) : (s.updHub h f).die d' = s.die d' := rfl
@[simp] theorem State.port_updHub (h : Hub) (f : HubState → HubState) (p' : PortId) : (s.updHub h f).port p' = s.port p' := rfl
@[simp] theorem State.reg_updHub (h : Hub) (f : HubState → HubState) (k' : Nat) : (s.updHub h f).reg k' = s.reg k' := rfl
@[simp] theorem State.fld_updHub (h : Hub) (f : HubState → HubState) (k' hi' lo' : Nat) : (s.updHub h f).fld k' hi' lo' = s.fld k' hi' lo' := rfl

@[simp] theorem State.pending_setPort (p : PortId) (x : PortState) : (s.setPort p x).pending = s.pending := rfl
@[simp] theorem State.now_setPort (p : PortId) (x : PortState) : (s.setPort p x).now = s.now := rfl
@[simp] theorem State.tbBase_setPort (p : PortId) (x : PortState) : (s.setPort p x).tbBase = s.tbBase := rfl
@[simp] theorem State.lastSync_setPort (p : PortId) (x : PortState) : (s.setPort p x).lastSync = s.lastSync := rfl
@[simp] theorem State.draws_setPort (p : PortId) (x : PortState) : (s.setPort p x).draws = s.draws := rfl
@[simp] theorem State.csr_setPort (p : PortId) (x : PortState) : (s.setPort p x).csr = s.csr := rfl
@[simp] theorem State.ctr_setPort (p : PortId) (x : PortState) : (s.setPort p x).ctr = s.ctr := rfl
@[simp] theorem State.cycle_setPort (p : PortId) (x : PortState) : (s.setPort p x).cycle = s.cycle := rfl
@[simp] theorem State.mem_setPort (p : PortId) (x : PortState) : (s.setPort p x).mem = s.mem := rfl
@[simp] theorem State.poison_setPort (p : PortId) (x : PortState) : (s.setPort p x).poison = s.poison := rfl
@[simp] theorem State.errs_setPort (p : PortId) (x : PortState) : (s.setPort p x).errs = s.errs := rfl
@[simp] theorem State.seenCe_setPort (p : PortId) (x : PortState) : (s.setPort p x).seenCe = s.seenCe := rfl
@[simp] theorem State.seenUe_setPort (p : PortId) (x : PortState) : (s.setPort p x).seenUe = s.seenUe := rfl
@[simp] theorem State.writeBacks_setPort (p : PortId) (x : PortState) : (s.setPort p x).writeBacks = s.writeBacks := rfl
@[simp] theorem State.scrubPos_setPort (p : PortId) (x : PortState) : (s.setPort p x).scrubPos = s.scrubPos := rfl
@[simp] theorem State.cores_setPort (p : PortId) (x : PortState) : (s.setPort p x).cores = s.cores := rfl
@[simp] theorem State.benches_setPort (p : PortId) (x : PortState) : (s.setPort p x).benches = s.benches := rfl
@[simp] theorem State.dies_setPort (p : PortId) (x : PortState) : (s.setPort p x).dies = s.dies := rfl
@[simp] theorem State.hubs_setPort (p : PortId) (x : PortState) : (s.setPort p x).hubs = s.hubs := rfl
@[simp] theorem State.tab_setPort (p : PortId) (x : PortState) : (s.setPort p x).tab = s.tab := rfl
@[simp] theorem State.job_setPort (p : PortId) (x : PortState) : (s.setPort p x).job = s.job := rfl
@[simp] theorem State.loader_setPort (p : PortId) (x : PortState) : (s.setPort p x).loader = s.loader := rfl
@[simp] theorem State.mgr_setPort (p : PortId) (x : PortState) : (s.setPort p x).mgr = s.mgr := rfl
@[simp] theorem State.mgt_setPort (p : PortId) (x : PortState) : (s.setPort p x).mgt = s.mgt := rfl
@[simp] theorem State.sec_setPort (p : PortId) (x : PortState) : (s.setPort p x).sec = s.sec := rfl
@[simp] theorem State.flash_setPort (p : PortId) (x : PortState) : (s.setPort p x).flash = s.flash := rfl
@[simp] theorem State.pins_setPort (p : PortId) (x : PortState) : (s.setPort p x).pins = s.pins := rfl
@[simp] theorem State.out_setPort (p : PortId) (x : PortState) : (s.setPort p x).out = s.out := rfl
@[simp] theorem State.core_setPort (p : PortId) (x : PortState) (c' : CoreId) : (s.setPort p x).core c' = s.core c' := rfl
@[simp] theorem State.bench_setPort (p : PortId) (x : PortState) (b' : BenchId) : (s.setPort p x).bench b' = s.bench b' := rfl
@[simp] theorem State.die_setPort (p : PortId) (x : PortState) (d' : Die) : (s.setPort p x).die d' = s.die d' := rfl
@[simp] theorem State.hub_setPort (p : PortId) (x : PortState) (h' : Hub) : (s.setPort p x).hub h' = s.hub h' := rfl
@[simp] theorem State.reg_setPort (p : PortId) (x : PortState) (k' : Nat) : (s.setPort p x).reg k' = s.reg k' := rfl
@[simp] theorem State.fld_setPort (p : PortId) (x : PortState) (k' hi' lo' : Nat) : (s.setPort p x).fld k' hi' lo' = s.fld k' hi' lo' := rfl

@[simp] theorem State.pending_updPort (p : PortId) (f : PortState → PortState) : (s.updPort p f).pending = s.pending := rfl
@[simp] theorem State.now_updPort (p : PortId) (f : PortState → PortState) : (s.updPort p f).now = s.now := rfl
@[simp] theorem State.tbBase_updPort (p : PortId) (f : PortState → PortState) : (s.updPort p f).tbBase = s.tbBase := rfl
@[simp] theorem State.lastSync_updPort (p : PortId) (f : PortState → PortState) : (s.updPort p f).lastSync = s.lastSync := rfl
@[simp] theorem State.draws_updPort (p : PortId) (f : PortState → PortState) : (s.updPort p f).draws = s.draws := rfl
@[simp] theorem State.csr_updPort (p : PortId) (f : PortState → PortState) : (s.updPort p f).csr = s.csr := rfl
@[simp] theorem State.ctr_updPort (p : PortId) (f : PortState → PortState) : (s.updPort p f).ctr = s.ctr := rfl
@[simp] theorem State.cycle_updPort (p : PortId) (f : PortState → PortState) : (s.updPort p f).cycle = s.cycle := rfl
@[simp] theorem State.mem_updPort (p : PortId) (f : PortState → PortState) : (s.updPort p f).mem = s.mem := rfl
@[simp] theorem State.poison_updPort (p : PortId) (f : PortState → PortState) : (s.updPort p f).poison = s.poison := rfl
@[simp] theorem State.errs_updPort (p : PortId) (f : PortState → PortState) : (s.updPort p f).errs = s.errs := rfl
@[simp] theorem State.seenCe_updPort (p : PortId) (f : PortState → PortState) : (s.updPort p f).seenCe = s.seenCe := rfl
@[simp] theorem State.seenUe_updPort (p : PortId) (f : PortState → PortState) : (s.updPort p f).seenUe = s.seenUe := rfl
@[simp] theorem State.writeBacks_updPort (p : PortId) (f : PortState → PortState) : (s.updPort p f).writeBacks = s.writeBacks := rfl
@[simp] theorem State.scrubPos_updPort (p : PortId) (f : PortState → PortState) : (s.updPort p f).scrubPos = s.scrubPos := rfl
@[simp] theorem State.cores_updPort (p : PortId) (f : PortState → PortState) : (s.updPort p f).cores = s.cores := rfl
@[simp] theorem State.benches_updPort (p : PortId) (f : PortState → PortState) : (s.updPort p f).benches = s.benches := rfl
@[simp] theorem State.dies_updPort (p : PortId) (f : PortState → PortState) : (s.updPort p f).dies = s.dies := rfl
@[simp] theorem State.hubs_updPort (p : PortId) (f : PortState → PortState) : (s.updPort p f).hubs = s.hubs := rfl
@[simp] theorem State.tab_updPort (p : PortId) (f : PortState → PortState) : (s.updPort p f).tab = s.tab := rfl
@[simp] theorem State.job_updPort (p : PortId) (f : PortState → PortState) : (s.updPort p f).job = s.job := rfl
@[simp] theorem State.loader_updPort (p : PortId) (f : PortState → PortState) : (s.updPort p f).loader = s.loader := rfl
@[simp] theorem State.mgr_updPort (p : PortId) (f : PortState → PortState) : (s.updPort p f).mgr = s.mgr := rfl
@[simp] theorem State.mgt_updPort (p : PortId) (f : PortState → PortState) : (s.updPort p f).mgt = s.mgt := rfl
@[simp] theorem State.sec_updPort (p : PortId) (f : PortState → PortState) : (s.updPort p f).sec = s.sec := rfl
@[simp] theorem State.flash_updPort (p : PortId) (f : PortState → PortState) : (s.updPort p f).flash = s.flash := rfl
@[simp] theorem State.pins_updPort (p : PortId) (f : PortState → PortState) : (s.updPort p f).pins = s.pins := rfl
@[simp] theorem State.out_updPort (p : PortId) (f : PortState → PortState) : (s.updPort p f).out = s.out := rfl
@[simp] theorem State.core_updPort (p : PortId) (f : PortState → PortState) (c' : CoreId) : (s.updPort p f).core c' = s.core c' := rfl
@[simp] theorem State.bench_updPort (p : PortId) (f : PortState → PortState) (b' : BenchId) : (s.updPort p f).bench b' = s.bench b' := rfl
@[simp] theorem State.die_updPort (p : PortId) (f : PortState → PortState) (d' : Die) : (s.updPort p f).die d' = s.die d' := rfl
@[simp] theorem State.hub_updPort (p : PortId) (f : PortState → PortState) (h' : Hub) : (s.updPort p f).hub h' = s.hub h' := rfl
@[simp] theorem State.reg_updPort (p : PortId) (f : PortState → PortState) (k' : Nat) : (s.updPort p f).reg k' = s.reg k' := rfl
@[simp] theorem State.fld_updPort (p : PortId) (f : PortState → PortState) (k' hi' lo' : Nat) : (s.updPort p f).fld k' hi' lo' = s.fld k' hi' lo' := rfl

@[simp] theorem State.pending_setReg (k : Nat) (v : Word64) : (s.setReg k v).pending = s.pending := rfl
@[simp] theorem State.now_setReg (k : Nat) (v : Word64) : (s.setReg k v).now = s.now := rfl
@[simp] theorem State.tbBase_setReg (k : Nat) (v : Word64) : (s.setReg k v).tbBase = s.tbBase := rfl
@[simp] theorem State.lastSync_setReg (k : Nat) (v : Word64) : (s.setReg k v).lastSync = s.lastSync := rfl
@[simp] theorem State.draws_setReg (k : Nat) (v : Word64) : (s.setReg k v).draws = s.draws := rfl
@[simp] theorem State.cycle_setReg (k : Nat) (v : Word64) : (s.setReg k v).cycle = s.cycle := rfl
@[simp] theorem State.mem_setReg (k : Nat) (v : Word64) : (s.setReg k v).mem = s.mem := rfl
@[simp] theorem State.poison_setReg (k : Nat) (v : Word64) : (s.setReg k v).poison = s.poison := rfl
@[simp] theorem State.errs_setReg (k : Nat) (v : Word64) : (s.setReg k v).errs = s.errs := rfl
@[simp] theorem State.seenCe_setReg (k : Nat) (v : Word64) : (s.setReg k v).seenCe = s.seenCe := rfl
@[simp] theorem State.seenUe_setReg (k : Nat) (v : Word64) : (s.setReg k v).seenUe = s.seenUe := rfl
@[simp] theorem State.writeBacks_setReg (k : Nat) (v : Word64) : (s.setReg k v).writeBacks = s.writeBacks := rfl
@[simp] theorem State.scrubPos_setReg (k : Nat) (v : Word64) : (s.setReg k v).scrubPos = s.scrubPos := rfl
@[simp] theorem State.cores_setReg (k : Nat) (v : Word64) : (s.setReg k v).cores = s.cores := rfl
@[simp] theorem State.benches_setReg (k : Nat) (v : Word64) : (s.setReg k v).benches = s.benches := rfl
@[simp] theorem State.dies_setReg (k : Nat) (v : Word64) : (s.setReg k v).dies = s.dies := rfl
@[simp] theorem State.hubs_setReg (k : Nat) (v : Word64) : (s.setReg k v).hubs = s.hubs := rfl
@[simp] theorem State.ports_setReg (k : Nat) (v : Word64) : (s.setReg k v).ports = s.ports := rfl
@[simp] theorem State.tab_setReg (k : Nat) (v : Word64) : (s.setReg k v).tab = s.tab := rfl
@[simp] theorem State.job_setReg (k : Nat) (v : Word64) : (s.setReg k v).job = s.job := rfl
@[simp] theorem State.loader_setReg (k : Nat) (v : Word64) : (s.setReg k v).loader = s.loader := rfl
@[simp] theorem State.mgr_setReg (k : Nat) (v : Word64) : (s.setReg k v).mgr = s.mgr := rfl
@[simp] theorem State.mgt_setReg (k : Nat) (v : Word64) : (s.setReg k v).mgt = s.mgt := rfl
@[simp] theorem State.sec_setReg (k : Nat) (v : Word64) : (s.setReg k v).sec = s.sec := rfl
@[simp] theorem State.flash_setReg (k : Nat) (v : Word64) : (s.setReg k v).flash = s.flash := rfl
@[simp] theorem State.pins_setReg (k : Nat) (v : Word64) : (s.setReg k v).pins = s.pins := rfl
@[simp] theorem State.out_setReg (k : Nat) (v : Word64) : (s.setReg k v).out = s.out := rfl
@[simp] theorem State.core_setReg (k : Nat) (v : Word64) (c' : CoreId) : (s.setReg k v).core c' = s.core c' := rfl
@[simp] theorem State.bench_setReg (k : Nat) (v : Word64) (b' : BenchId) : (s.setReg k v).bench b' = s.bench b' := rfl
@[simp] theorem State.die_setReg (k : Nat) (v : Word64) (d' : Die) : (s.setReg k v).die d' = s.die d' := rfl
@[simp] theorem State.hub_setReg (k : Nat) (v : Word64) (h' : Hub) : (s.setReg k v).hub h' = s.hub h' := rfl
@[simp] theorem State.port_setReg (k : Nat) (v : Word64) (p' : PortId) : (s.setReg k v).port p' = s.port p' := rfl

@[simp] theorem State.pending_setFld (k hi lo v : Nat) : (s.setFld k hi lo v).pending = s.pending := rfl
@[simp] theorem State.now_setFld (k hi lo v : Nat) : (s.setFld k hi lo v).now = s.now := rfl
@[simp] theorem State.tbBase_setFld (k hi lo v : Nat) : (s.setFld k hi lo v).tbBase = s.tbBase := rfl
@[simp] theorem State.lastSync_setFld (k hi lo v : Nat) : (s.setFld k hi lo v).lastSync = s.lastSync := rfl
@[simp] theorem State.draws_setFld (k hi lo v : Nat) : (s.setFld k hi lo v).draws = s.draws := rfl
@[simp] theorem State.cycle_setFld (k hi lo v : Nat) : (s.setFld k hi lo v).cycle = s.cycle := rfl
@[simp] theorem State.mem_setFld (k hi lo v : Nat) : (s.setFld k hi lo v).mem = s.mem := rfl
@[simp] theorem State.poison_setFld (k hi lo v : Nat) : (s.setFld k hi lo v).poison = s.poison := rfl
@[simp] theorem State.errs_setFld (k hi lo v : Nat) : (s.setFld k hi lo v).errs = s.errs := rfl
@[simp] theorem State.seenCe_setFld (k hi lo v : Nat) : (s.setFld k hi lo v).seenCe = s.seenCe := rfl
@[simp] theorem State.seenUe_setFld (k hi lo v : Nat) : (s.setFld k hi lo v).seenUe = s.seenUe := rfl
@[simp] theorem State.writeBacks_setFld (k hi lo v : Nat) : (s.setFld k hi lo v).writeBacks = s.writeBacks := rfl
@[simp] theorem State.scrubPos_setFld (k hi lo v : Nat) : (s.setFld k hi lo v).scrubPos = s.scrubPos := rfl
@[simp] theorem State.cores_setFld (k hi lo v : Nat) : (s.setFld k hi lo v).cores = s.cores := rfl
@[simp] theorem State.benches_setFld (k hi lo v : Nat) : (s.setFld k hi lo v).benches = s.benches := rfl
@[simp] theorem State.dies_setFld (k hi lo v : Nat) : (s.setFld k hi lo v).dies = s.dies := rfl
@[simp] theorem State.hubs_setFld (k hi lo v : Nat) : (s.setFld k hi lo v).hubs = s.hubs := rfl
@[simp] theorem State.ports_setFld (k hi lo v : Nat) : (s.setFld k hi lo v).ports = s.ports := rfl
@[simp] theorem State.tab_setFld (k hi lo v : Nat) : (s.setFld k hi lo v).tab = s.tab := rfl
@[simp] theorem State.job_setFld (k hi lo v : Nat) : (s.setFld k hi lo v).job = s.job := rfl
@[simp] theorem State.loader_setFld (k hi lo v : Nat) : (s.setFld k hi lo v).loader = s.loader := rfl
@[simp] theorem State.mgr_setFld (k hi lo v : Nat) : (s.setFld k hi lo v).mgr = s.mgr := rfl
@[simp] theorem State.mgt_setFld (k hi lo v : Nat) : (s.setFld k hi lo v).mgt = s.mgt := rfl
@[simp] theorem State.sec_setFld (k hi lo v : Nat) : (s.setFld k hi lo v).sec = s.sec := rfl
@[simp] theorem State.flash_setFld (k hi lo v : Nat) : (s.setFld k hi lo v).flash = s.flash := rfl
@[simp] theorem State.pins_setFld (k hi lo v : Nat) : (s.setFld k hi lo v).pins = s.pins := rfl
@[simp] theorem State.out_setFld (k hi lo v : Nat) : (s.setFld k hi lo v).out = s.out := rfl
@[simp] theorem State.core_setFld (k hi lo v : Nat) (c' : CoreId) : (s.setFld k hi lo v).core c' = s.core c' := rfl
@[simp] theorem State.bench_setFld (k hi lo v : Nat) (b' : BenchId) : (s.setFld k hi lo v).bench b' = s.bench b' := rfl
@[simp] theorem State.die_setFld (k hi lo v : Nat) (d' : Die) : (s.setFld k hi lo v).die d' = s.die d' := rfl
@[simp] theorem State.hub_setFld (k hi lo v : Nat) (h' : Hub) : (s.setFld k hi lo v).hub h' = s.hub h' := rfl
@[simp] theorem State.port_setFld (k hi lo v : Nat) (p' : PortId) : (s.setFld k hi lo v).port p' = s.port p' := rfl

@[simp] theorem State.pending_satFld (k hi lo n : Nat) : (s.satFld k hi lo n).pending = s.pending := rfl
@[simp] theorem State.now_satFld (k hi lo n : Nat) : (s.satFld k hi lo n).now = s.now := rfl
@[simp] theorem State.tbBase_satFld (k hi lo n : Nat) : (s.satFld k hi lo n).tbBase = s.tbBase := rfl
@[simp] theorem State.lastSync_satFld (k hi lo n : Nat) : (s.satFld k hi lo n).lastSync = s.lastSync := rfl
@[simp] theorem State.draws_satFld (k hi lo n : Nat) : (s.satFld k hi lo n).draws = s.draws := rfl
@[simp] theorem State.cycle_satFld (k hi lo n : Nat) : (s.satFld k hi lo n).cycle = s.cycle := rfl
@[simp] theorem State.mem_satFld (k hi lo n : Nat) : (s.satFld k hi lo n).mem = s.mem := rfl
@[simp] theorem State.poison_satFld (k hi lo n : Nat) : (s.satFld k hi lo n).poison = s.poison := rfl
@[simp] theorem State.errs_satFld (k hi lo n : Nat) : (s.satFld k hi lo n).errs = s.errs := rfl
@[simp] theorem State.seenCe_satFld (k hi lo n : Nat) : (s.satFld k hi lo n).seenCe = s.seenCe := rfl
@[simp] theorem State.seenUe_satFld (k hi lo n : Nat) : (s.satFld k hi lo n).seenUe = s.seenUe := rfl
@[simp] theorem State.writeBacks_satFld (k hi lo n : Nat) : (s.satFld k hi lo n).writeBacks = s.writeBacks := rfl
@[simp] theorem State.scrubPos_satFld (k hi lo n : Nat) : (s.satFld k hi lo n).scrubPos = s.scrubPos := rfl
@[simp] theorem State.cores_satFld (k hi lo n : Nat) : (s.satFld k hi lo n).cores = s.cores := rfl
@[simp] theorem State.benches_satFld (k hi lo n : Nat) : (s.satFld k hi lo n).benches = s.benches := rfl
@[simp] theorem State.dies_satFld (k hi lo n : Nat) : (s.satFld k hi lo n).dies = s.dies := rfl
@[simp] theorem State.hubs_satFld (k hi lo n : Nat) : (s.satFld k hi lo n).hubs = s.hubs := rfl
@[simp] theorem State.ports_satFld (k hi lo n : Nat) : (s.satFld k hi lo n).ports = s.ports := rfl
@[simp] theorem State.tab_satFld (k hi lo n : Nat) : (s.satFld k hi lo n).tab = s.tab := rfl
@[simp] theorem State.job_satFld (k hi lo n : Nat) : (s.satFld k hi lo n).job = s.job := rfl
@[simp] theorem State.loader_satFld (k hi lo n : Nat) : (s.satFld k hi lo n).loader = s.loader := rfl
@[simp] theorem State.mgr_satFld (k hi lo n : Nat) : (s.satFld k hi lo n).mgr = s.mgr := rfl
@[simp] theorem State.mgt_satFld (k hi lo n : Nat) : (s.satFld k hi lo n).mgt = s.mgt := rfl
@[simp] theorem State.sec_satFld (k hi lo n : Nat) : (s.satFld k hi lo n).sec = s.sec := rfl
@[simp] theorem State.flash_satFld (k hi lo n : Nat) : (s.satFld k hi lo n).flash = s.flash := rfl
@[simp] theorem State.pins_satFld (k hi lo n : Nat) : (s.satFld k hi lo n).pins = s.pins := rfl
@[simp] theorem State.out_satFld (k hi lo n : Nat) : (s.satFld k hi lo n).out = s.out := rfl
@[simp] theorem State.core_satFld (k hi lo n : Nat) (c' : CoreId) : (s.satFld k hi lo n).core c' = s.core c' := rfl
@[simp] theorem State.bench_satFld (k hi lo n : Nat) (b' : BenchId) : (s.satFld k hi lo n).bench b' = s.bench b' := rfl
@[simp] theorem State.die_satFld (k hi lo n : Nat) (d' : Die) : (s.satFld k hi lo n).die d' = s.die d' := rfl
@[simp] theorem State.hub_satFld (k hi lo n : Nat) (h' : Hub) : (s.satFld k hi lo n).hub h' = s.hub h' := rfl
@[simp] theorem State.port_satFld (k hi lo n : Nat) (p' : PortId) : (s.satFld k hi lo n).port p' = s.port p' := rfl

@[simp] theorem State.pending_reach (t : Nat) : (s.reach t).pending = s.pending := rfl
@[simp] theorem State.tbBase_reach (t : Nat) : (s.reach t).tbBase = s.tbBase := rfl
@[simp] theorem State.lastSync_reach (t : Nat) : (s.reach t).lastSync = s.lastSync := rfl
@[simp] theorem State.draws_reach (t : Nat) : (s.reach t).draws = s.draws := rfl
@[simp] theorem State.csr_reach (t : Nat) : (s.reach t).csr = s.csr := rfl
@[simp] theorem State.ctr_reach (t : Nat) : (s.reach t).ctr = s.ctr := rfl
@[simp] theorem State.mem_reach (t : Nat) : (s.reach t).mem = s.mem := rfl
@[simp] theorem State.poison_reach (t : Nat) : (s.reach t).poison = s.poison := rfl
@[simp] theorem State.errs_reach (t : Nat) : (s.reach t).errs = s.errs := rfl
@[simp] theorem State.seenCe_reach (t : Nat) : (s.reach t).seenCe = s.seenCe := rfl
@[simp] theorem State.seenUe_reach (t : Nat) : (s.reach t).seenUe = s.seenUe := rfl
@[simp] theorem State.writeBacks_reach (t : Nat) : (s.reach t).writeBacks = s.writeBacks := rfl
@[simp] theorem State.scrubPos_reach (t : Nat) : (s.reach t).scrubPos = s.scrubPos := rfl
@[simp] theorem State.cores_reach (t : Nat) : (s.reach t).cores = s.cores := rfl
@[simp] theorem State.benches_reach (t : Nat) : (s.reach t).benches = s.benches := rfl
@[simp] theorem State.dies_reach (t : Nat) : (s.reach t).dies = s.dies := rfl
@[simp] theorem State.hubs_reach (t : Nat) : (s.reach t).hubs = s.hubs := rfl
@[simp] theorem State.ports_reach (t : Nat) : (s.reach t).ports = s.ports := rfl
@[simp] theorem State.tab_reach (t : Nat) : (s.reach t).tab = s.tab := rfl
@[simp] theorem State.job_reach (t : Nat) : (s.reach t).job = s.job := rfl
@[simp] theorem State.loader_reach (t : Nat) : (s.reach t).loader = s.loader := rfl
@[simp] theorem State.mgr_reach (t : Nat) : (s.reach t).mgr = s.mgr := rfl
@[simp] theorem State.mgt_reach (t : Nat) : (s.reach t).mgt = s.mgt := rfl
@[simp] theorem State.sec_reach (t : Nat) : (s.reach t).sec = s.sec := rfl
@[simp] theorem State.flash_reach (t : Nat) : (s.reach t).flash = s.flash := rfl
@[simp] theorem State.pins_reach (t : Nat) : (s.reach t).pins = s.pins := rfl
@[simp] theorem State.out_reach (t : Nat) : (s.reach t).out = s.out := rfl
@[simp] theorem State.core_reach (t : Nat) (c' : CoreId) : (s.reach t).core c' = s.core c' := rfl
@[simp] theorem State.bench_reach (t : Nat) (b' : BenchId) : (s.reach t).bench b' = s.bench b' := rfl
@[simp] theorem State.die_reach (t : Nat) (d' : Die) : (s.reach t).die d' = s.die d' := rfl
@[simp] theorem State.hub_reach (t : Nat) (h' : Hub) : (s.reach t).hub h' = s.hub h' := rfl
@[simp] theorem State.port_reach (t : Nat) (p' : PortId) : (s.reach t).port p' = s.port p' := rfl
@[simp] theorem State.reg_reach (t : Nat) (k' : Nat) : (s.reach t).reg k' = s.reg k' := rfl
@[simp] theorem State.fld_reach (t : Nat) (k' hi' lo' : Nat) : (s.reach t).fld k' hi' lo' = s.fld k' hi' lo' := rfl

@[simp] theorem State.pending_drew : s.drew.pending = s.pending := rfl
@[simp] theorem State.now_drew : s.drew.now = s.now := rfl
@[simp] theorem State.tbBase_drew : s.drew.tbBase = s.tbBase := rfl
@[simp] theorem State.lastSync_drew : s.drew.lastSync = s.lastSync := rfl
@[simp] theorem State.csr_drew : s.drew.csr = s.csr := rfl
@[simp] theorem State.ctr_drew : s.drew.ctr = s.ctr := rfl
@[simp] theorem State.cycle_drew : s.drew.cycle = s.cycle := rfl
@[simp] theorem State.mem_drew : s.drew.mem = s.mem := rfl
@[simp] theorem State.poison_drew : s.drew.poison = s.poison := rfl
@[simp] theorem State.errs_drew : s.drew.errs = s.errs := rfl
@[simp] theorem State.seenCe_drew : s.drew.seenCe = s.seenCe := rfl
@[simp] theorem State.seenUe_drew : s.drew.seenUe = s.seenUe := rfl
@[simp] theorem State.writeBacks_drew : s.drew.writeBacks = s.writeBacks := rfl
@[simp] theorem State.scrubPos_drew : s.drew.scrubPos = s.scrubPos := rfl
@[simp] theorem State.cores_drew : s.drew.cores = s.cores := rfl
@[simp] theorem State.benches_drew : s.drew.benches = s.benches := rfl
@[simp] theorem State.dies_drew : s.drew.dies = s.dies := rfl
@[simp] theorem State.hubs_drew : s.drew.hubs = s.hubs := rfl
@[simp] theorem State.ports_drew : s.drew.ports = s.ports := rfl
@[simp] theorem State.tab_drew : s.drew.tab = s.tab := rfl
@[simp] theorem State.job_drew : s.drew.job = s.job := rfl
@[simp] theorem State.loader_drew : s.drew.loader = s.loader := rfl
@[simp] theorem State.mgr_drew : s.drew.mgr = s.mgr := rfl
@[simp] theorem State.mgt_drew : s.drew.mgt = s.mgt := rfl
@[simp] theorem State.sec_drew : s.drew.sec = s.sec := rfl
@[simp] theorem State.flash_drew : s.drew.flash = s.flash := rfl
@[simp] theorem State.pins_drew : s.drew.pins = s.pins := rfl
@[simp] theorem State.out_drew : s.drew.out = s.out := rfl
@[simp] theorem State.core_drew  (c' : CoreId) : s.drew.core c' = s.core c' := rfl
@[simp] theorem State.bench_drew  (b' : BenchId) : s.drew.bench b' = s.bench b' := rfl
@[simp] theorem State.die_drew  (d' : Die) : s.drew.die d' = s.die d' := rfl
@[simp] theorem State.hub_drew  (h' : Hub) : s.drew.hub h' = s.hub h' := rfl
@[simp] theorem State.port_drew  (p' : PortId) : s.drew.port p' = s.port p' := rfl
@[simp] theorem State.reg_drew  (k' : Nat) : s.drew.reg k' = s.reg k' := rfl
@[simp] theorem State.fld_drew  (k' hi' lo' : Nat) : s.drew.fld k' hi' lo' = s.fld k' hi' lo' := rfl

@[simp] theorem State.pending_newCycle : s.newCycle.pending = s.pending := rfl
@[simp] theorem State.now_newCycle : s.newCycle.now = s.now := rfl
@[simp] theorem State.tbBase_newCycle : s.newCycle.tbBase = s.tbBase := rfl
@[simp] theorem State.lastSync_newCycle : s.newCycle.lastSync = s.lastSync := rfl
@[simp] theorem State.draws_newCycle : s.newCycle.draws = s.draws := rfl
@[simp] theorem State.csr_newCycle : s.newCycle.csr = s.csr := rfl
@[simp] theorem State.ctr_newCycle : s.newCycle.ctr = s.ctr := rfl
@[simp] theorem State.mem_newCycle : s.newCycle.mem = s.mem := rfl
@[simp] theorem State.poison_newCycle : s.newCycle.poison = s.poison := rfl
@[simp] theorem State.errs_newCycle : s.newCycle.errs = s.errs := rfl
@[simp] theorem State.seenCe_newCycle : s.newCycle.seenCe = s.seenCe := rfl
@[simp] theorem State.seenUe_newCycle : s.newCycle.seenUe = s.seenUe := rfl
@[simp] theorem State.writeBacks_newCycle : s.newCycle.writeBacks = s.writeBacks := rfl
@[simp] theorem State.scrubPos_newCycle : s.newCycle.scrubPos = s.scrubPos := rfl
@[simp] theorem State.cores_newCycle : s.newCycle.cores = s.cores := rfl
@[simp] theorem State.benches_newCycle : s.newCycle.benches = s.benches := rfl
@[simp] theorem State.dies_newCycle : s.newCycle.dies = s.dies := rfl
@[simp] theorem State.hubs_newCycle : s.newCycle.hubs = s.hubs := rfl
@[simp] theorem State.ports_newCycle : s.newCycle.ports = s.ports := rfl
@[simp] theorem State.tab_newCycle : s.newCycle.tab = s.tab := rfl
@[simp] theorem State.job_newCycle : s.newCycle.job = s.job := rfl
@[simp] theorem State.loader_newCycle : s.newCycle.loader = s.loader := rfl
@[simp] theorem State.mgr_newCycle : s.newCycle.mgr = s.mgr := rfl
@[simp] theorem State.mgt_newCycle : s.newCycle.mgt = s.mgt := rfl
@[simp] theorem State.sec_newCycle : s.newCycle.sec = s.sec := rfl
@[simp] theorem State.flash_newCycle : s.newCycle.flash = s.flash := rfl
@[simp] theorem State.pins_newCycle : s.newCycle.pins = s.pins := rfl
@[simp] theorem State.out_newCycle : s.newCycle.out = s.out := rfl
@[simp] theorem State.core_newCycle  (c' : CoreId) : s.newCycle.core c' = s.core c' := rfl
@[simp] theorem State.bench_newCycle  (b' : BenchId) : s.newCycle.bench b' = s.bench b' := rfl
@[simp] theorem State.die_newCycle  (d' : Die) : s.newCycle.die d' = s.die d' := rfl
@[simp] theorem State.hub_newCycle  (h' : Hub) : s.newCycle.hub h' = s.hub h' := rfl
@[simp] theorem State.port_newCycle  (p' : PortId) : s.newCycle.port p' = s.port p' := rfl
@[simp] theorem State.reg_newCycle  (k' : Nat) : s.newCycle.reg k' = s.reg k' := rfl
@[simp] theorem State.fld_newCycle  (k' hi' lo' : Nat) : s.newCycle.fld k' hi' lo' = s.fld k' hi' lo' := rfl

@[simp] theorem State.pending_say (m : MsgKind) (data : List Nat) : (s.say m data).pending = s.pending := rfl
@[simp] theorem State.now_say (m : MsgKind) (data : List Nat) : (s.say m data).now = s.now := rfl
@[simp] theorem State.tbBase_say (m : MsgKind) (data : List Nat) : (s.say m data).tbBase = s.tbBase := rfl
@[simp] theorem State.lastSync_say (m : MsgKind) (data : List Nat) : (s.say m data).lastSync = s.lastSync := rfl
@[simp] theorem State.draws_say (m : MsgKind) (data : List Nat) : (s.say m data).draws = s.draws := rfl
@[simp] theorem State.csr_say (m : MsgKind) (data : List Nat) : (s.say m data).csr = s.csr := rfl
@[simp] theorem State.ctr_say (m : MsgKind) (data : List Nat) : (s.say m data).ctr = s.ctr := rfl
@[simp] theorem State.cycle_say (m : MsgKind) (data : List Nat) : (s.say m data).cycle = s.cycle := rfl
@[simp] theorem State.mem_say (m : MsgKind) (data : List Nat) : (s.say m data).mem = s.mem := rfl
@[simp] theorem State.poison_say (m : MsgKind) (data : List Nat) : (s.say m data).poison = s.poison := rfl
@[simp] theorem State.errs_say (m : MsgKind) (data : List Nat) : (s.say m data).errs = s.errs := rfl
@[simp] theorem State.seenCe_say (m : MsgKind) (data : List Nat) : (s.say m data).seenCe = s.seenCe := rfl
@[simp] theorem State.seenUe_say (m : MsgKind) (data : List Nat) : (s.say m data).seenUe = s.seenUe := rfl
@[simp] theorem State.writeBacks_say (m : MsgKind) (data : List Nat) : (s.say m data).writeBacks = s.writeBacks := rfl
@[simp] theorem State.scrubPos_say (m : MsgKind) (data : List Nat) : (s.say m data).scrubPos = s.scrubPos := rfl
@[simp] theorem State.cores_say (m : MsgKind) (data : List Nat) : (s.say m data).cores = s.cores := rfl
@[simp] theorem State.benches_say (m : MsgKind) (data : List Nat) : (s.say m data).benches = s.benches := rfl
@[simp] theorem State.dies_say (m : MsgKind) (data : List Nat) : (s.say m data).dies = s.dies := rfl
@[simp] theorem State.hubs_say (m : MsgKind) (data : List Nat) : (s.say m data).hubs = s.hubs := rfl
@[simp] theorem State.ports_say (m : MsgKind) (data : List Nat) : (s.say m data).ports = s.ports := rfl
@[simp] theorem State.tab_say (m : MsgKind) (data : List Nat) : (s.say m data).tab = s.tab := rfl
@[simp] theorem State.job_say (m : MsgKind) (data : List Nat) : (s.say m data).job = s.job := rfl
@[simp] theorem State.loader_say (m : MsgKind) (data : List Nat) : (s.say m data).loader = s.loader := rfl
@[simp] theorem State.mgr_say (m : MsgKind) (data : List Nat) : (s.say m data).mgr = s.mgr := rfl
@[simp] theorem State.mgt_say (m : MsgKind) (data : List Nat) : (s.say m data).mgt = s.mgt := rfl
@[simp] theorem State.sec_say (m : MsgKind) (data : List Nat) : (s.say m data).sec = s.sec := rfl
@[simp] theorem State.flash_say (m : MsgKind) (data : List Nat) : (s.say m data).flash = s.flash := rfl
@[simp] theorem State.pins_say (m : MsgKind) (data : List Nat) : (s.say m data).pins = s.pins := rfl
@[simp] theorem State.core_say (m : MsgKind) (data : List Nat) (c' : CoreId) : (s.say m data).core c' = s.core c' := rfl
@[simp] theorem State.bench_say (m : MsgKind) (data : List Nat) (b' : BenchId) : (s.say m data).bench b' = s.bench b' := rfl
@[simp] theorem State.die_say (m : MsgKind) (data : List Nat) (d' : Die) : (s.say m data).die d' = s.die d' := rfl
@[simp] theorem State.hub_say (m : MsgKind) (data : List Nat) (h' : Hub) : (s.say m data).hub h' = s.hub h' := rfl
@[simp] theorem State.port_say (m : MsgKind) (data : List Nat) (p' : PortId) : (s.say m data).port p' = s.port p' := rfl
@[simp] theorem State.reg_say (m : MsgKind) (data : List Nat) (k' : Nat) : (s.say m data).reg k' = s.reg k' := rfl
@[simp] theorem State.fld_say (m : MsgKind) (data : List Nat) (k' hi' lo' : Nat) : (s.say m data).fld k' hi' lo' = s.fld k' hi' lo' := rfl

/-! Reading a unit's record after writing it. -/

theorem CoreId.key_inj {c d : CoreId} (h : c.key = d.key) : c = d := by
  obtain ⟨⟨a, ha⟩, ⟨b, hb⟩, ⟨e, he⟩⟩ := c
  obtain ⟨⟨a', ha'⟩, ⟨b', hb'⟩, ⟨e', he'⟩⟩ := d
  simp only [CoreId.key, CoreId.mk.injEq, Fin.mk.injEq] at h ⊢
  omega
theorem BenchId.key_inj {c d : BenchId} (h : c.key = d.key) : c = d := by
  obtain ⟨⟨a, ha⟩, ⟨b, hb⟩⟩ := c
  obtain ⟨⟨a', ha'⟩, ⟨b', hb'⟩⟩ := d
  simp only [BenchId.key, BenchId.mk.injEq, Fin.mk.injEq] at h ⊢
  omega
theorem PortId.key_inj {c d : PortId} (h : c.key = d.key) : c = d := by
  obtain ⟨⟨a, ha⟩, ⟨b, hb⟩⟩ := c
  obtain ⟨⟨a', ha'⟩, ⟨b', hb'⟩⟩ := d
  simp only [PortId.key, PortId.mk.injEq, Fin.mk.injEq] at h ⊢
  omega

@[simp] theorem State.core_setCore (c : CoreId) (x : CoreState) : (s.setCore c x).core c = x := nget_nset_self ..
@[simp] theorem State.core_updCore (c : CoreId) (f : CoreState → CoreState) : (s.updCore c f).core c = f (s.core c) := nget_nset_self ..
theorem State.core_setCore_other {c d : CoreId} (x : CoreState) (h : d ≠ c) : (s.setCore c x).core d = s.core d :=
  nget_nset_other _ _ _ _ _ fun e => h (CoreId.key_inj e)
theorem State.core_updCore_other {c d : CoreId} (f : CoreState → CoreState) (h : d ≠ c) : (s.updCore c f).core d = s.core d :=
  nget_nset_other _ _ _ _ _ fun e => h (CoreId.key_inj e)
@[simp] theorem State.bench_setBench (b : BenchId) (x : BenchState) : (s.setBench b x).bench b = x := nget_nset_self ..
@[simp] theorem State.bench_updBench (b : BenchId) (f : BenchState → BenchState) : (s.updBench b f).bench b = f (s.bench b) := nget_nset_self ..
theorem State.bench_updBench_other {b d : BenchId} (f : BenchState → BenchState) (h : d ≠ b) : (s.updBench b f).bench d = s.bench d :=
  nget_nset_other _ _ _ _ _ fun e => h (BenchId.key_inj e)
@[simp] theorem State.die_setDie (d : Die) (x : DieState) : (s.setDie d x).die d = x := nget_nset_self ..
@[simp] theorem State.die_updDie (d : Die) (f : DieState → DieState) : (s.updDie d f).die d = f (s.die d) := nget_nset_self ..
theorem State.die_updDie_other {d e : Die} (f : DieState → DieState) (h : e ≠ d) : (s.updDie d f).die e = s.die e :=
  nget_nset_other _ _ _ _ _ fun k => h (Fin.ext k)
@[simp] theorem State.hub_setHub (h : Hub) (x : HubState) : (s.setHub h x).hub h = x := nget_nset_self ..
@[simp] theorem State.hub_updHub (h : Hub) (f : HubState → HubState) : (s.updHub h f).hub h = f (s.hub h) := nget_nset_self ..
theorem State.hub_updHub_other {h e : Hub} (f : HubState → HubState) (n : e ≠ h) : (s.updHub h f).hub e = s.hub e :=
  nget_nset_other _ _ _ _ _ fun k => n (Fin.ext k)
@[simp] theorem State.port_setPort (p : PortId) (x : PortState) : (s.setPort p x).port p = x := nget_nset_self ..
@[simp] theorem State.port_updPort (p : PortId) (f : PortState → PortState) : (s.updPort p f).port p = f (s.port p) := nget_nset_self ..
theorem State.port_updPort_other {p e : PortId} (f : PortState → PortState) (h : e ≠ p) : (s.updPort p f).port e = s.port e :=
  nget_nset_other _ _ _ _ _ fun k => h (PortId.key_inj k)

/-! Registers and fields. -/

@[simp] theorem State.reg_setReg (k : Nat) (v : Word64) : (s.setReg k v).reg k = v := by
  unfold State.reg State.setReg
  cases h : isCtr k <;> simp [nget_nset_self]
theorem State.reg_setReg_other {k j : Nat} (v : Word64) (h : storeKey j ≠ storeKey k) : (s.setReg k v).reg j = s.reg j := by
  unfold State.reg State.setReg
  cases hk : isCtr k <;> cases hj : isCtr j <;> simp [nget_nset_other _ _ _ _ _ h]

@[simp] theorem State.out_say (m : MsgKind) (data : List Nat) : (s.say m data).out = s.out ++ [⟨m, data⟩] := rfl
@[simp] theorem State.now_reach (t : Nat) : (s.reach t).now = max s.now t := rfl
theorem State.reach_of_le {t : Nat} (h : t ≤ s.now) : s.reach t = s := by
  have : ¬ s.now / 2 < t / 2 := Nat.not_lt.mpr (Nat.div_le_div_right h)
  simp [State.reach, Nat.max_eq_left h, this]
theorem State.cycle_reach_of_lt {t : Nat} (h : s.now / 2 < t / 2) : (s.reach t).cycle = { csr := s.csr, ctr := s.ctr } := if_pos h
@[simp] theorem State.cycle_newCycle : s.newCycle.cycle = { csr := s.csr, ctr := s.ctr } := rfl
@[simp] theorem State.draws_drew : s.drew.draws = s.draws + 1 := rfl

/-! Counting while no event counter was ever written. -/

theorem State.countBench_none (b : BenchId) (src : Nat) (core : Option Nat) (n : Nat) (h : s.ctr = []) : s.countBench b src core n = s := by
  simp [State.countBench, h]
theorem State.countCore_none (c : CoreId) (src n : Nat) (h : s.ctr = []) : s.countCore c src n = s := s.countBench_none _ _ _ _ h
theorem State.countDie_none (d : Die) (src n : Nat) (h : s.ctr = []) : s.countDie d src n = s := by simp [State.countDie, h]
theorem State.countHub_none (d : Hub) (src n : Nat) (h : s.ctr = []) : s.countHub d src n = s := by simp [State.countHub, h]
theorem State.countMd_none (m : Md) (src n : Nat) (h : s.ctr = []) : s.countMd m src n = s := by simp [State.countMd, h]

/-! Fields of a word. -/

theorem bitsOf_testBit (n hi lo i : Nat) : (bitsOf n hi lo).testBit i = (decide (i < hi + 1 - lo) && n.testBit (lo + i)) := by
  simp [bitsOf, Nat.testBit_mod_two_pow, Nat.testBit_shiftRight]
theorem fieldMask_testBit (hi lo i : Nat) :
    ((2 ^ (hi + 1 - lo) - 1) * 2 ^ lo).testBit i = decide (lo ≤ i ∧ i < hi + 1) := by
  rw [Nat.mul_comm, Nat.testBit_two_pow_mul]
  by_cases h : lo ≤ i <;> simp [h, Nat.testBit_two_pow_sub_one]
  omega
theorem putBits_testBit (w : Word64) (hi lo v i : Nat) (hi64 : hi < 64) :
    (putBits w hi lo v).toNat.testBit i =
      if lo ≤ i ∧ i < hi + 1 then v.testBit (i - lo) else w.toNat.testBit i := by
  unfold putBits
  simp only [BitVec.toNat_or, BitVec.toNat_and, BitVec.toNat_not, BitVec.toNat_ofNat, Nat.testBit_or, Nat.testBit_and,
    Nat.testBit_mod_two_pow]
  by_cases h64 : i < 64
  · have hnot : (2 ^ 64 - 1 - (2 ^ (hi + 1 - lo) - 1) * 2 ^ lo % 2 ^ 64).testBit i = !decide (lo ≤ i ∧ i < hi + 1) := by
      rw [show 2 ^ 64 - 1 - (2 ^ (hi + 1 - lo) - 1) * 2 ^ lo % 2 ^ 64 = 2 ^ 64 - ((2 ^ (hi + 1 - lo) - 1) * 2 ^ lo % 2 ^ 64 + 1) by omega,
        Nat.testBit_two_pow_sub_succ (Nat.mod_lt _ (by decide)), Nat.testBit_mod_two_pow, fieldMask_testBit]
      simp [h64]
    rw [hnot, fieldMask_testBit]
    have hv : (v * 2 ^ lo).testBit i = (decide (lo ≤ i) && v.testBit (i - lo)) := by rw [Nat.mul_comm, Nat.testBit_two_pow_mul]
    rw [hv]
    by_cases h : lo ≤ i ∧ i < hi + 1
    · rw [if_pos h, decide_eq_true h]; simp [h.1, h64]
    · rw [if_neg h, decide_eq_false h]; simp
  · have h1 : w.toNat.testBit i = false := Nat.testBit_lt_two_pow (Nat.lt_of_lt_of_le w.isLt (Nat.pow_le_pow_right (by decide) (by omega)))
    have h2 : ¬ (lo ≤ i ∧ i < hi + 1) := by omega
    rw [if_neg h2]; simp [h1, h64]

theorem bitsOf_putBits (w : Word64) (hi lo v : Nat) (hi64 : hi < 64) :
    bitsOf (putBits w hi lo v).toNat hi lo = v % 2 ^ (hi + 1 - lo) := by
  apply Nat.eq_of_testBit_eq
  intro i
  rw [bitsOf_testBit, putBits_testBit _ _ _ _ _ hi64, Nat.testBit_mod_two_pow]
  by_cases h : i < hi + 1 - lo
  · rw [if_pos (by omega)]; simp [h]
  · simp [h]

theorem bitsOf_putBits_other (w : Word64) (hi lo hi' lo' v : Nat) (hi64 : hi < 64) (h : hi < lo' ∨ hi' < lo) :
    bitsOf (putBits w hi lo v).toNat hi' lo' = bitsOf w.toNat hi' lo' := by
  apply Nat.eq_of_testBit_eq
  intro i
  rw [bitsOf_testBit, bitsOf_testBit, putBits_testBit _ _ _ _ _ hi64]
  by_cases k : i < hi' + 1 - lo'
  · rw [if_neg (by omega)]
  · simp [k]

theorem State.fld_setFld (k hi lo v : Nat) (h : hi < 64) : (s.setFld k hi lo v).fld k hi lo = v % 2 ^ (hi + 1 - lo) := by
  unfold State.fld State.setFld
  rw [State.reg_setReg, bitsOf_putBits _ _ _ _ h]
theorem State.fld_setFld_other (k hi lo hi' lo' v : Nat) (h : hi < 64) (d : hi < lo' ∨ hi' < lo) :
    (s.setFld k hi lo v).fld k hi' lo' = s.fld k hi' lo' := by
  unfold State.fld State.setFld
  rw [State.reg_setReg, bitsOf_putBits_other _ _ _ _ _ _ h d]
theorem State.reg_setFld_other {k j : Nat} (hi lo v : Nat) (h : storeKey j ≠ storeKey k) : (s.setFld k hi lo v).reg j = s.reg j :=
  s.reg_setReg_other _ h
theorem State.fld_setFld_key {k j : Nat} (hi lo v hi' lo' : Nat) (h : storeKey j ≠ storeKey k) :
    (s.setFld k hi lo v).fld j hi' lo' = s.fld j hi' lo' := by
  unfold State.fld; rw [State.reg_setFld_other s hi lo v h]
theorem State.fld_setReg_key {k j : Nat} (v : Word64) (hi lo : Nat) (h : storeKey j ≠ storeKey k) :
    (s.setReg k v).fld j hi lo = s.fld j hi lo := by
  unfold State.fld; rw [State.reg_setReg_other s v h]

/-! The later of two writes of one record stands. -/

theorem nset_nset {β : Type} (m : NMap β) (i : Nat) (x y : β) : nset (nset m i x) i y = nset m i y := by
  induction m with
  | nil => simp [nset]
  | cons e m ih =>
    obtain ⟨k, v⟩ := e
    by_cases h1 : i < k
    · simp [nset, h1]
    · by_cases h2 : i = k
      · simp [nset, h2]
      · simp [nset, h1, h2, ih]

@[simp] theorem State.setCore_setCore (c : CoreId) (x y : CoreState) : (s.setCore c x).setCore c y = s.setCore c y := by
  simp [State.setCore, nset_nset]
@[simp] theorem State.setBench_setBench (b : BenchId) (x y : BenchState) : (s.setBench b x).setBench b y = s.setBench b y := by
  simp [State.setBench, nset_nset]

/-! Rising lists used as sets. -/

@[simp] theorem smem_sinsert_self (l : List Nat) (i : Nat) : smem (sinsert l i) i = true := by
  induction l with
  | nil => simp [sinsert, smem]
  | cons k l ih =>
    unfold sinsert
    split
    · simp [smem]
    · split
      · rename_i h1 h2; subst h2; simp [smem]
      · rename_i h1 h2; simp [smem, h1, h2, ih]
@[simp] theorem smem_serase_self (l : List Nat) (i : Nat) : smem (serase l i) i = false := by
  induction l with
  | nil => rfl
  | cons k l ih =>
    unfold serase
    split
    · exact ih
    · rename_i h; unfold smem; rw [if_neg h]; split
      · rfl
      · exact ih

theorem CoreState.s_setS (x : CoreState) (n m : Nat) (v : Word64) (p : Bool) :
    (x.setS n v p).s m = if m % 32 = n % 32 ∧ n % 32 ≠ 0 then v else x.s m := by
  by_cases h0 : n % 32 = 0
  · simp [CoreState.setS, h0]
  · by_cases hm : m % 32 = n % 32
    · simp [CoreState.setS, h0, CoreState.markReg, CoreState.s, hm]
    · simp [CoreState.setS, h0, CoreState.markReg, CoreState.s, hm, nget_nset_other _ _ _ _ _ hm]
theorem CoreState.v_setV (x : CoreState) (n m : Nat) (v : Vec) (p : Bool) :
    (x.setV n v p).v m = if m % 64 = n % 64 then v else x.v m := by
  by_cases hm : m % 64 = n % 64
  · simp [CoreState.setV, CoreState.markReg, CoreState.v, hm]
  · simp [CoreState.setV, CoreState.markReg, CoreState.v, hm, nget_nset_other _ _ _ _ _ hm]
theorem CoreState.pz_setS (x : CoreState) (n : Nat) (v : Word64) (p : Bool) (h : n % 32 ≠ 0) : (x.setS n v p).pz (n % 32) = p := by
  cases p <;> simp [CoreState.setS, h, CoreState.markReg, CoreState.pz]
theorem CoreState.pz_setV (x : CoreState) (n : Nat) (v : Vec) (p : Bool) : (x.setV n v p).pz (vReg n) = p := by
  have : vReg n ≠ 0 := by unfold vReg; omega
  cases p <;> simp [CoreState.setV, CoreState.markReg, CoreState.pz, this]
theorem smem_sinsert_of {l : List Nat} {i : Nat} (j : Nat) (h : smem l i = true) : smem (sinsert l j) i = true := by
  induction l with
  | nil => simp [smem] at h
  | cons k l ih =>
    unfold smem at h
    unfold sinsert
    by_cases h1 : i = k
    · subst h1; split
      · rename_i h3; simp [smem, show i ≠ j by omega, show ¬ i < j by omega]
      · split <;> simp [smem]
    · rw [if_neg h1] at h
      by_cases h2 : i < k
      · rw [if_pos h2] at h; exact absurd h (by decide)
      · rw [if_neg h2] at h
        split
        · rename_i h3; simp [smem, h1, h2, h, show i ≠ j by omega, show ¬ i < j by omega]
        · split
          · simp [smem, h1, h2, h]
          · simp [smem, h1, h2, ih h]

end Sys2Proof.Machine
end

