-- ==== Sys2Proof/Laws/Frames.lean ====
section
/-!
SUPPORT. What counting, reporting and logging leave alone: an event counted changes registers only, a report appends a message,
a log entry changes the log and its registers.
-/
namespace Sys2Proof.Machine

/-- Registers and event counters may have changed, nothing else. -/
def RegsOnly (s t : State) : Prop := t = { s with csr := t.csr, ctr := t.ctr }
theorem RegsOnly.refl (s : State) : RegsOnly s s := rfl
theorem RegsOnly.trans {s t u : State} (h : RegsOnly s t) (k : RegsOnly t u) : RegsOnly s u := by
  unfold RegsOnly at *; rw [k, h]
theorem RegsOnly.pending {s t : State} (h : RegsOnly s t) : t.pending = s.pending := by unfold RegsOnly at h; rw [h]
theorem RegsOnly.now {s t : State} (h : RegsOnly s t) : t.now = s.now := by unfold RegsOnly at h; rw [h]
theorem RegsOnly.tbBase {s t : State} (h : RegsOnly s t) : t.tbBase = s.tbBase := by unfold RegsOnly at h; rw [h]
theorem RegsOnly.lastSync {s t : State} (h : RegsOnly s t) : t.lastSync = s.lastSync := by unfold RegsOnly at h; rw [h]
theorem RegsOnly.draws {s t : State} (h : RegsOnly s t) : t.draws = s.draws := by unfold RegsOnly at h; rw [h]
theorem RegsOnly.cycle {s t : State} (h : RegsOnly s t) : t.cycle = s.cycle := by unfold RegsOnly at h; rw [h]
theorem RegsOnly.mem {s t : State} (h : RegsOnly s t) : t.mem = s.mem := by unfold RegsOnly at h; rw [h]
theorem RegsOnly.poison {s t : State} (h : RegsOnly s t) : t.poison = s.poison := by unfold RegsOnly at h; rw [h]
theorem RegsOnly.errs {s t : State} (h : RegsOnly s t) : t.errs = s.errs := by unfold RegsOnly at h; rw [h]
theorem RegsOnly.seenCe {s t : State} (h : RegsOnly s t) : t.seenCe = s.seenCe := by unfold RegsOnly at h; rw [h]
theorem RegsOnly.seenUe {s t : State} (h : RegsOnly s t) : t.seenUe = s.seenUe := by unfold RegsOnly at h; rw [h]
theorem RegsOnly.writeBacks {s t : State} (h : RegsOnly s t) : t.writeBacks = s.writeBacks := by unfold RegsOnly at h; rw [h]
theorem RegsOnly.scrubPos {s t : State} (h : RegsOnly s t) : t.scrubPos = s.scrubPos := by unfold RegsOnly at h; rw [h]
theorem RegsOnly.cores {s t : State} (h : RegsOnly s t) : t.cores = s.cores := by unfold RegsOnly at h; rw [h]
theorem RegsOnly.benches {s t : State} (h : RegsOnly s t) : t.benches = s.benches := by unfold RegsOnly at h; rw [h]
theorem RegsOnly.dies {s t : State} (h : RegsOnly s t) : t.dies = s.dies := by unfold RegsOnly at h; rw [h]
theorem RegsOnly.hubs {s t : State} (h : RegsOnly s t) : t.hubs = s.hubs := by unfold RegsOnly at h; rw [h]
theorem RegsOnly.ports {s t : State} (h : RegsOnly s t) : t.ports = s.ports := by unfold RegsOnly at h; rw [h]
theorem RegsOnly.tab {s t : State} (h : RegsOnly s t) : t.tab = s.tab := by unfold RegsOnly at h; rw [h]
theorem RegsOnly.job {s t : State} (h : RegsOnly s t) : t.job = s.job := by unfold RegsOnly at h; rw [h]
theorem RegsOnly.loader {s t : State} (h : RegsOnly s t) : t.loader = s.loader := by unfold RegsOnly at h; rw [h]
theorem RegsOnly.mgr {s t : State} (h : RegsOnly s t) : t.mgr = s.mgr := by unfold RegsOnly at h; rw [h]
theorem RegsOnly.mgt {s t : State} (h : RegsOnly s t) : t.mgt = s.mgt := by unfold RegsOnly at h; rw [h]
theorem RegsOnly.sec {s t : State} (h : RegsOnly s t) : t.sec = s.sec := by unfold RegsOnly at h; rw [h]
theorem RegsOnly.flash {s t : State} (h : RegsOnly s t) : t.flash = s.flash := by unfold RegsOnly at h; rw [h]
theorem RegsOnly.pins {s t : State} (h : RegsOnly s t) : t.pins = s.pins := by unfold RegsOnly at h; rw [h]
theorem RegsOnly.out {s t : State} (h : RegsOnly s t) : t.out = s.out := by unfold RegsOnly at h; rw [h]
theorem RegsOnly.core {s t : State} (h : RegsOnly s t) (c' : CoreId) : t.core c' = s.core c' := by unfold RegsOnly at h; rw [h]; rfl
theorem RegsOnly.bench {s t : State} (h : RegsOnly s t) (b' : BenchId) : t.bench b' = s.bench b' := by unfold RegsOnly at h; rw [h]; rfl
theorem RegsOnly.die {s t : State} (h : RegsOnly s t) (d' : Die) : t.die d' = s.die d' := by unfold RegsOnly at h; rw [h]; rfl
theorem RegsOnly.hub {s t : State} (h : RegsOnly s t) (h' : Hub) : t.hub h' = s.hub h' := by unfold RegsOnly at h; rw [h]; rfl
theorem RegsOnly.port {s t : State} (h : RegsOnly s t) (p' : PortId) : t.port p' = s.port p' := by unfold RegsOnly at h; rw [h]; rfl
theorem RegsOnly.foldl {α : Type} {f : State → α → State} (hf : ∀ x a, RegsOnly x (f x a)) (l : List α) (s : State) : RegsOnly s (l.foldl f s) := by
  induction l generalizing s with
  | nil => exact RegsOnly.refl s
  | cons a l ih => exact (hf s a).trans (ih _)

/-- Registers and messages may have changed, nothing else. -/
def TellOnly (s t : State) : Prop := t = { s with csr := t.csr, ctr := t.ctr, out := t.out }
theorem TellOnly.refl (s : State) : TellOnly s s := rfl
theorem TellOnly.trans {s t u : State} (h : TellOnly s t) (k : TellOnly t u) : TellOnly s u := by
  unfold TellOnly at *; rw [k, h]
theorem TellOnly.pending {s t : State} (h : TellOnly s t) : t.pending = s.pending := by unfold TellOnly at h; rw [h]
theorem TellOnly.now {s t : State} (h : TellOnly s t) : t.now = s.now := by unfold TellOnly at h; rw [h]
theorem TellOnly.tbBase {s t : State} (h : TellOnly s t) : t.tbBase = s.tbBase := by unfold TellOnly at h; rw [h]
theorem TellOnly.lastSync {s t : State} (h : TellOnly s t) : t.lastSync = s.lastSync := by unfold TellOnly at h; rw [h]
theorem TellOnly.draws {s t : State} (h : TellOnly s t) : t.draws = s.draws := by unfold TellOnly at h; rw [h]
theorem TellOnly.cycle {s t : State} (h : TellOnly s t) : t.cycle = s.cycle := by unfold TellOnly at h; rw [h]
theorem TellOnly.mem {s t : State} (h : TellOnly s t) : t.mem = s.mem := by unfold TellOnly at h; rw [h]
theorem TellOnly.poison {s t : State} (h : TellOnly s t) : t.poison = s.poison := by unfold TellOnly at h; rw [h]
theorem TellOnly.errs {s t : State} (h : TellOnly s t) : t.errs = s.errs := by unfold TellOnly at h; rw [h]
theorem TellOnly.seenCe {s t : State} (h : TellOnly s t) : t.seenCe = s.seenCe := by unfold TellOnly at h; rw [h]
theorem TellOnly.seenUe {s t : State} (h : TellOnly s t) : t.seenUe = s.seenUe := by unfold TellOnly at h; rw [h]
theorem TellOnly.writeBacks {s t : State} (h : TellOnly s t) : t.writeBacks = s.writeBacks := by unfold TellOnly at h; rw [h]
theorem TellOnly.scrubPos {s t : State} (h : TellOnly s t) : t.scrubPos = s.scrubPos := by unfold TellOnly at h; rw [h]
theorem TellOnly.cores {s t : State} (h : TellOnly s t) : t.cores = s.cores := by unfold TellOnly at h; rw [h]
theorem TellOnly.benches {s t : State} (h : TellOnly s t) : t.benches = s.benches := by unfold TellOnly at h; rw [h]
theorem TellOnly.dies {s t : State} (h : TellOnly s t) : t.dies = s.dies := by unfold TellOnly at h; rw [h]
theorem TellOnly.hubs {s t : State} (h : TellOnly s t) : t.hubs = s.hubs := by unfold TellOnly at h; rw [h]
theorem TellOnly.ports {s t : State} (h : TellOnly s t) : t.ports = s.ports := by unfold TellOnly at h; rw [h]
theorem TellOnly.tab {s t : State} (h : TellOnly s t) : t.tab = s.tab := by unfold TellOnly at h; rw [h]
theorem TellOnly.job {s t : State} (h : TellOnly s t) : t.job = s.job := by unfold TellOnly at h; rw [h]
theorem TellOnly.loader {s t : State} (h : TellOnly s t) : t.loader = s.loader := by unfold TellOnly at h; rw [h]
theorem TellOnly.mgr {s t : State} (h : TellOnly s t) : t.mgr = s.mgr := by unfold TellOnly at h; rw [h]
theorem TellOnly.mgt {s t : State} (h : TellOnly s t) : t.mgt = s.mgt := by unfold TellOnly at h; rw [h]
theorem TellOnly.sec {s t : State} (h : TellOnly s t) : t.sec = s.sec := by unfold TellOnly at h; rw [h]
theorem TellOnly.flash {s t : State} (h : TellOnly s t) : t.flash = s.flash := by unfold TellOnly at h; rw [h]
theorem TellOnly.pins {s t : State} (h : TellOnly s t) : t.pins = s.pins := by unfold TellOnly at h; rw [h]
theorem TellOnly.core {s t : State} (h : TellOnly s t) (c' : CoreId) : t.core c' = s.core c' := by unfold TellOnly at h; rw [h]; rfl
theorem TellOnly.bench {s t : State} (h : TellOnly s t) (b' : BenchId) : t.bench b' = s.bench b' := by unfold TellOnly at h; rw [h]; rfl
theorem TellOnly.die {s t : State} (h : TellOnly s t) (d' : Die) : t.die d' = s.die d' := by unfold TellOnly at h; rw [h]; rfl
theorem TellOnly.hub {s t : State} (h : TellOnly s t) (h' : Hub) : t.hub h' = s.hub h' := by unfold TellOnly at h; rw [h]; rfl
theorem TellOnly.port {s t : State} (h : TellOnly s t) (p' : PortId) : t.port p' = s.port p' := by unfold TellOnly at h; rw [h]; rfl
theorem TellOnly.foldl {α : Type} {f : State → α → State} (hf : ∀ x a, TellOnly x (f x a)) (l : List α) (s : State) : TellOnly s (l.foldl f s) := by
  induction l generalizing s with
  | nil => exact TellOnly.refl s
  | cons a l ih => exact (hf s a).trans (ih _)

/-- Registers and the log may have changed, nothing else. -/
def LogOnly (s t : State) : Prop := t = { s with csr := t.csr, ctr := t.ctr, mgt := t.mgt, flash := t.flash }
theorem LogOnly.refl (s : State) : LogOnly s s := rfl
theorem LogOnly.trans {s t u : State} (h : LogOnly s t) (k : LogOnly t u) : LogOnly s u := by
  unfold LogOnly at *; rw [k, h]
theorem LogOnly.pending {s t : State} (h : LogOnly s t) : t.pending = s.pending := by unfold LogOnly at h; rw [h]
theorem LogOnly.now {s t : State} (h : LogOnly s t) : t.now = s.now := by unfold LogOnly at h; rw [h]
theorem LogOnly.tbBase {s t : State} (h : LogOnly s t) : t.tbBase = s.tbBase := by unfold LogOnly at h; rw [h]
theorem LogOnly.lastSync {s t : State} (h : LogOnly s t) : t.lastSync = s.lastSync := by unfold LogOnly at h; rw [h]
theorem LogOnly.draws {s t : State} (h : LogOnly s t) : t.draws = s.draws := by unfold LogOnly at h; rw [h]
theorem LogOnly.cycle {s t : State} (h : LogOnly s t) : t.cycle = s.cycle := by unfold LogOnly at h; rw [h]
theorem LogOnly.mem {s t : State} (h : LogOnly s t) : t.mem = s.mem := by unfold LogOnly at h; rw [h]
theorem LogOnly.poison {s t : State} (h : LogOnly s t) : t.poison = s.poison := by unfold LogOnly at h; rw [h]
theorem LogOnly.errs {s t : State} (h : LogOnly s t) : t.errs = s.errs := by unfold LogOnly at h; rw [h]
theorem LogOnly.seenCe {s t : State} (h : LogOnly s t) : t.seenCe = s.seenCe := by unfold LogOnly at h; rw [h]
theorem LogOnly.seenUe {s t : State} (h : LogOnly s t) : t.seenUe = s.seenUe := by unfold LogOnly at h; rw [h]
theorem LogOnly.writeBacks {s t : State} (h : LogOnly s t) : t.writeBacks = s.writeBacks := by unfold LogOnly at h; rw [h]
theorem LogOnly.scrubPos {s t : State} (h : LogOnly s t) : t.scrubPos = s.scrubPos := by unfold LogOnly at h; rw [h]
theorem LogOnly.cores {s t : State} (h : LogOnly s t) : t.cores = s.cores := by unfold LogOnly at h; rw [h]
theorem LogOnly.benches {s t : State} (h : LogOnly s t) : t.benches = s.benches := by unfold LogOnly at h; rw [h]
theorem LogOnly.dies {s t : State} (h : LogOnly s t) : t.dies = s.dies := by unfold LogOnly at h; rw [h]
theorem LogOnly.hubs {s t : State} (h : LogOnly s t) : t.hubs = s.hubs := by unfold LogOnly at h; rw [h]
theorem LogOnly.ports {s t : State} (h : LogOnly s t) : t.ports = s.ports := by unfold LogOnly at h; rw [h]
theorem LogOnly.tab {s t : State} (h : LogOnly s t) : t.tab = s.tab := by unfold LogOnly at h; rw [h]
theorem LogOnly.job {s t : State} (h : LogOnly s t) : t.job = s.job := by unfold LogOnly at h; rw [h]
theorem LogOnly.loader {s t : State} (h : LogOnly s t) : t.loader = s.loader := by unfold LogOnly at h; rw [h]
theorem LogOnly.mgr {s t : State} (h : LogOnly s t) : t.mgr = s.mgr := by unfold LogOnly at h; rw [h]
theorem LogOnly.sec {s t : State} (h : LogOnly s t) : t.sec = s.sec := by unfold LogOnly at h; rw [h]
theorem LogOnly.pins {s t : State} (h : LogOnly s t) : t.pins = s.pins := by unfold LogOnly at h; rw [h]
theorem LogOnly.out {s t : State} (h : LogOnly s t) : t.out = s.out := by unfold LogOnly at h; rw [h]
theorem LogOnly.core {s t : State} (h : LogOnly s t) (c' : CoreId) : t.core c' = s.core c' := by unfold LogOnly at h; rw [h]; rfl
theorem LogOnly.bench {s t : State} (h : LogOnly s t) (b' : BenchId) : t.bench b' = s.bench b' := by unfold LogOnly at h; rw [h]; rfl
theorem LogOnly.die {s t : State} (h : LogOnly s t) (d' : Die) : t.die d' = s.die d' := by unfold LogOnly at h; rw [h]; rfl
theorem LogOnly.hub {s t : State} (h : LogOnly s t) (h' : Hub) : t.hub h' = s.hub h' := by unfold LogOnly at h; rw [h]; rfl
theorem LogOnly.port {s t : State} (h : LogOnly s t) (p' : PortId) : t.port p' = s.port p' := by unfold LogOnly at h; rw [h]; rfl
theorem LogOnly.foldl {α : Type} {f : State → α → State} (hf : ∀ x a, LogOnly x (f x a)) (l : List α) (s : State) : LogOnly s (l.foldl f s) := by
  induction l generalizing s with
  | nil => exact LogOnly.refl s
  | cons a l ih => exact (hf s a).trans (ih _)

/-- Registers, the log, messages and the service pin may have changed, nothing else. -/
def CallOnly (s t : State) : Prop := t = { s with csr := t.csr, ctr := t.ctr, mgt := t.mgt, flash := t.flash, out := t.out, pins := t.pins }
theorem CallOnly.refl (s : State) : CallOnly s s := rfl
theorem CallOnly.trans {s t u : State} (h : CallOnly s t) (k : CallOnly t u) : CallOnly s u := by
  unfold CallOnly at *; rw [k, h]
theorem CallOnly.pending {s t : State} (h : CallOnly s t) : t.pending = s.pending := by unfold CallOnly at h; rw [h]
theorem CallOnly.now {s t : State} (h : CallOnly s t) : t.now = s.now := by unfold CallOnly at h; rw [h]
theorem CallOnly.tbBase {s t : State} (h : CallOnly s t) : t.tbBase = s.tbBase := by unfold CallOnly at h; rw [h]
theorem CallOnly.lastSync {s t : State} (h : CallOnly s t) : t.lastSync = s.lastSync := by unfold CallOnly at h; rw [h]
theorem CallOnly.draws {s t : State} (h : CallOnly s t) : t.draws = s.draws := by unfold CallOnly at h; rw [h]
theorem CallOnly.cycle {s t : State} (h : CallOnly s t) : t.cycle = s.cycle := by unfold CallOnly at h; rw [h]
theorem CallOnly.mem {s t : State} (h : CallOnly s t) : t.mem = s.mem := by unfold CallOnly at h; rw [h]
theorem CallOnly.poison {s t : State} (h : CallOnly s t) : t.poison = s.poison := by unfold CallOnly at h; rw [h]
theorem CallOnly.errs {s t : State} (h : CallOnly s t) : t.errs = s.errs := by unfold CallOnly at h; rw [h]
theorem CallOnly.seenCe {s t : State} (h : CallOnly s t) : t.seenCe = s.seenCe := by unfold CallOnly at h; rw [h]
theorem CallOnly.seenUe {s t : State} (h : CallOnly s t) : t.seenUe = s.seenUe := by unfold CallOnly at h; rw [h]
theorem CallOnly.writeBacks {s t : State} (h : CallOnly s t) : t.writeBacks = s.writeBacks := by unfold CallOnly at h; rw [h]
theorem CallOnly.scrubPos {s t : State} (h : CallOnly s t) : t.scrubPos = s.scrubPos := by unfold CallOnly at h; rw [h]
theorem CallOnly.cores {s t : State} (h : CallOnly s t) : t.cores = s.cores := by unfold CallOnly at h; rw [h]
theorem CallOnly.benches {s t : State} (h : CallOnly s t) : t.benches = s.benches := by unfold CallOnly at h; rw [h]
theorem CallOnly.dies {s t : State} (h : CallOnly s t) : t.dies = s.dies := by unfold CallOnly at h; rw [h]
theorem CallOnly.hubs {s t : State} (h : CallOnly s t) : t.hubs = s.hubs := by unfold CallOnly at h; rw [h]
theorem CallOnly.ports {s t : State} (h : CallOnly s t) : t.ports = s.ports := by unfold CallOnly at h; rw [h]
theorem CallOnly.tab {s t : State} (h : CallOnly s t) : t.tab = s.tab := by unfold CallOnly at h; rw [h]
theorem CallOnly.job {s t : State} (h : CallOnly s t) : t.job = s.job := by unfold CallOnly at h; rw [h]
theorem CallOnly.loader {s t : State} (h : CallOnly s t) : t.loader = s.loader := by unfold CallOnly at h; rw [h]
theorem CallOnly.mgr {s t : State} (h : CallOnly s t) : t.mgr = s.mgr := by unfold CallOnly at h; rw [h]
theorem CallOnly.sec {s t : State} (h : CallOnly s t) : t.sec = s.sec := by unfold CallOnly at h; rw [h]
theorem CallOnly.core {s t : State} (h : CallOnly s t) (c' : CoreId) : t.core c' = s.core c' := by unfold CallOnly at h; rw [h]; rfl
theorem CallOnly.bench {s t : State} (h : CallOnly s t) (b' : BenchId) : t.bench b' = s.bench b' := by unfold CallOnly at h; rw [h]; rfl
theorem CallOnly.die {s t : State} (h : CallOnly s t) (d' : Die) : t.die d' = s.die d' := by unfold CallOnly at h; rw [h]; rfl
theorem CallOnly.hub {s t : State} (h : CallOnly s t) (h' : Hub) : t.hub h' = s.hub h' := by unfold CallOnly at h; rw [h]; rfl
theorem CallOnly.port {s t : State} (h : CallOnly s t) (p' : PortId) : t.port p' = s.port p' := by unfold CallOnly at h; rw [h]; rfl
theorem CallOnly.foldl {α : Type} {f : State → α → State} (hf : ∀ x a, CallOnly x (f x a)) (l : List α) (s : State) : CallOnly s (l.foldl f s) := by
  induction l generalizing s with
  | nil => exact CallOnly.refl s
  | cons a l ih => exact (hf s a).trans (ih _)

theorem State.setReg_only (s : State) (k : Nat) (v : Word64) : RegsOnly s (s.setReg k v) := rfl
theorem State.setFld_only (s : State) (k hi lo v : Nat) : RegsOnly s (s.setFld k hi lo v) := rfl
theorem State.satFld_only (s : State) (k hi lo n : Nat) : RegsOnly s (s.satFld k hi lo n) := rfl

theorem bumpOne_only (s : State) (sel cnt : Nat) (hit : Nat → Bool) (n : Nat) : RegsOnly s (bumpOne s sel cnt hit n) := by
  unfold bumpOne
  extract_lets v c t
  split
  · split
    · exact (s.setReg_only _ _).trans (State.setReg_only _ _ _)
    · exact s.setReg_only _ _
  · exact RegsOnly.refl s
theorem bump_only (s : State) (base : Nat → Nat) (cnt sel evc : Nat) (hit : Nat → Bool) (n : Nat) :
    RegsOnly s (bump s base cnt sel evc hit n) := RegsOnly.foldl (fun _ _ => bumpOne_only _ _ _ _ _) _ _
theorem State.countBench_only (s : State) (b : BenchId) (src : Nat) (core : Option Nat) (n : Nat) : RegsOnly s (s.countBench b src core n) := by
  unfold State.countBench
  split
  · exact RegsOnly.refl s
  · exact (bump_only ..).trans (bump_only ..)
theorem State.countCore_only (s : State) (c : CoreId) (src n : Nat) : RegsOnly s (s.countCore c src n) := s.countBench_only _ _ _ _
theorem State.countDie_only (s : State) (d : Die) (src n : Nat) : RegsOnly s (s.countDie d src n) := by
  unfold State.countDie; split
  · exact RegsOnly.refl s
  · exact bump_only ..
theorem State.countHub_only (s : State) (d : Hub) (src n : Nat) : RegsOnly s (s.countHub d src n) := by
  unfold State.countHub; split
  · exact RegsOnly.refl s
  · exact bump_only ..
theorem State.countMd_only (s : State) (d : Md) (src n : Nat) : RegsOnly s (s.countMd d src n) := by
  unfold State.countMd; split
  · exact RegsOnly.refl s
  · exact bump_only ..
theorem State.eccRecord_only (s : State) (own : BenchId ⊕ Hub) (addr store : Nat) (unc : Bool) : RegsOnly s (s.eccRecord own addr store unc) := by
  unfold State.eccRecord
  cases own <;> cases unc <;> dsimp only <;>
    first
    | exact ((s.satFld_only _ _ _ _).trans (State.setReg_only _ _ _)).trans (State.countBench_only _ _ _ _ _)
    | exact ((s.satFld_only _ _ _ _).trans (State.setReg_only _ _ _)).trans (State.countHub_only _ _ _ _)

theorem RegsOnly.tell {s t : State} (h : RegsOnly s t) : TellOnly s t := by unfold RegsOnly at h; unfold TellOnly; rw [h]
theorem RegsOnly.logs {s t : State} (h : RegsOnly s t) : LogOnly s t := by unfold RegsOnly at h; unfold LogOnly; rw [h]
theorem LogOnly.call {s t : State} (h : LogOnly s t) : CallOnly s t := by unfold LogOnly at h; unfold CallOnly; rw [h]
theorem State.coreDeadline_only (s : State) (c : CoreId) : TellOnly s (s.coreDeadline c) := (s.countDie_only _ _ _).tell.trans rfl
theorem State.benchDeadline_only (s : State) (c : BenchId) : TellOnly s (s.benchDeadline c) := (s.countDie_only _ _ _).tell.trans rfl
theorem State.hubDeadline_only (s : State) (h : Hub) : TellOnly s (s.hubDeadline h) := rfl

theorem State.addLog_only (s : State) (md : Md) (sev : Nat) (pinned : Bool) (code loc data : Nat) :
    LogOnly s (s.addLog md sev pinned code loc data) := by
  unfold State.addLog
  extract_lets q e m t1 t2 t3 own rp fr rr f4 t4 ring m5 t5
  have h1 : LogOnly s t1 := rfl
  have h2 : LogOnly s t2 := h1.trans (State.countMd_only _ _ _ _).logs
  have h3 : LogOnly s t3 := by
    unfold t3; split
    · exact h2.trans (State.countMd_only _ _ _ _).logs
    · exact h2
  have h5 : LogOnly t4 t5 := rfl
  clear_value t5
  have h4 : LogOnly s t4 := by
    unfold t4; clear_value t4 t3; split
    · exact h3.trans rfl
    · exact h3
  clear_value t4
  split
  · have h5 : LogOnly s t5 := h4.trans h5
    split
    · exact h5.trans (State.setFld_only _ _ _ _ _).logs
    · exact h5
  · split
    · exact h4.trans (State.satFld_only _ _ _ _ _).logs
    · exact h4
theorem State.log_only (s : State) (md : Md) (sev : Nat) (pinned : Bool) (rule loc data : Nat) :
    LogOnly s (s.log md sev pinned rule loc data) := by
  unfold State.log State.logEvent
  extract_lets t
  have ht : LogOnly s t := s.addLog_only _ _ _ _ _ _
  clear_value t
  split
  · exact (ht.trans (State.setFld_only _ _ _ _ _).logs).trans (State.addLog_only _ _ _ _ _ _ _)
  · exact ht
theorem State.say_only (s : State) (k : MsgKind) (d : List Nat) : CallOnly s (s.say k d) := rfl
theorem pins_only (s : State) (p : Pins) : CallOnly s { s with pins := p } := rfl
theorem State.service_only (s : State) (cls : Nat) : CallOnly s (s.service cls) := by
  unfold State.service
  extract_lets t p
  have ht : CallOnly s t := (s.setFld_only _ _ _ _).logs.call
  clear_value t
  exact ((ht.trans (pins_only _ _)).trans (State.log_only _ _ _ _ _ _ _).call).trans (State.say_only _ _ _)

@[simp] theorem State.pending_countBench (s : State) (b : BenchId) (src : Nat) (core : Option Nat) (n : Nat) : (s.countBench b src core n).pending = s.pending := (s.countBench_only b src core n).pending
@[simp] theorem State.now_countBench (s : State) (b : BenchId) (src : Nat) (core : Option Nat) (n : Nat) : (s.countBench b src core n).now = s.now := (s.countBench_only b src core n).now
@[simp] theorem State.tbBase_countBench (s : State) (b : BenchId) (src : Nat) (core : Option Nat) (n : Nat) : (s.countBench b src core n).tbBase = s.tbBase := (s.countBench_only b src core n).tbBase
@[simp] theorem State.lastSync_countBench (s : State) (b : BenchId) (src : Nat) (core : Option Nat) (n : Nat) : (s.countBench b src core n).lastSync = s.lastSync := (s.countBench_only b src core n).lastSync
@[simp] theorem State.draws_countBench (s : State) (b : BenchId) (src : Nat) (core : Option Nat) (n : Nat) : (s.countBench b src core n).draws = s.draws := (s.countBench_only b src core n).draws
@[simp] theorem State.cycle_countBench (s : State) (b : BenchId) (src : Nat) (core : Option Nat) (n : Nat) : (s.countBench b src core n).cycle = s.cycle := (s.countBench_only b src core n).cycle
@[simp] theorem State.mem_countBench (s : State) (b : BenchId) (src : Nat) (core : Option Nat) (n : Nat) : (s.countBench b src core n).mem = s.mem := (s.countBench_only b src core n).mem
@[simp] theorem State.poison_countBench (s : State) (b : BenchId) (src : Nat) (core : Option Nat) (n : Nat) : (s.countBench b src core n).poison = s.poison := (s.countBench_only b src core n).poison
@[simp] theorem State.errs_countBench (s : State) (b : BenchId) (src : Nat) (core : Option Nat) (n : Nat) : (s.countBench b src core n).errs = s.errs := (s.countBench_only b src core n).errs
@[simp] theorem State.seenCe_countBench (s : State) (b : BenchId) (src : Nat) (core : Option Nat) (n : Nat) : (s.countBench b src core n).seenCe = s.seenCe := (s.countBench_only b src core n).seenCe
@[simp] theorem State.seenUe_countBench (s : State) (b : BenchId) (src : Nat) (core : Option Nat) (n : Nat) : (s.countBench b src core n).seenUe = s.seenUe := (s.countBench_only b src core n).seenUe
@[simp] theorem State.writeBacks_countBench (s : State) (b : BenchId) (src : Nat) (core : Option Nat) (n : Nat) : (s.countBench b src core n).writeBacks = s.writeBacks := (s.countBench_only b src core n).writeBacks
@[simp] theorem State.scrubPos_countBench (s : State) (b : BenchId) (src : Nat) (core : Option Nat) (n : Nat) : (s.countBench b src core n).scrubPos = s.scrubPos := (s.countBench_only b src core n).scrubPos
@[simp] theorem State.cores_countBench (s : State) (b : BenchId) (src : Nat) (core : Option Nat) (n : Nat) : (s.countBench b src core n).cores = s.cores := (s.countBench_only b src core n).cores
@[simp] theorem State.benches_countBench (s : State) (b : BenchId) (src : Nat) (core : Option Nat) (n : Nat) : (s.countBench b src core n).benches = s.benches := (s.countBench_only b src core n).benches
@[simp] theorem State.dies_countBench (s : State) (b : BenchId) (src : Nat) (core : Option Nat) (n : Nat) : (s.countBench b src core n).dies = s.dies := (s.countBench_only b src core n).dies
@[simp] theorem State.hubs_countBench (s : State) (b : BenchId) (src : Nat) (core : Option Nat) (n : Nat) : (s.countBench b src core n).hubs = s.hubs := (s.countBench_only b src core n).hubs
@[simp] theorem State.ports_countBench (s : State) (b : BenchId) (src : Nat) (core : Option Nat) (n : Nat) : (s.countBench b src core n).ports = s.ports := (s.countBench_only b src core n).ports
@[simp] theorem State.tab_countBench (s : State) (b : BenchId) (src : Nat) (core : Option Nat) (n : Nat) : (s.countBench b src core n).tab = s.tab := (s.countBench_only b src core n).tab
@[simp] theorem State.job_countBench (s : State) (b : BenchId) (src : Nat) (core : Option Nat) (n : Nat) : (s.countBench b src core n).job = s.job := (s.countBench_only b src core n).job
@[simp] theorem State.loader_countBench (s : State) (b : BenchId) (src : Nat) (core : Option Nat) (n : Nat) : (s.countBench b src core n).loader = s.loader := (s.countBench_only b src core n).loader
@[simp] theorem State.mgr_countBench (s : State) (b : BenchId) (src : Nat) (core : Option Nat) (n : Nat) : (s.countBench b src core n).mgr = s.mgr := (s.countBench_only b src core n).mgr
@[simp] theorem State.mgt_countBench (s : State) (b : BenchId) (src : Nat) (core : Option Nat) (n : Nat) : (s.countBench b src core n).mgt = s.mgt := (s.countBench_only b src core n).mgt
@[simp] theorem State.sec_countBench (s : State) (b : BenchId) (src : Nat) (core : Option Nat) (n : Nat) : (s.countBench b src core n).sec = s.sec := (s.countBench_only b src core n).sec
@[simp] theorem State.flash_countBench (s : State) (b : BenchId) (src : Nat) (core : Option Nat) (n : Nat) : (s.countBench b src core n).flash = s.flash := (s.countBench_only b src core n).flash
@[simp] theorem State.pins_countBench (s : State) (b : BenchId) (src : Nat) (core : Option Nat) (n : Nat) : (s.countBench b src core n).pins = s.pins := (s.countBench_only b src core n).pins
@[simp] theorem State.out_countBench (s : State) (b : BenchId) (src : Nat) (core : Option Nat) (n : Nat) : (s.countBench b src core n).out = s.out := (s.countBench_only b src core n).out
@[simp] theorem State.core_countBench (s : State) (b : BenchId) (src : Nat) (core : Option Nat) (n : Nat) (c' : CoreId) : (s.countBench b src core n).core c' = s.core c' := (s.countBench_only b src core n).core c'
@[simp] theorem State.bench_countBench (s : State) (b : BenchId) (src : Nat) (core : Option Nat) (n : Nat) (b' : BenchId) : (s.countBench b src core n).bench b' = s.bench b' := (s.countBench_only b src core n).bench b'
@[simp] theorem State.die_countBench (s : State) (b : BenchId) (src : Nat) (core : Option Nat) (n : Nat) (d' : Die) : (s.countBench b src core n).die d' = s.die d' := (s.countBench_only b src core n).die d'
@[simp] theorem State.hub_countBench (s : State) (b : BenchId) (src : Nat) (core : Option Nat) (n : Nat) (h' : Hub) : (s.countBench b src core n).hub h' = s.hub h' := (s.countBench_only b src core n).hub h'
@[simp] theorem State.port_countBench (s : State) (b : BenchId) (src : Nat) (core : Option Nat) (n : Nat) (p' : PortId) : (s.countBench b src core n).port p' = s.port p' := (s.countBench_only b src core n).port p'

@[simp] theorem State.pending_countCore (s : State) (c : CoreId) (src n : Nat) : (s.countCore c src n).pending = s.pending := (s.countCore_only c src n).pending
@[simp] theorem State.now_countCore (s : State) (c : CoreId) (src n : Nat) : (s.countCore c src n).now = s.now := (s.countCore_only c src n).now
@[simp] theorem State.tbBase_countCore (s : State) (c : CoreId) (src n : Nat) : (s.countCore c src n).tbBase = s.tbBase := (s.countCore_only c src n).tbBase
@[simp] theorem State.lastSync_countCore (s : State) (c : CoreId) (src n : Nat) : (s.countCore c src n).lastSync = s.lastSync := (s.countCore_only c src n).lastSync
@[simp] theorem State.draws_countCore (s : State) (c : CoreId) (src n : Nat) : (s.countCore c src n).draws = s.draws := (s.countCore_only c src n).draws
@[simp] theorem State.cycle_countCore (s : State) (c : CoreId) (src n : Nat) : (s.countCore c src n).cycle = s.cycle := (s.countCore_only c src n).cycle
@[simp] theorem State.mem_countCore (s : State) (c : CoreId) (src n : Nat) : (s.countCore c src n).mem = s.mem := (s.countCore_only c src n).mem
@[simp] theorem State.poison_countCore (s : State) (c : CoreId) (src n : Nat) : (s.countCore c src n).poison = s.poison := (s.countCore_only c src n).poison
@[simp] theorem State.errs_countCore (s : State) (c : CoreId) (src n : Nat) : (s.countCore c src n).errs = s.errs := (s.countCore_only c src n).errs
@[simp] theorem State.seenCe_countCore (s : State) (c : CoreId) (src n : Nat) : (s.countCore c src n).seenCe = s.seenCe := (s.countCore_only c src n).seenCe
@[simp] theorem State.seenUe_countCore (s : State) (c : CoreId) (src n : Nat) : (s.countCore c src n).seenUe = s.seenUe := (s.countCore_only c src n).seenUe
@[simp] theorem State.writeBacks_countCore (s : State) (c : CoreId) (src n : Nat) : (s.countCore c src n).writeBacks = s.writeBacks := (s.countCore_only c src n).writeBacks
@[simp] theorem State.scrubPos_countCore (s : State) (c : CoreId) (src n : Nat) : (s.countCore c src n).scrubPos = s.scrubPos := (s.countCore_only c src n).scrubPos
@[simp] theorem State.cores_countCore (s : State) (c : CoreId) (src n : Nat) : (s.countCore c src n).cores = s.cores := (s.countCore_only c src n).cores
@[simp] theorem State.benches_countCore (s : State) (c : CoreId) (src n : Nat) : (s.countCore c src n).benches = s.benches := (s.countCore_only c src n).benches
@[simp] theorem State.dies_countCore (s : State) (c : CoreId) (src n : Nat) : (s.countCore c src n).dies = s.dies := (s.countCore_only c src n).dies
@[simp] theorem State.hubs_countCore (s : State) (c : CoreId) (src n : Nat) : (s.countCore c src n).hubs = s.hubs := (s.countCore_only c src n).hubs
@[simp] theorem State.ports_countCore (s : State) (c : CoreId) (src n : Nat) : (s.countCore c src n).ports = s.ports := (s.countCore_only c src n).ports
@[simp] theorem State.tab_countCore (s : State) (c : CoreId) (src n : Nat) : (s.countCore c src n).tab = s.tab := (s.countCore_only c src n).tab
@[simp] theorem State.job_countCore (s : State) (c : CoreId) (src n : Nat) : (s.countCore c src n).job = s.job := (s.countCore_only c src n).job
@[simp] theorem State.loader_countCore (s : State) (c : CoreId) (src n : Nat) : (s.countCore c src n).loader = s.loader := (s.countCore_only c src n).loader
@[simp] theorem State.mgr_countCore (s : State) (c : CoreId) (src n : Nat) : (s.countCore c src n).mgr = s.mgr := (s.countCore_only c src n).mgr
@[simp] theorem State.mgt_countCore (s : State) (c : CoreId) (src n : Nat) : (s.countCore c src n).mgt = s.mgt := (s.countCore_only c src n).mgt
@[simp] theorem State.sec_countCore (s : State) (c : CoreId) (src n : Nat) : (s.countCore c src n).sec = s.sec := (s.countCore_only c src n).sec
@[simp] theorem State.flash_countCore (s : State) (c : CoreId) (src n : Nat) : (s.countCore c src n).flash = s.flash := (s.countCore_only c src n).flash
@[simp] theorem State.pins_countCore (s : State) (c : CoreId) (src n : Nat) : (s.countCore c src n).pins = s.pins := (s.countCore_only c src n).pins
@[simp] theorem State.out_countCore (s : State) (c : CoreId) (src n : Nat) : (s.countCore c src n).out = s.out := (s.countCore_only c src n).out
@[simp] theorem State.core_countCore (s : State) (c : CoreId) (src n : Nat) (c' : CoreId) : (s.countCore c src n).core c' = s.core c' := (s.countCore_only c src n).core c'
@[simp] theorem State.bench_countCore (s : State) (c : CoreId) (src n : Nat) (b' : BenchId) : (s.countCore c src n).bench b' = s.bench b' := (s.countCore_only c src n).bench b'
@[simp] theorem State.die_countCore (s : State) (c : CoreId) (src n : Nat) (d' : Die) : (s.countCore c src n).die d' = s.die d' := (s.countCore_only c src n).die d'
@[simp] theorem State.hub_countCore (s : State) (c : CoreId) (src n : Nat) (h' : Hub) : (s.countCore c src n).hub h' = s.hub h' := (s.countCore_only c src n).hub h'
@[simp] theorem State.port_countCore (s : State) (c : CoreId) (src n : Nat) (p' : PortId) : (s.countCore c src n).port p' = s.port p' := (s.countCore_only c src n).port p'

@[simp] theorem State.pending_countDie (s : State) (d : Die) (src n : Nat) : (s.countDie d src n).pending = s.pending := (s.countDie_only d src n).pending
@[simp] theorem State.now_countDie (s : State) (d : Die) (src n : Nat) : (s.countDie d src n).now = s.now := (s.countDie_only d src n).now
@[simp] theorem State.tbBase_countDie (s : State) (d : Die) (src n : Nat) : (s.countDie d src n).tbBase = s.tbBase := (s.countDie_only d src n).tbBase
@[simp] theorem State.lastSync_countDie (s : State) (d : Die) (src n : Nat) : (s.countDie d src n).lastSync = s.lastSync := (s.countDie_only d src n).lastSync
@[simp] theorem State.draws_countDie (s : State) (d : Die) (src n : Nat) : (s.countDie d src n).draws = s.draws := (s.countDie_only d src n).draws
@[simp] theorem State.cycle_countDie (s : State) (d : Die) (src n : Nat) : (s.countDie d src n).cycle = s.cycle := (s.countDie_only d src n).cycle
@[simp] theorem State.mem_countDie (s : State) (d : Die) (src n : Nat) : (s.countDie d src n).mem = s.mem := (s.countDie_only d src n).mem
@[simp] theorem State.poison_countDie (s : State) (d : Die) (src n : Nat) : (s.countDie d src n).poison = s.poison := (s.countDie_only d src n).poison
@[simp] theorem State.errs_countDie (s : State) (d : Die) (src n : Nat) : (s.countDie d src n).errs = s.errs := (s.countDie_only d src n).errs
@[simp] theorem State.seenCe_countDie (s : State) (d : Die) (src n : Nat) : (s.countDie d src n).seenCe = s.seenCe := (s.countDie_only d src n).seenCe
@[simp] theorem State.seenUe_countDie (s : State) (d : Die) (src n : Nat) : (s.countDie d src n).seenUe = s.seenUe := (s.countDie_only d src n).seenUe
@[simp] theorem State.writeBacks_countDie (s : State) (d : Die) (src n : Nat) : (s.countDie d src n).writeBacks = s.writeBacks := (s.countDie_only d src n).writeBacks
@[simp] theorem State.scrubPos_countDie (s : State) (d : Die) (src n : Nat) : (s.countDie d src n).scrubPos = s.scrubPos := (s.countDie_only d src n).scrubPos
@[simp] theorem State.cores_countDie (s : State) (d : Die) (src n : Nat) : (s.countDie d src n).cores = s.cores := (s.countDie_only d src n).cores
@[simp] theorem State.benches_countDie (s : State) (d : Die) (src n : Nat) : (s.countDie d src n).benches = s.benches := (s.countDie_only d src n).benches
@[simp] theorem State.dies_countDie (s : State) (d : Die) (src n : Nat) : (s.countDie d src n).dies = s.dies := (s.countDie_only d src n).dies
@[simp] theorem State.hubs_countDie (s : State) (d : Die) (src n : Nat) : (s.countDie d src n).hubs = s.hubs := (s.countDie_only d src n).hubs
@[simp] theorem State.ports_countDie (s : State) (d : Die) (src n : Nat) : (s.countDie d src n).ports = s.ports := (s.countDie_only d src n).ports
@[simp] theorem State.tab_countDie (s : State) (d : Die) (src n : Nat) : (s.countDie d src n).tab = s.tab := (s.countDie_only d src n).tab
@[simp] theorem State.job_countDie (s : State) (d : Die) (src n : Nat) : (s.countDie d src n).job = s.job := (s.countDie_only d src n).job
@[simp] theorem State.loader_countDie (s : State) (d : Die) (src n : Nat) : (s.countDie d src n).loader = s.loader := (s.countDie_only d src n).loader
@[simp] theorem State.mgr_countDie (s : State) (d : Die) (src n : Nat) : (s.countDie d src n).mgr = s.mgr := (s.countDie_only d src n).mgr
@[simp] theorem State.mgt_countDie (s : State) (d : Die) (src n : Nat) : (s.countDie d src n).mgt = s.mgt := (s.countDie_only d src n).mgt
@[simp] theorem State.sec_countDie (s : State) (d : Die) (src n : Nat) : (s.countDie d src n).sec = s.sec := (s.countDie_only d src n).sec
@[simp] theorem State.flash_countDie (s : State) (d : Die) (src n : Nat) : (s.countDie d src n).flash = s.flash := (s.countDie_only d src n).flash
@[simp] theorem State.pins_countDie (s : State) (d : Die) (src n : Nat) : (s.countDie d src n).pins = s.pins := (s.countDie_only d src n).pins
@[simp] theorem State.out_countDie (s : State) (d : Die) (src n : Nat) : (s.countDie d src n).out = s.out := (s.countDie_only d src n).out
@[simp] theorem State.core_countDie (s : State) (d : Die) (src n : Nat) (c' : CoreId) : (s.countDie d src n).core c' = s.core c' := (s.countDie_only d src n).core c'
@[simp] theorem State.bench_countDie (s : State) (d : Die) (src n : Nat) (b' : BenchId) : (s.countDie d src n).bench b' = s.bench b' := (s.countDie_only d src n).bench b'
@[simp] theorem State.die_countDie (s : State) (d : Die) (src n : Nat) (d' : Die) : (s.countDie d src n).die d' = s.die d' := (s.countDie_only d src n).die d'
@[simp] theorem State.hub_countDie (s : State) (d : Die) (src n : Nat) (h' : Hub) : (s.countDie d src n).hub h' = s.hub h' := (s.countDie_only d src n).hub h'
@[simp] theorem State.port_countDie (s : State) (d : Die) (src n : Nat) (p' : PortId) : (s.countDie d src n).port p' = s.port p' := (s.countDie_only d src n).port p'

@[simp] theorem State.pending_countHub (s : State) (h : Hub) (src n : Nat) : (s.countHub h src n).pending = s.pending := (s.countHub_only h src n).pending
@[simp] theorem State.now_countHub (s : State) (h : Hub) (src n : Nat) : (s.countHub h src n).now = s.now := (s.countHub_only h src n).now
@[simp] theorem State.tbBase_countHub (s : State) (h : Hub) (src n : Nat) : (s.countHub h src n).tbBase = s.tbBase := (s.countHub_only h src n).tbBase
@[simp] theorem State.lastSync_countHub (s : State) (h : Hub) (src n : Nat) : (s.countHub h src n).lastSync = s.lastSync := (s.countHub_only h src n).lastSync
@[simp] theorem State.draws_countHub (s : State) (h : Hub) (src n : Nat) : (s.countHub h src n).draws = s.draws := (s.countHub_only h src n).draws
@[simp] theorem State.cycle_countHub (s : State) (h : Hub) (src n : Nat) : (s.countHub h src n).cycle = s.cycle := (s.countHub_only h src n).cycle
@[simp] theorem State.mem_countHub (s : State) (h : Hub) (src n : Nat) : (s.countHub h src n).mem = s.mem := (s.countHub_only h src n).mem
@[simp] theorem State.poison_countHub (s : State) (h : Hub) (src n : Nat) : (s.countHub h src n).poison = s.poison := (s.countHub_only h src n).poison
@[simp] theorem State.errs_countHub (s : State) (h : Hub) (src n : Nat) : (s.countHub h src n).errs = s.errs := (s.countHub_only h src n).errs
@[simp] theorem State.seenCe_countHub (s : State) (h : Hub) (src n : Nat) : (s.countHub h src n).seenCe = s.seenCe := (s.countHub_only h src n).seenCe
@[simp] theorem State.seenUe_countHub (s : State) (h : Hub) (src n : Nat) : (s.countHub h src n).seenUe = s.seenUe := (s.countHub_only h src n).seenUe
@[simp] theorem State.writeBacks_countHub (s : State) (h : Hub) (src n : Nat) : (s.countHub h src n).writeBacks = s.writeBacks := (s.countHub_only h src n).writeBacks
@[simp] theorem State.scrubPos_countHub (s : State) (h : Hub) (src n : Nat) : (s.countHub h src n).scrubPos = s.scrubPos := (s.countHub_only h src n).scrubPos
@[simp] theorem State.cores_countHub (s : State) (h : Hub) (src n : Nat) : (s.countHub h src n).cores = s.cores := (s.countHub_only h src n).cores
@[simp] theorem State.benches_countHub (s : State) (h : Hub) (src n : Nat) : (s.countHub h src n).benches = s.benches := (s.countHub_only h src n).benches
@[simp] theorem State.dies_countHub (s : State) (h : Hub) (src n : Nat) : (s.countHub h src n).dies = s.dies := (s.countHub_only h src n).dies
@[simp] theorem State.hubs_countHub (s : State) (h : Hub) (src n : Nat) : (s.countHub h src n).hubs = s.hubs := (s.countHub_only h src n).hubs
@[simp] theorem State.ports_countHub (s : State) (h : Hub) (src n : Nat) : (s.countHub h src n).ports = s.ports := (s.countHub_only h src n).ports
@[simp] theorem State.tab_countHub (s : State) (h : Hub) (src n : Nat) : (s.countHub h src n).tab = s.tab := (s.countHub_only h src n).tab
@[simp] theorem State.job_countHub (s : State) (h : Hub) (src n : Nat) : (s.countHub h src n).job = s.job := (s.countHub_only h src n).job
@[simp] theorem State.loader_countHub (s : State) (h : Hub) (src n : Nat) : (s.countHub h src n).loader = s.loader := (s.countHub_only h src n).loader
@[simp] theorem State.mgr_countHub (s : State) (h : Hub) (src n : Nat) : (s.countHub h src n).mgr = s.mgr := (s.countHub_only h src n).mgr
@[simp] theorem State.mgt_countHub (s : State) (h : Hub) (src n : Nat) : (s.countHub h src n).mgt = s.mgt := (s.countHub_only h src n).mgt
@[simp] theorem State.sec_countHub (s : State) (h : Hub) (src n : Nat) : (s.countHub h src n).sec = s.sec := (s.countHub_only h src n).sec
@[simp] theorem State.flash_countHub (s : State) (h : Hub) (src n : Nat) : (s.countHub h src n).flash = s.flash := (s.countHub_only h src n).flash
@[simp] theorem State.pins_countHub (s : State) (h : Hub) (src n : Nat) : (s.countHub h src n).pins = s.pins := (s.countHub_only h src n).pins
@[simp] theorem State.out_countHub (s : State) (h : Hub) (src n : Nat) : (s.countHub h src n).out = s.out := (s.countHub_only h src n).out
@[simp] theorem State.core_countHub (s : State) (h : Hub) (src n : Nat) (c' : CoreId) : (s.countHub h src n).core c' = s.core c' := (s.countHub_only h src n).core c'
@[simp] theorem State.bench_countHub (s : State) (h : Hub) (src n : Nat) (b' : BenchId) : (s.countHub h src n).bench b' = s.bench b' := (s.countHub_only h src n).bench b'
@[simp] theorem State.die_countHub (s : State) (h : Hub) (src n : Nat) (d' : Die) : (s.countHub h src n).die d' = s.die d' := (s.countHub_only h src n).die d'
@[simp] theorem State.hub_countHub (s : State) (h : Hub) (src n : Nat) (h' : Hub) : (s.countHub h src n).hub h' = s.hub h' := (s.countHub_only h src n).hub h'
@[simp] theorem State.port_countHub (s : State) (h : Hub) (src n : Nat) (p' : PortId) : (s.countHub h src n).port p' = s.port p' := (s.countHub_only h src n).port p'

@[simp] theorem State.pending_countMd (s : State) (m : Md) (src n : Nat) : (s.countMd m src n).pending = s.pending := (s.countMd_only m src n).pending
@[simp] theorem State.now_countMd (s : State) (m : Md) (src n : Nat) : (s.countMd m src n).now = s.now := (s.countMd_only m src n).now
@[simp] theorem State.tbBase_countMd (s : State) (m : Md) (src n : Nat) : (s.countMd m src n).tbBase = s.tbBase := (s.countMd_only m src n).tbBase
@[simp] theorem State.lastSync_countMd (s : State) (m : Md) (src n : Nat) : (s.countMd m src n).lastSync = s.lastSync := (s.countMd_only m src n).lastSync
@[simp] theorem State.draws_countMd (s : State) (m : Md) (src n : Nat) : (s.countMd m src n).draws = s.draws := (s.countMd_only m src n).draws
@[simp] theorem State.cycle_countMd (s : State) (m : Md) (src n : Nat) : (s.countMd m src n).cycle = s.cycle := (s.countMd_only m src n).cycle
@[simp] theorem State.mem_countMd (s : State) (m : Md) (src n : Nat) : (s.countMd m src n).mem = s.mem := (s.countMd_only m src n).mem
@[simp] theorem State.poison_countMd (s : State) (m : Md) (src n : Nat) : (s.countMd m src n).poison = s.poison := (s.countMd_only m src n).poison
@[simp] theorem State.errs_countMd (s : State) (m : Md) (src n : Nat) : (s.countMd m src n).errs = s.errs := (s.countMd_only m src n).errs
@[simp] theorem State.seenCe_countMd (s : State) (m : Md) (src n : Nat) : (s.countMd m src n).seenCe = s.seenCe := (s.countMd_only m src n).seenCe
@[simp] theorem State.seenUe_countMd (s : State) (m : Md) (src n : Nat) : (s.countMd m src n).seenUe = s.seenUe := (s.countMd_only m src n).seenUe
@[simp] theorem State.writeBacks_countMd (s : State) (m : Md) (src n : Nat) : (s.countMd m src n).writeBacks = s.writeBacks := (s.countMd_only m src n).writeBacks
@[simp] theorem State.scrubPos_countMd (s : State) (m : Md) (src n : Nat) : (s.countMd m src n).scrubPos = s.scrubPos := (s.countMd_only m src n).scrubPos
@[simp] theorem State.cores_countMd (s : State) (m : Md) (src n : Nat) : (s.countMd m src n).cores = s.cores := (s.countMd_only m src n).cores
@[simp] theorem State.benches_countMd (s : State) (m : Md) (src n : Nat) : (s.countMd m src n).benches = s.benches := (s.countMd_only m src n).benches
@[simp] theorem State.dies_countMd (s : State) (m : Md) (src n : Nat) : (s.countMd m src n).dies = s.dies := (s.countMd_only m src n).dies
@[simp] theorem State.hubs_countMd (s : State) (m : Md) (src n : Nat) : (s.countMd m src n).hubs = s.hubs := (s.countMd_only m src n).hubs
@[simp] theorem State.ports_countMd (s : State) (m : Md) (src n : Nat) : (s.countMd m src n).ports = s.ports := (s.countMd_only m src n).ports
@[simp] theorem State.tab_countMd (s : State) (m : Md) (src n : Nat) : (s.countMd m src n).tab = s.tab := (s.countMd_only m src n).tab
@[simp] theorem State.job_countMd (s : State) (m : Md) (src n : Nat) : (s.countMd m src n).job = s.job := (s.countMd_only m src n).job
@[simp] theorem State.loader_countMd (s : State) (m : Md) (src n : Nat) : (s.countMd m src n).loader = s.loader := (s.countMd_only m src n).loader
@[simp] theorem State.mgr_countMd (s : State) (m : Md) (src n : Nat) : (s.countMd m src n).mgr = s.mgr := (s.countMd_only m src n).mgr
@[simp] theorem State.mgt_countMd (s : State) (m : Md) (src n : Nat) : (s.countMd m src n).mgt = s.mgt := (s.countMd_only m src n).mgt
@[simp] theorem State.sec_countMd (s : State) (m : Md) (src n : Nat) : (s.countMd m src n).sec = s.sec := (s.countMd_only m src n).sec
@[simp] theorem State.flash_countMd (s : State) (m : Md) (src n : Nat) : (s.countMd m src n).flash = s.flash := (s.countMd_only m src n).flash
@[simp] theorem State.pins_countMd (s : State) (m : Md) (src n : Nat) : (s.countMd m src n).pins = s.pins := (s.countMd_only m src n).pins
@[simp] theorem State.out_countMd (s : State) (m : Md) (src n : Nat) : (s.countMd m src n).out = s.out := (s.countMd_only m src n).out
@[simp] theorem State.core_countMd (s : State) (m : Md) (src n : Nat) (c' : CoreId) : (s.countMd m src n).core c' = s.core c' := (s.countMd_only m src n).core c'
@[simp] theorem State.bench_countMd (s : State) (m : Md) (src n : Nat) (b' : BenchId) : (s.countMd m src n).bench b' = s.bench b' := (s.countMd_only m src n).bench b'
@[simp] theorem State.die_countMd (s : State) (m : Md) (src n : Nat) (d' : Die) : (s.countMd m src n).die d' = s.die d' := (s.countMd_only m src n).die d'
@[simp] theorem State.hub_countMd (s : State) (m : Md) (src n : Nat) (h' : Hub) : (s.countMd m src n).hub h' = s.hub h' := (s.countMd_only m src n).hub h'
@[simp] theorem State.port_countMd (s : State) (m : Md) (src n : Nat) (p' : PortId) : (s.countMd m src n).port p' = s.port p' := (s.countMd_only m src n).port p'

@[simp] theorem State.pending_eccRecord (s : State) (own : BenchId ⊕ Hub) (addr store : Nat) (unc : Bool) : (s.eccRecord own addr store unc).pending = s.pending := (s.eccRecord_only own addr store unc).pending
@[simp] theorem State.now_eccRecord (s : State) (own : BenchId ⊕ Hub) (addr store : Nat) (unc : Bool) : (s.eccRecord own addr store unc).now = s.now := (s.eccRecord_only own addr store unc).now
@[simp] theorem State.tbBase_eccRecord (s : State) (own : BenchId ⊕ Hub) (addr store : Nat) (unc : Bool) : (s.eccRecord own addr store unc).tbBase = s.tbBase := (s.eccRecord_only own addr store unc).tbBase
@[simp] theorem State.lastSync_eccRecord (s : State) (own : BenchId ⊕ Hub) (addr store : Nat) (unc : Bool) : (s.eccRecord own addr store unc).lastSync = s.lastSync := (s.eccRecord_only own addr store unc).lastSync
@[simp] theorem State.draws_eccRecord (s : State) (own : BenchId ⊕ Hub) (addr store : Nat) (unc : Bool) : (s.eccRecord own addr store unc).draws = s.draws := (s.eccRecord_only own addr store unc).draws
@[simp] theorem State.cycle_eccRecord (s : State) (own : BenchId ⊕ Hub) (addr store : Nat) (unc : Bool) : (s.eccRecord own addr store unc).cycle = s.cycle := (s.eccRecord_only own addr store unc).cycle
@[simp] theorem State.mem_eccRecord (s : State) (own : BenchId ⊕ Hub) (addr store : Nat) (unc : Bool) : (s.eccRecord own addr store unc).mem = s.mem := (s.eccRecord_only own addr store unc).mem
@[simp] theorem State.poison_eccRecord (s : State) (own : BenchId ⊕ Hub) (addr store : Nat) (unc : Bool) : (s.eccRecord own addr store unc).poison = s.poison := (s.eccRecord_only own addr store unc).poison
@[simp] theorem State.errs_eccRecord (s : State) (own : BenchId ⊕ Hub) (addr store : Nat) (unc : Bool) : (s.eccRecord own addr store unc).errs = s.errs := (s.eccRecord_only own addr store unc).errs
@[simp] theorem State.seenCe_eccRecord (s : State) (own : BenchId ⊕ Hub) (addr store : Nat) (unc : Bool) : (s.eccRecord own addr store unc).seenCe = s.seenCe := (s.eccRecord_only own addr store unc).seenCe
@[simp] theorem State.seenUe_eccRecord (s : State) (own : BenchId ⊕ Hub) (addr store : Nat) (unc : Bool) : (s.eccRecord own addr store unc).seenUe = s.seenUe := (s.eccRecord_only own addr store unc).seenUe
@[simp] theorem State.writeBacks_eccRecord (s : State) (own : BenchId ⊕ Hub) (addr store : Nat) (unc : Bool) : (s.eccRecord own addr store unc).writeBacks = s.writeBacks := (s.eccRecord_only own addr store unc).writeBacks
@[simp] theorem State.scrubPos_eccRecord (s : State) (own : BenchId ⊕ Hub) (addr store : Nat) (unc : Bool) : (s.eccRecord own addr store unc).scrubPos = s.scrubPos := (s.eccRecord_only own addr store unc).scrubPos
@[simp] theorem State.cores_eccRecord (s : State) (own : BenchId ⊕ Hub) (addr store : Nat) (unc : Bool) : (s.eccRecord own addr store unc).cores = s.cores := (s.eccRecord_only own addr store unc).cores
@[simp] theorem State.benches_eccRecord (s : State) (own : BenchId ⊕ Hub) (addr store : Nat) (unc : Bool) : (s.eccRecord own addr store unc).benches = s.benches := (s.eccRecord_only own addr store unc).benches
@[simp] theorem State.dies_eccRecord (s : State) (own : BenchId ⊕ Hub) (addr store : Nat) (unc : Bool) : (s.eccRecord own addr store unc).dies = s.dies := (s.eccRecord_only own addr store unc).dies
@[simp] theorem State.hubs_eccRecord (s : State) (own : BenchId ⊕ Hub) (addr store : Nat) (unc : Bool) : (s.eccRecord own addr store unc).hubs = s.hubs := (s.eccRecord_only own addr store unc).hubs
@[simp] theorem State.ports_eccRecord (s : State) (own : BenchId ⊕ Hub) (addr store : Nat) (unc : Bool) : (s.eccRecord own addr store unc).ports = s.ports := (s.eccRecord_only own addr store unc).ports
@[simp] theorem State.tab_eccRecord (s : State) (own : BenchId ⊕ Hub) (addr store : Nat) (unc : Bool) : (s.eccRecord own addr store unc).tab = s.tab := (s.eccRecord_only own addr store unc).tab
@[simp] theorem State.job_eccRecord (s : State) (own : BenchId ⊕ Hub) (addr store : Nat) (unc : Bool) : (s.eccRecord own addr store unc).job = s.job := (s.eccRecord_only own addr store unc).job
@[simp] theorem State.loader_eccRecord (s : State) (own : BenchId ⊕ Hub) (addr store : Nat) (unc : Bool) : (s.eccRecord own addr store unc).loader = s.loader := (s.eccRecord_only own addr store unc).loader
@[simp] theorem State.mgr_eccRecord (s : State) (own : BenchId ⊕ Hub) (addr store : Nat) (unc : Bool) : (s.eccRecord own addr store unc).mgr = s.mgr := (s.eccRecord_only own addr store unc).mgr
@[simp] theorem State.mgt_eccRecord (s : State) (own : BenchId ⊕ Hub) (addr store : Nat) (unc : Bool) : (s.eccRecord own addr store unc).mgt = s.mgt := (s.eccRecord_only own addr store unc).mgt
@[simp] theorem State.sec_eccRecord (s : State) (own : BenchId ⊕ Hub) (addr store : Nat) (unc : Bool) : (s.eccRecord own addr store unc).sec = s.sec := (s.eccRecord_only own addr store unc).sec
@[simp] theorem State.flash_eccRecord (s : State) (own : BenchId ⊕ Hub) (addr store : Nat) (unc : Bool) : (s.eccRecord own addr store unc).flash = s.flash := (s.eccRecord_only own addr store unc).flash
@[simp] theorem State.pins_eccRecord (s : State) (own : BenchId ⊕ Hub) (addr store : Nat) (unc : Bool) : (s.eccRecord own addr store unc).pins = s.pins := (s.eccRecord_only own addr store unc).pins
@[simp] theorem State.out_eccRecord (s : State) (own : BenchId ⊕ Hub) (addr store : Nat) (unc : Bool) : (s.eccRecord own addr store unc).out = s.out := (s.eccRecord_only own addr store unc).out
@[simp] theorem State.core_eccRecord (s : State) (own : BenchId ⊕ Hub) (addr store : Nat) (unc : Bool) (c' : CoreId) : (s.eccRecord own addr store unc).core c' = s.core c' := (s.eccRecord_only own addr store unc).core c'
@[simp] theorem State.bench_eccRecord (s : State) (own : BenchId ⊕ Hub) (addr store : Nat) (unc : Bool) (b' : BenchId) : (s.eccRecord own addr store unc).bench b' = s.bench b' := (s.eccRecord_only own addr store unc).bench b'
@[simp] theorem State.die_eccRecord (s : State) (own : BenchId ⊕ Hub) (addr store : Nat) (unc : Bool) (d' : Die) : (s.eccRecord own addr store unc).die d' = s.die d' := (s.eccRecord_only own addr store unc).die d'
@[simp] theorem State.hub_eccRecord (s : State) (own : BenchId ⊕ Hub) (addr store : Nat) (unc : Bool) (h' : Hub) : (s.eccRecord own addr store unc).hub h' = s.hub h' := (s.eccRecord_only own addr store unc).hub h'
@[simp] theorem State.port_eccRecord (s : State) (own : BenchId ⊕ Hub) (addr store : Nat) (unc : Bool) (p' : PortId) : (s.eccRecord own addr store unc).port p' = s.port p' := (s.eccRecord_only own addr store unc).port p'

@[simp] theorem State.pending_coreDeadline (s : State) (c : CoreId) : (s.coreDeadline c).pending = s.pending := (s.coreDeadline_only c).pending
@[simp] theorem State.now_coreDeadline (s : State) (c : CoreId) : (s.coreDeadline c).now = s.now := (s.coreDeadline_only c).now
@[simp] theorem State.tbBase_coreDeadline (s : State) (c : CoreId) : (s.coreDeadline c).tbBase = s.tbBase := (s.coreDeadline_only c).tbBase
@[simp] theorem State.lastSync_coreDeadline (s : State) (c : CoreId) : (s.coreDeadline c).lastSync = s.lastSync := (s.coreDeadline_only c).lastSync
@[simp] theorem State.draws_coreDeadline (s : State) (c : CoreId) : (s.coreDeadline c).draws = s.draws := (s.coreDeadline_only c).draws
@[simp] theorem State.cycle_coreDeadline (s : State) (c : CoreId) : (s.coreDeadline c).cycle = s.cycle := (s.coreDeadline_only c).cycle
@[simp] theorem State.mem_coreDeadline (s : State) (c : CoreId) : (s.coreDeadline c).mem = s.mem := (s.coreDeadline_only c).mem
@[simp] theorem State.poison_coreDeadline (s : State) (c : CoreId) : (s.coreDeadline c).poison = s.poison := (s.coreDeadline_only c).poison
@[simp] theorem State.errs_coreDeadline (s : State) (c : CoreId) : (s.coreDeadline c).errs = s.errs := (s.coreDeadline_only c).errs
@[simp] theorem State.seenCe_coreDeadline (s : State) (c : CoreId) : (s.coreDeadline c).seenCe = s.seenCe := (s.coreDeadline_only c).seenCe
@[simp] theorem State.seenUe_coreDeadline (s : State) (c : CoreId) : (s.coreDeadline c).seenUe = s.seenUe := (s.coreDeadline_only c).seenUe
@[simp] theorem State.writeBacks_coreDeadline (s : State) (c : CoreId) : (s.coreDeadline c).writeBacks = s.writeBacks := (s.coreDeadline_only c).writeBacks
@[simp] theorem State.scrubPos_coreDeadline (s : State) (c : CoreId) : (s.coreDeadline c).scrubPos = s.scrubPos := (s.coreDeadline_only c).scrubPos
@[simp] theorem State.cores_coreDeadline (s : State) (c : CoreId) : (s.coreDeadline c).cores = s.cores := (s.coreDeadline_only c).cores
@[simp] theorem State.benches_coreDeadline (s : State) (c : CoreId) : (s.coreDeadline c).benches = s.benches := (s.coreDeadline_only c).benches
@[simp] theorem State.dies_coreDeadline (s : State) (c : CoreId) : (s.coreDeadline c).dies = s.dies := (s.coreDeadline_only c).dies
@[simp] theorem State.hubs_coreDeadline (s : State) (c : CoreId) : (s.coreDeadline c).hubs = s.hubs := (s.coreDeadline_only c).hubs
@[simp] theorem State.ports_coreDeadline (s : State) (c : CoreId) : (s.coreDeadline c).ports = s.ports := (s.coreDeadline_only c).ports
@[simp] theorem State.tab_coreDeadline (s : State) (c : CoreId) : (s.coreDeadline c).tab = s.tab := (s.coreDeadline_only c).tab
@[simp] theorem State.job_coreDeadline (s : State) (c : CoreId) : (s.coreDeadline c).job = s.job := (s.coreDeadline_only c).job
@[simp] theorem State.loader_coreDeadline (s : State) (c : CoreId) : (s.coreDeadline c).loader = s.loader := (s.coreDeadline_only c).loader
@[simp] theorem State.mgr_coreDeadline (s : State) (c : CoreId) : (s.coreDeadline c).mgr = s.mgr := (s.coreDeadline_only c).mgr
@[simp] theorem State.mgt_coreDeadline (s : State) (c : CoreId) : (s.coreDeadline c).mgt = s.mgt := (s.coreDeadline_only c).mgt
@[simp] theorem State.sec_coreDeadline (s : State) (c : CoreId) : (s.coreDeadline c).sec = s.sec := (s.coreDeadline_only c).sec
@[simp] theorem State.flash_coreDeadline (s : State) (c : CoreId) : (s.coreDeadline c).flash = s.flash := (s.coreDeadline_only c).flash
@[simp] theorem State.pins_coreDeadline (s : State) (c : CoreId) : (s.coreDeadline c).pins = s.pins := (s.coreDeadline_only c).pins
@[simp] theorem State.core_coreDeadline (s : State) (c : CoreId) (c' : CoreId) : (s.coreDeadline c).core c' = s.core c' := (s.coreDeadline_only c).core c'
@[simp] theorem State.bench_coreDeadline (s : State) (c : CoreId) (b' : BenchId) : (s.coreDeadline c).bench b' = s.bench b' := (s.coreDeadline_only c).bench b'
@[simp] theorem State.die_coreDeadline (s : State) (c : CoreId) (d' : Die) : (s.coreDeadline c).die d' = s.die d' := (s.coreDeadline_only c).die d'
@[simp] theorem State.hub_coreDeadline (s : State) (c : CoreId) (h' : Hub) : (s.coreDeadline c).hub h' = s.hub h' := (s.coreDeadline_only c).hub h'
@[simp] theorem State.port_coreDeadline (s : State) (c : CoreId) (p' : PortId) : (s.coreDeadline c).port p' = s.port p' := (s.coreDeadline_only c).port p'

@[simp] theorem State.pending_benchDeadline (s : State) (b : BenchId) : (s.benchDeadline b).pending = s.pending := (s.benchDeadline_only b).pending
@[simp] theorem State.now_benchDeadline (s : State) (b : BenchId) : (s.benchDeadline b).now = s.now := (s.benchDeadline_only b).now
@[simp] theorem State.tbBase_benchDeadline (s : State) (b : BenchId) : (s.benchDeadline b).tbBase = s.tbBase := (s.benchDeadline_only b).tbBase
@[simp] theorem State.lastSync_benchDeadline (s : State) (b : BenchId) : (s.benchDeadline b).lastSync = s.lastSync := (s.benchDeadline_only b).lastSync
@[simp] theorem State.draws_benchDeadline (s : State) (b : BenchId) : (s.benchDeadline b).draws = s.draws := (s.benchDeadline_only b).draws
@[simp] theorem State.cycle_benchDeadline (s : State) (b : BenchId) : (s.benchDeadline b).cycle = s.cycle := (s.benchDeadline_only b).cycle
@[simp] theorem State.mem_benchDeadline (s : State) (b : BenchId) : (s.benchDeadline b).mem = s.mem := (s.benchDeadline_only b).mem
@[simp] theorem State.poison_benchDeadline (s : State) (b : BenchId) : (s.benchDeadline b).poison = s.poison := (s.benchDeadline_only b).poison
@[simp] theorem State.errs_benchDeadline (s : State) (b : BenchId) : (s.benchDeadline b).errs = s.errs := (s.benchDeadline_only b).errs
@[simp] theorem State.seenCe_benchDeadline (s : State) (b : BenchId) : (s.benchDeadline b).seenCe = s.seenCe := (s.benchDeadline_only b).seenCe
@[simp] theorem State.seenUe_benchDeadline (s : State) (b : BenchId) : (s.benchDeadline b).seenUe = s.seenUe := (s.benchDeadline_only b).seenUe
@[simp] theorem State.writeBacks_benchDeadline (s : State) (b : BenchId) : (s.benchDeadline b).writeBacks = s.writeBacks := (s.benchDeadline_only b).writeBacks
@[simp] theorem State.scrubPos_benchDeadline (s : State) (b : BenchId) : (s.benchDeadline b).scrubPos = s.scrubPos := (s.benchDeadline_only b).scrubPos
@[simp] theorem State.cores_benchDeadline (s : State) (b : BenchId) : (s.benchDeadline b).cores = s.cores := (s.benchDeadline_only b).cores
@[simp] theorem State.benches_benchDeadline (s : State) (b : BenchId) : (s.benchDeadline b).benches = s.benches := (s.benchDeadline_only b).benches
@[simp] theorem State.dies_benchDeadline (s : State) (b : BenchId) : (s.benchDeadline b).dies = s.dies := (s.benchDeadline_only b).dies
@[simp] theorem State.hubs_benchDeadline (s : State) (b : BenchId) : (s.benchDeadline b).hubs = s.hubs := (s.benchDeadline_only b).hubs
@[simp] theorem State.ports_benchDeadline (s : State) (b : BenchId) : (s.benchDeadline b).ports = s.ports := (s.benchDeadline_only b).ports
@[simp] theorem State.tab_benchDeadline (s : State) (b : BenchId) : (s.benchDeadline b).tab = s.tab := (s.benchDeadline_only b).tab
@[simp] theorem State.job_benchDeadline (s : State) (b : BenchId) : (s.benchDeadline b).job = s.job := (s.benchDeadline_only b).job
@[simp] theorem State.loader_benchDeadline (s : State) (b : BenchId) : (s.benchDeadline b).loader = s.loader := (s.benchDeadline_only b).loader
@[simp] theorem State.mgr_benchDeadline (s : State) (b : BenchId) : (s.benchDeadline b).mgr = s.mgr := (s.benchDeadline_only b).mgr
@[simp] theorem State.mgt_benchDeadline (s : State) (b : BenchId) : (s.benchDeadline b).mgt = s.mgt := (s.benchDeadline_only b).mgt
@[simp] theorem State.sec_benchDeadline (s : State) (b : BenchId) : (s.benchDeadline b).sec = s.sec := (s.benchDeadline_only b).sec
@[simp] theorem State.flash_benchDeadline (s : State) (b : BenchId) : (s.benchDeadline b).flash = s.flash := (s.benchDeadline_only b).flash
@[simp] theorem State.pins_benchDeadline (s : State) (b : BenchId) : (s.benchDeadline b).pins = s.pins := (s.benchDeadline_only b).pins
@[simp] theorem State.core_benchDeadline (s : State) (b : BenchId) (c' : CoreId) : (s.benchDeadline b).core c' = s.core c' := (s.benchDeadline_only b).core c'
@[simp] theorem State.bench_benchDeadline (s : State) (b : BenchId) (b' : BenchId) : (s.benchDeadline b).bench b' = s.bench b' := (s.benchDeadline_only b).bench b'
@[simp] theorem State.die_benchDeadline (s : State) (b : BenchId) (d' : Die) : (s.benchDeadline b).die d' = s.die d' := (s.benchDeadline_only b).die d'
@[simp] theorem State.hub_benchDeadline (s : State) (b : BenchId) (h' : Hub) : (s.benchDeadline b).hub h' = s.hub h' := (s.benchDeadline_only b).hub h'
@[simp] theorem State.port_benchDeadline (s : State) (b : BenchId) (p' : PortId) : (s.benchDeadline b).port p' = s.port p' := (s.benchDeadline_only b).port p'

@[simp] theorem State.pending_hubDeadline (s : State) (h : Hub) : (s.hubDeadline h).pending = s.pending := (s.hubDeadline_only h).pending
@[simp] theorem State.now_hubDeadline (s : State) (h : Hub) : (s.hubDeadline h).now = s.now := (s.hubDeadline_only h).now
@[simp] theorem State.tbBase_hubDeadline (s : State) (h : Hub) : (s.hubDeadline h).tbBase = s.tbBase := (s.hubDeadline_only h).tbBase
@[simp] theorem State.lastSync_hubDeadline (s : State) (h : Hub) : (s.hubDeadline h).lastSync = s.lastSync := (s.hubDeadline_only h).lastSync
@[simp] theorem State.draws_hubDeadline (s : State) (h : Hub) : (s.hubDeadline h).draws = s.draws := (s.hubDeadline_only h).draws
@[simp] theorem State.cycle_hubDeadline (s : State) (h : Hub) : (s.hubDeadline h).cycle = s.cycle := (s.hubDeadline_only h).cycle
@[simp] theorem State.mem_hubDeadline (s : State) (h : Hub) : (s.hubDeadline h).mem = s.mem := (s.hubDeadline_only h).mem
@[simp] theorem State.poison_hubDeadline (s : State) (h : Hub) : (s.hubDeadline h).poison = s.poison := (s.hubDeadline_only h).poison
@[simp] theorem State.errs_hubDeadline (s : State) (h : Hub) : (s.hubDeadline h).errs = s.errs := (s.hubDeadline_only h).errs
@[simp] theorem State.seenCe_hubDeadline (s : State) (h : Hub) : (s.hubDeadline h).seenCe = s.seenCe := (s.hubDeadline_only h).seenCe
@[simp] theorem State.seenUe_hubDeadline (s : State) (h : Hub) : (s.hubDeadline h).seenUe = s.seenUe := (s.hubDeadline_only h).seenUe
@[simp] theorem State.writeBacks_hubDeadline (s : State) (h : Hub) : (s.hubDeadline h).writeBacks = s.writeBacks := (s.hubDeadline_only h).writeBacks
@[simp] theorem State.scrubPos_hubDeadline (s : State) (h : Hub) : (s.hubDeadline h).scrubPos = s.scrubPos := (s.hubDeadline_only h).scrubPos
@[simp] theorem State.cores_hubDeadline (s : State) (h : Hub) : (s.hubDeadline h).cores = s.cores := (s.hubDeadline_only h).cores
@[simp] theorem State.benches_hubDeadline (s : State) (h : Hub) : (s.hubDeadline h).benches = s.benches := (s.hubDeadline_only h).benches
@[simp] theorem State.dies_hubDeadline (s : State) (h : Hub) : (s.hubDeadline h).dies = s.dies := (s.hubDeadline_only h).dies
@[simp] theorem State.hubs_hubDeadline (s : State) (h : Hub) : (s.hubDeadline h).hubs = s.hubs := (s.hubDeadline_only h).hubs
@[simp] theorem State.ports_hubDeadline (s : State) (h : Hub) : (s.hubDeadline h).ports = s.ports := (s.hubDeadline_only h).ports
@[simp] theorem State.tab_hubDeadline (s : State) (h : Hub) : (s.hubDeadline h).tab = s.tab := (s.hubDeadline_only h).tab
@[simp] theorem State.job_hubDeadline (s : State) (h : Hub) : (s.hubDeadline h).job = s.job := (s.hubDeadline_only h).job
@[simp] theorem State.loader_hubDeadline (s : State) (h : Hub) : (s.hubDeadline h).loader = s.loader := (s.hubDeadline_only h).loader
@[simp] theorem State.mgr_hubDeadline (s : State) (h : Hub) : (s.hubDeadline h).mgr = s.mgr := (s.hubDeadline_only h).mgr
@[simp] theorem State.mgt_hubDeadline (s : State) (h : Hub) : (s.hubDeadline h).mgt = s.mgt := (s.hubDeadline_only h).mgt
@[simp] theorem State.sec_hubDeadline (s : State) (h : Hub) : (s.hubDeadline h).sec = s.sec := (s.hubDeadline_only h).sec
@[simp] theorem State.flash_hubDeadline (s : State) (h : Hub) : (s.hubDeadline h).flash = s.flash := (s.hubDeadline_only h).flash
@[simp] theorem State.pins_hubDeadline (s : State) (h : Hub) : (s.hubDeadline h).pins = s.pins := (s.hubDeadline_only h).pins
@[simp] theorem State.core_hubDeadline (s : State) (h : Hub) (c' : CoreId) : (s.hubDeadline h).core c' = s.core c' := (s.hubDeadline_only h).core c'
@[simp] theorem State.bench_hubDeadline (s : State) (h : Hub) (b' : BenchId) : (s.hubDeadline h).bench b' = s.bench b' := (s.hubDeadline_only h).bench b'
@[simp] theorem State.die_hubDeadline (s : State) (h : Hub) (d' : Die) : (s.hubDeadline h).die d' = s.die d' := (s.hubDeadline_only h).die d'
@[simp] theorem State.hub_hubDeadline (s : State) (h : Hub) (h' : Hub) : (s.hubDeadline h).hub h' = s.hub h' := (s.hubDeadline_only h).hub h'
@[simp] theorem State.port_hubDeadline (s : State) (h : Hub) (p' : PortId) : (s.hubDeadline h).port p' = s.port p' := (s.hubDeadline_only h).port p'

@[simp] theorem State.pending_log (s : State) (m : Md) (sev : Nat) (pinned : Bool) (rule loc data : Nat) : (s.log m sev pinned rule loc data).pending = s.pending := (s.log_only m sev pinned rule loc data).pending
@[simp] theorem State.now_log (s : State) (m : Md) (sev : Nat) (pinned : Bool) (rule loc data : Nat) : (s.log m sev pinned rule loc data).now = s.now := (s.log_only m sev pinned rule loc data).now
@[simp] theorem State.tbBase_log (s : State) (m : Md) (sev : Nat) (pinned : Bool) (rule loc data : Nat) : (s.log m sev pinned rule loc data).tbBase = s.tbBase := (s.log_only m sev pinned rule loc data).tbBase
@[simp] theorem State.lastSync_log (s : State) (m : Md) (sev : Nat) (pinned : Bool) (rule loc data : Nat) : (s.log m sev pinned rule loc data).lastSync = s.lastSync := (s.log_only m sev pinned rule loc data).lastSync
@[simp] theorem State.draws_log (s : State) (m : Md) (sev : Nat) (pinned : Bool) (rule loc data : Nat) : (s.log m sev pinned rule loc data).draws = s.draws := (s.log_only m sev pinned rule loc data).draws
@[simp] theorem State.cycle_log (s : State) (m : Md) (sev : Nat) (pinned : Bool) (rule loc data : Nat) : (s.log m sev pinned rule loc data).cycle = s.cycle := (s.log_only m sev pinned rule loc data).cycle
@[simp] theorem State.mem_log (s : State) (m : Md) (sev : Nat) (pinned : Bool) (rule loc data : Nat) : (s.log m sev pinned rule loc data).mem = s.mem := (s.log_only m sev pinned rule loc data).mem
@[simp] theorem State.poison_log (s : State) (m : Md) (sev : Nat) (pinned : Bool) (rule loc data : Nat) : (s.log m sev pinned rule loc data).poison = s.poison := (s.log_only m sev pinned rule loc data).poison
@[simp] theorem State.errs_log (s : State) (m : Md) (sev : Nat) (pinned : Bool) (rule loc data : Nat) : (s.log m sev pinned rule loc data).errs = s.errs := (s.log_only m sev pinned rule loc data).errs
@[simp] theorem State.seenCe_log (s : State) (m : Md) (sev : Nat) (pinned : Bool) (rule loc data : Nat) : (s.log m sev pinned rule loc data).seenCe = s.seenCe := (s.log_only m sev pinned rule loc data).seenCe
@[simp] theorem State.seenUe_log (s : State) (m : Md) (sev : Nat) (pinned : Bool) (rule loc data : Nat) : (s.log m sev pinned rule loc data).seenUe = s.seenUe := (s.log_only m sev pinned rule loc data).seenUe
@[simp] theorem State.writeBacks_log (s : State) (m : Md) (sev : Nat) (pinned : Bool) (rule loc data : Nat) : (s.log m sev pinned rule loc data).writeBacks = s.writeBacks := (s.log_only m sev pinned rule loc data).writeBacks
@[simp] theorem State.scrubPos_log (s : State) (m : Md) (sev : Nat) (pinned : Bool) (rule loc data : Nat) : (s.log m sev pinned rule loc data).scrubPos = s.scrubPos := (s.log_only m sev pinned rule loc data).scrubPos
@[simp] theorem State.cores_log (s : State) (m : Md) (sev : Nat) (pinned : Bool) (rule loc data : Nat) : (s.log m sev pinned rule loc data).cores = s.cores := (s.log_only m sev pinned rule loc data).cores
@[simp] theorem State.benches_log (s : State) (m : Md) (sev : Nat) (pinned : Bool) (rule loc data : Nat) : (s.log m sev pinned rule loc data).benches = s.benches := (s.log_only m sev pinned rule loc data).benches
@[simp] theorem State.dies_log (s : State) (m : Md) (sev : Nat) (pinned : Bool) (rule loc data : Nat) : (s.log m sev pinned rule loc data).dies = s.dies := (s.log_only m sev pinned rule loc data).dies
@[simp] theorem State.hubs_log (s : State) (m : Md) (sev : Nat) (pinned : Bool) (rule loc data : Nat) : (s.log m sev pinned rule loc data).hubs = s.hubs := (s.log_only m sev pinned rule loc data).hubs
@[simp] theorem State.ports_log (s : State) (m : Md) (sev : Nat) (pinned : Bool) (rule loc data : Nat) : (s.log m sev pinned rule loc data).ports = s.ports := (s.log_only m sev pinned rule loc data).ports
@[simp] theorem State.tab_log (s : State) (m : Md) (sev : Nat) (pinned : Bool) (rule loc data : Nat) : (s.log m sev pinned rule loc data).tab = s.tab := (s.log_only m sev pinned rule loc data).tab
@[simp] theorem State.job_log (s : State) (m : Md) (sev : Nat) (pinned : Bool) (rule loc data : Nat) : (s.log m sev pinned rule loc data).job = s.job := (s.log_only m sev pinned rule loc data).job
@[simp] theorem State.loader_log (s : State) (m : Md) (sev : Nat) (pinned : Bool) (rule loc data : Nat) : (s.log m sev pinned rule loc data).loader = s.loader := (s.log_only m sev pinned rule loc data).loader
@[simp] theorem State.mgr_log (s : State) (m : Md) (sev : Nat) (pinned : Bool) (rule loc data : Nat) : (s.log m sev pinned rule loc data).mgr = s.mgr := (s.log_only m sev pinned rule loc data).mgr
@[simp] theorem State.sec_log (s : State) (m : Md) (sev : Nat) (pinned : Bool) (rule loc data : Nat) : (s.log m sev pinned rule loc data).sec = s.sec := (s.log_only m sev pinned rule loc data).sec
@[simp] theorem State.pins_log (s : State) (m : Md) (sev : Nat) (pinned : Bool) (rule loc data : Nat) : (s.log m sev pinned rule loc data).pins = s.pins := (s.log_only m sev pinned rule loc data).pins
@[simp] theorem State.out_log (s : State) (m : Md) (sev : Nat) (pinned : Bool) (rule loc data : Nat) : (s.log m sev pinned rule loc data).out = s.out := (s.log_only m sev pinned rule loc data).out
@[simp] theorem State.core_log (s : State) (m : Md) (sev : Nat) (pinned : Bool) (rule loc data : Nat) (c' : CoreId) : (s.log m sev pinned rule loc data).core c' = s.core c' := (s.log_only m sev pinned rule loc data).core c'
@[simp] theorem State.bench_log (s : State) (m : Md) (sev : Nat) (pinned : Bool) (rule loc data : Nat) (b' : BenchId) : (s.log m sev pinned rule loc data).bench b' = s.bench b' := (s.log_only m sev pinned rule loc data).bench b'
@[simp] theorem State.die_log (s : State) (m : Md) (sev : Nat) (pinned : Bool) (rule loc data : Nat) (d' : Die) : (s.log m sev pinned rule loc data).die d' = s.die d' := (s.log_only m sev pinned rule loc data).die d'
@[simp] theorem State.hub_log (s : State) (m : Md) (sev : Nat) (pinned : Bool) (rule loc data : Nat) (h' : Hub) : (s.log m sev pinned rule loc data).hub h' = s.hub h' := (s.log_only m sev pinned rule loc data).hub h'
@[simp] theorem State.port_log (s : State) (m : Md) (sev : Nat) (pinned : Bool) (rule loc data : Nat) (p' : PortId) : (s.log m sev pinned rule loc data).port p' = s.port p' := (s.log_only m sev pinned rule loc data).port p'

@[simp] theorem State.pending_service (s : State) (cls : Nat) : (s.service cls).pending = s.pending := (s.service_only cls).pending
@[simp] theorem State.now_service (s : State) (cls : Nat) : (s.service cls).now = s.now := (s.service_only cls).now
@[simp] theorem State.tbBase_service (s : State) (cls : Nat) : (s.service cls).tbBase = s.tbBase := (s.service_only cls).tbBase
@[simp] theorem State.lastSync_service (s : State) (cls : Nat) : (s.service cls).lastSync = s.lastSync := (s.service_only cls).lastSync
@[simp] theorem State.draws_service (s : State) (cls : Nat) : (s.service cls).draws = s.draws := (s.service_only cls).draws
@[simp] theorem State.cycle_service (s : State) (cls : Nat) : (s.service cls).cycle = s.cycle := (s.service_only cls).cycle
@[simp] theorem State.mem_service (s : State) (cls : Nat) : (s.service cls).mem = s.mem := (s.service_only cls).mem
@[simp] theorem State.poison_service (s : State) (cls : Nat) : (s.service cls).poison = s.poison := (s.service_only cls).poison
@[simp] theorem State.errs_service (s : State) (cls : Nat) : (s.service cls).errs = s.errs := (s.service_only cls).errs
@[simp] theorem State.seenCe_service (s : State) (cls : Nat) : (s.service cls).seenCe = s.seenCe := (s.service_only cls).seenCe
@[simp] theorem State.seenUe_service (s : State) (cls : Nat) : (s.service cls).seenUe = s.seenUe := (s.service_only cls).seenUe
@[simp] theorem State.writeBacks_service (s : State) (cls : Nat) : (s.service cls).writeBacks = s.writeBacks := (s.service_only cls).writeBacks
@[simp] theorem State.scrubPos_service (s : State) (cls : Nat) : (s.service cls).scrubPos = s.scrubPos := (s.service_only cls).scrubPos
@[simp] theorem State.cores_service (s : State) (cls : Nat) : (s.service cls).cores = s.cores := (s.service_only cls).cores
@[simp] theorem State.benches_service (s : State) (cls : Nat) : (s.service cls).benches = s.benches := (s.service_only cls).benches
@[simp] theorem State.dies_service (s : State) (cls : Nat) : (s.service cls).dies = s.dies := (s.service_only cls).dies
@[simp] theorem State.hubs_service (s : State) (cls : Nat) : (s.service cls).hubs = s.hubs := (s.service_only cls).hubs
@[simp] theorem State.ports_service (s : State) (cls : Nat) : (s.service cls).ports = s.ports := (s.service_only cls).ports
@[simp] theorem State.tab_service (s : State) (cls : Nat) : (s.service cls).tab = s.tab := (s.service_only cls).tab
@[simp] theorem State.job_service (s : State) (cls : Nat) : (s.service cls).job = s.job := (s.service_only cls).job
@[simp] theorem State.loader_service (s : State) (cls : Nat) : (s.service cls).loader = s.loader := (s.service_only cls).loader
@[simp] theorem State.mgr_service (s : State) (cls : Nat) : (s.service cls).mgr = s.mgr := (s.service_only cls).mgr
@[simp] theorem State.sec_service (s : State) (cls : Nat) : (s.service cls).sec = s.sec := (s.service_only cls).sec
@[simp] theorem State.core_service (s : State) (cls : Nat) (c' : CoreId) : (s.service cls).core c' = s.core c' := (s.service_only cls).core c'
@[simp] theorem State.bench_service (s : State) (cls : Nat) (b' : BenchId) : (s.service cls).bench b' = s.bench b' := (s.service_only cls).bench b'
@[simp] theorem State.die_service (s : State) (cls : Nat) (d' : Die) : (s.service cls).die d' = s.die d' := (s.service_only cls).die d'
@[simp] theorem State.hub_service (s : State) (cls : Nat) (h' : Hub) : (s.service cls).hub h' = s.hub h' := (s.service_only cls).hub h'
@[simp] theorem State.port_service (s : State) (cls : Nat) (p' : PortId) : (s.service cls).port p' = s.port p' := (s.service_only cls).port p'

end Sys2Proof.Machine
end

