-- ==== Sys2Proof/Laws/Registers.lean ====
section
/-!
SUPPORT. Keys of registers, which keys are event counters, and what an event counted leaves of the other registers.
-/
namespace Sys2Proof.Machine

theorem key_parts (off core bench die : Nat) (ho : off < 2 ^ 17) (hc : core < 128) (hb : bench < 256) (hd : die < 64) :
    keyOff (regKey die bench core off) = off ∧ keyCore (regKey die bench core off) = core ∧
      keyBench (regKey die bench core off) = bench ∧ keyDie (regKey die bench core off) = die := by
  simp only [keyOff, keyCore, keyBench, keyDie, regKey]; omega
theorem unitKey_parts (die off : Nat) (ho : off < 2 ^ 17) (hd : die < 64) :
    keyOff (unitKey die off) = off ∧ keyCore (unitKey die off) = 0 ∧ keyBench (unitKey die off) = 0xf0 ∧ keyDie (unitKey die off) = die := by
  simp only [keyOff, keyCore, keyBench, keyDie, unitKey]; omega

/-- `isCtr` by the fields of a key. -/
def ctrAt (off die bench core : Nat) : Bool :=
  match blockOf die bench core with
  | some .bench => (ctrSpec off 8 0x400 0x440 0x480).isSome
  | some .compute => (ctrSpec off 16 0x800 0x880 0x900).isSome
  | some .mgmt => (ctrSpec off 16 0x800 0x880 0x900).isSome
  | some .hub => (ctrSpec off 32 0x2000 0x2100 0x2200).isSome
  | _ => false
theorem isCtr_parts {k off die bench core : Nat} (h : keyOff k = off ∧ keyCore k = core ∧ keyBench k = bench ∧ keyDie k = die) :
    isCtr k = ctrAt off die bench core := by
  obtain ⟨h1, h2, h3, h4⟩ := h
  subst h1 h2 h3 h4; rfl
theorem isCtr_core (c : CoreId) (off : Nat) (h : off < 2 ^ 17) : isCtr (coreKey c off) = false := by
  unfold coreKey
  rw [isCtr_parts (key_parts off c.core c.bench c.die h (by omega) (by omega) (by omega))]
  unfold ctrAt blockOf
  simp
theorem isCtr_bench (b : BenchId) (off : Nat) (h : off < 2 ^ 17) : isCtr (benchKey b off) = (ctrSpec off 8 0x400 0x440 0x480).isSome := by
  unfold benchKey
  rw [isCtr_parts (key_parts off 64 b.bench b.die h (by decide) (by omega) (by omega))]
  unfold ctrAt blockOf
  simp
theorem isCtr_die (d : Die) (off : Nat) (h : off < 2 ^ 17) : isCtr (dieKey d off) = (ctrSpec off 16 0x800 0x880 0x900).isSome := by
  unfold dieKey
  rw [isCtr_parts (unitKey_parts d off h (by omega))]
  unfold ctrAt blockOf
  simp
theorem isCtr_hub (d : Hub) (off : Nat) (h : off < 2 ^ 17) : isCtr (hubKey d off) = (ctrSpec off 32 0x2000 0x2100 0x2200).isSome := by
  unfold hubKey
  rw [isCtr_parts (unitKey_parts (32 + d) off h (by omega))]
  unfold ctrAt blockOf
  simp [show ¬ (32 + d.val < 28) by omega, show 32 + d.val < 38 by omega]
theorem isCtr_md (m : Md) (off : Nat) (h : off < 2 ^ 17) : isCtr (mdKey m off) = (ctrSpec off 16 0x800 0x880 0x900).isSome := by
  unfold mdKey
  rw [isCtr_parts (unitKey_parts (40 + m) off h (by omega))]
  unfold ctrAt blockOf
  have : m.val = 0 ∨ m.val = 1 := by omega
  rcases this with e | e <;> simp [e]

theorem csr_bumpOne (s : State) (sel cnt : Nat) (hit : Nat → Bool) (n : Nat) (h1 : isCtr sel = true) (h2 : isCtr cnt = true) :
    (bumpOne s sel cnt hit n).csr = s.csr := by
  unfold bumpOne
  extract_lets v c t
  split
  · split <;> simp [t, State.setReg, h1, h2]
  · rfl
theorem csr_bump (s : State) (base : Nat → Nat) (cnt sel evc : Nat) (hit : Nat → Bool) (n : Nat)
    (h : ∀ i, i < cnt → isCtr (base (sel + 8 * i)) = true ∧ isCtr (base (evc + 8 * i)) = true) :
    (bump s base cnt sel evc hit n).csr = s.csr := by
  unfold bump
  have : ∀ l : List Nat, (∀ i, i ∈ l → i < cnt) → ∀ s : State,
      (l.foldl (fun s i => bumpOne s (base (sel + 8 * i)) (base (evc + 8 * i)) hit n) s).csr = s.csr := by
    intro l
    induction l with
    | nil => intros; rfl
    | cons i l ih =>
      intro hl s
      rw [List.foldl_cons, ih (fun j hj => hl j (List.mem_cons_of_mem _ hj))]
      exact csr_bumpOne _ _ _ _ _ (h i (hl i (List.mem_cons_self ..))).1 (h i (hl i (List.mem_cons_self ..))).2
  exact this _ (fun i hi => by simpa using hi) s

theorem ctrSpec_some (off n a b c i : Nat) (hi : i < n) (ha : a % 8 = 0) (hb : b % 8 = 0) (h : off = a + 8 * i ∨ off = b + 8 * i) :
    (ctrSpec off n a b c).isSome = true := by
  unfold ctrSpec
  rcases h with h | h <;> subst h
  · rw [if_neg (by omega), if_pos (by simp; omega)]; rfl
  · rw [if_neg (by omega)]; split
    · rfl
    · rw [if_pos (by simp; omega)]; rfl

theorem State.csr_countBench (s : State) (b : BenchId) (src : Nat) (core : Option Nat) (n : Nat) : (s.countBench b src core n).csr = s.csr := by
  unfold State.countBench
  split
  · rfl
  · rw [csr_bump, csr_bump]
    · intro i hi
      rw [isCtr_bench _ _ (by omega), isCtr_bench _ _ (by omega)]
      exact ⟨ctrSpec_some _ _ _ _ _ i hi rfl rfl (.inl rfl), ctrSpec_some _ _ _ _ _ i hi rfl rfl (.inr rfl)⟩
    · intro i hi
      rw [isCtr_die _ _ (by omega), isCtr_die _ _ (by omega)]
      exact ⟨ctrSpec_some _ _ _ _ _ i hi rfl rfl (.inl rfl), ctrSpec_some _ _ _ _ _ i hi rfl rfl (.inr rfl)⟩
theorem State.csr_countDie (s : State) (d : Die) (src n : Nat) : (s.countDie d src n).csr = s.csr := by
  unfold State.countDie
  split
  · rfl
  · rw [csr_bump]
    intro i hi
    rw [isCtr_die _ _ (by omega), isCtr_die _ _ (by omega)]
    exact ⟨ctrSpec_some _ _ _ _ _ i hi rfl rfl (.inl rfl), ctrSpec_some _ _ _ _ _ i hi rfl rfl (.inr rfl)⟩
theorem State.csr_countHub (s : State) (d : Hub) (src n : Nat) : (s.countHub d src n).csr = s.csr := by
  unfold State.countHub
  split
  · rfl
  · rw [csr_bump]
    intro i hi
    rw [isCtr_hub _ _ (by omega), isCtr_hub _ _ (by omega)]
    exact ⟨ctrSpec_some _ _ _ _ _ i hi rfl rfl (.inl rfl), ctrSpec_some _ _ _ _ _ i hi rfl rfl (.inr rfl)⟩
theorem State.csr_countMd (s : State) (d : Md) (src n : Nat) : (s.countMd d src n).csr = s.csr := by
  unfold State.countMd
  split
  · rfl
  · rw [csr_bump]
    intro i hi
    rw [isCtr_md _ _ (by omega), isCtr_md _ _ (by omega)]
    exact ⟨ctrSpec_some _ _ _ _ _ i hi rfl rfl (.inl rfl), ctrSpec_some _ _ _ _ _ i hi rfl rfl (.inr rfl)⟩

/-- A register that is no event counter, by the parts of the state that hold it. -/
theorem State.reg_congr {s t : State} (k : Nat) (hk : isCtr k = false) (hc : t.csr = s.csr) (hi : t.sec.imageHash = s.sec.imageHash) :
    t.reg k = s.reg k := by
  unfold State.reg; simp [hk, hc, hi]
theorem State.fld_congr {s t : State} {k : Nat} (h : t.reg k = s.reg k) (hi lo : Nat) : t.fld k hi lo = s.fld k hi lo := by
  unfold State.fld; rw [h]
theorem State.reg_countBench (s : State) (b : BenchId) (src : Nat) (core : Option Nat) (n : Nat) {k : Nat} (h : isCtr k = false) :
    (s.countBench b src core n).reg k = s.reg k := State.reg_congr k h (s.csr_countBench ..) (by simp)
theorem State.reg_countCore (s : State) (c : CoreId) (src n : Nat) {k : Nat} (h : isCtr k = false) :
    (s.countCore c src n).reg k = s.reg k := s.reg_countBench _ _ _ _ h
theorem State.reg_countDie (s : State) (d : Die) (src n : Nat) {k : Nat} (h : isCtr k = false) :
    (s.countDie d src n).reg k = s.reg k := State.reg_congr k h (s.csr_countDie ..) (by simp)
theorem State.reg_countHub (s : State) (d : Hub) (src n : Nat) {k : Nat} (h : isCtr k = false) :
    (s.countHub d src n).reg k = s.reg k := State.reg_congr k h (s.csr_countHub ..) (by simp)
theorem State.reg_countMd (s : State) (d : Md) (src n : Nat) {k : Nat} (h : isCtr k = false) :
    (s.countMd d src n).reg k = s.reg k := State.reg_congr k h (s.csr_countMd ..) (by simp)
theorem State.reg_coreDeadline (s : State) (c : CoreId) {k : Nat} (h : isCtr k = false) : (s.coreDeadline c).reg k = s.reg k :=
  s.reg_countDie _ _ _ h
theorem State.reg_benchDeadline (s : State) (c : BenchId) {k : Nat} (h : isCtr k = false) : (s.benchDeadline c).reg k = s.reg k :=
  s.reg_countDie _ _ _ h

/-- A log entry changes no register but the log's own (R570). -/
theorem State.reg_addLog (s : State) (md : Md) (sev : Nat) (pinned : Bool) (code loc data : Nat) {k : Nat} (h : isCtr k = false)
    (h0 : storeKey k ≠ storeKey (mdKey md 0x420)) : (s.addLog md sev pinned code loc data).reg k = s.reg k := by
  unfold State.addLog
  extract_lets q e m t1 t2 t3 own rp fr rr f4 t4 ring m5 t5
  have h3 : t3.reg k = s.reg k := by
    have e1 : t1.reg k = s.reg k := rfl
    have e2 : t2.reg k = t1.reg k := t1.reg_countMd _ _ _ h
    have e3 : t3.reg k = t2.reg k := by
      unfold t3; split
      · exact t2.reg_countMd _ _ _ h
      · rfl
    rw [e3, e2, e1]
  have h4 : t4.reg k = s.reg k := by
    unfold t4; split
    · exact h3
    · exact h3
  have h5 : t5.reg k = s.reg k := h4
  clear_value t5 t4
  split
  · split
    · unfold State.setFld; rw [State.reg_setReg_other _ _ h0, h5]
    · exact h5
  · split
    · unfold State.satFld State.setFld; rw [State.reg_setReg_other _ _ h0, h4]
    · exact h4
theorem State.reg_log (s : State) (md : Md) (sev : Nat) (pinned : Bool) (rule loc data : Nat) {k : Nat} (h : isCtr k = false)
    (h0 : storeKey k ≠ storeKey (mdKey md 0x420)) (h1 : storeKey k ≠ storeKey (mdKey 0 0x420)) :
    (s.log md sev pinned rule loc data).reg k = s.reg k := by
  unfold State.log State.logEvent
  extract_lets t
  have ht : t.reg k = s.reg k := s.reg_addLog _ _ _ _ _ _ h h0
  split
  · rw [State.reg_addLog _ _ _ _ _ _ _ h h1]; unfold State.setFld; rw [State.reg_setReg_other _ _ h1, ht]
  · exact ht

/-- Keys of different units or offsets are different registers. -/
theorem storeKey_unit {die off : Nat} (hd : die < 64) (ho : off < 2 ^ 17) (h : die ≠ 41) : storeKey (unitKey die off) = unitKey die off := by
  obtain ⟨_, _, _, h4⟩ := unitKey_parts die off ho hd
  unfold storeKey; rw [if_neg (by rw [h4]; simp [h])]
theorem storeKey_hub (h : Hub) {off : Nat} (ho : off < 2 ^ 17) : storeKey (hubKey h off) = hubKey h off := storeKey_unit (by omega) ho (by omega)
theorem storeKey_die (h : Die) {off : Nat} (ho : off < 2 ^ 17) : storeKey (dieKey h off) = dieKey h off := storeKey_unit (by omega) ho (by omega)
theorem storeKey_bench (b : BenchId) {off : Nat} (ho : off < 2 ^ 17) : storeKey (benchKey b off) = benchKey b off := by
  have hb := b.bench.isLt
  have hk : keyDie (benchKey b off) = b.die.val := (key_parts off 64 b.bench b.die ho (by omega) (by omega) (by omega)).2.2.2
  unfold storeKey; rw [if_neg (by rw [hk]; simp; omega)]
theorem storeKey_core (c : CoreId) {off : Nat} (ho : off < 2 ^ 17) : storeKey (coreKey c off) = coreKey c off := by
  have hb := c.bench.isLt
  have hk : keyDie (coreKey c off) = c.die.val := (key_parts off c.core c.bench c.die ho (by omega) (by omega) (by omega)).2.2.2
  unfold storeKey; rw [if_neg (by rw [hk]; simp; omega)]
/-- A register of a management die stands in that die or in MD0. -/
theorem keyDie_storeKey_md (m : Md) {off : Nat} (ho : off < 2 ^ 17) : 40 ≤ keyDie (storeKey (mdKey m off)) := by
  obtain ⟨_, _, _, h4⟩ := unitKey_parts (40 + m.val) off ho (by omega)
  unfold storeKey
  split
  · unfold keyDie; omega
  · unfold mdKey; omega
theorem keyDie_hub (h : Hub) {off : Nat} (ho : off < 2 ^ 17) : keyDie (hubKey h off) = 32 + h.val := (unitKey_parts (32 + h.val) off ho (by omega)).2.2.2
theorem hub_ne_md (h : Hub) (m : Md) {a b : Nat} (ha : a < 2 ^ 17) (hb : b < 2 ^ 17) : storeKey (hubKey h a) ≠ storeKey (mdKey m b) := by
  intro e
  have := keyDie_storeKey_md m hb
  rw [← e, storeKey_hub h ha, keyDie_hub h ha] at this; omega

/-- Registers that both management dies hold alike stand in MD0. -/
theorem mgtKey_md (off : Nat) : mgtKey off = mdKey 0 off := by unfold mgtKey mdKey unitKey; simp; omega
theorem isCtr_mgt (off : Nat) (h : off < 2 ^ 17) : isCtr (mgtKey off) = (ctrSpec off 16 0x800 0x880 0x900).isSome := by
  rw [mgtKey_md]; exact isCtr_md 0 off h
theorem storeKey_mgt {off : Nat} (ho : off < 2 ^ 17) : storeKey (mgtKey off) = mgtKey off := by
  rw [mgtKey_md]; exact storeKey_unit (by decide) ho (by decide)
/-- A register that both management dies hold alike: either die's copy is the one that stands in MD0. -/
theorem storeKey_shared (m : Md) {off : Nat} (ho : off < 2 ^ 17) (h : mgtShared off = true) : storeKey (mdKey m off) = mgtKey off := by
  rw [mgtKey_md]
  obtain ⟨p1, p2, p3, p4⟩ := unitKey_parts (40 + m.val) off ho (by omega)
  have q := unitKey_parts 40 off ho (by omega)
  unfold storeKey
  have e1 : mdKey m off = unitKey (40 + m.val) off := rfl
  have e0 : mdKey 0 off = unitKey 40 off := rfl
  rw [e1, e0, p4, p1, h]
  by_cases hm : 40 + m.val = 41
  · rw [if_pos (by simp [hm])]; rw [hm]; unfold unitKey; omega
  · rw [if_neg (by simp [hm])]; have : m.val = 0 := by omega
    rw [this]
theorem State.reg_setReg_shared (s : State) (m : Md) {off : Nat} (v : Word64) (ho : off < 2 ^ 17) (h : mgtShared off = true) :
    (s.setReg (mgtKey off) v).reg (mdKey m off) = v := by
  have hc : isCtr (mdKey m off) = isCtr (mgtKey off) := by rw [isCtr_mgt off ho, isCtr_md m off ho]
  have hk : storeKey (mdKey m off) = storeKey (mgtKey off) := by rw [storeKey_shared m ho h, storeKey_mgt ho]
  unfold State.reg State.setReg
  rw [hc, hk]
  cases isCtr (mgtKey off) <;> simp [nget_nset_self]

end Sys2Proof.Machine
end

