-- ==== Sys2Proof/Laws/Access.lean ====
section
/-!
SUPPORT. Accesses of firmware: a single-mode access to a register of a unit that is there has no access error of its own (R585), so a
write by a host core is what the register's rule makes of it.
-/
namespace Sys2Proof.Machine

theorem keyAddr_parts {k : Nat} (h : k < 2 ^ 38) : keyAddr k / 2 ^ 40 = 0xff ∧ addrMode (keyAddr k) = 0 ∧ keyAddr k % 2 ^ 38 = k ∧
    keyAddr k % 8 = k % 8 := by
  unfold keyAddr addrMode; omega
/-- No access error of its own. -/
theorem State.accessCause_single (s : State) {k : Nat} (h : k < 2 ^ 38) (h8 : k % 8 = 0) (hu : s.unitAbsent k = false) (rd : Bool) :
    s.accessCause (keyAddr k) rd = 0 := by
  obtain ⟨h1, h2, h3, h4⟩ := keyAddr_parts h
  unfold State.accessCause
  have e8 : (keyAddr k % 8 != 0) = false := by rw [h4, h8]; rfl
  have e40 : (keyAddr k / 2 ^ 40 != 0xff) = false := by rw [h1]; rfl
  rw [if_neg (by rw [e8]; exact Bool.noConfusion), if_neg (by rw [e40]; exact Bool.noConfusion), h2, if_neg (by decide), if_pos rfl, h3, hu]
  rfl
/-- What a register's rule makes of a host core's write, with its access error or its place in the order of R583. -/
def State.hosted (s : State) (md : Md) (k : Nat) (f : State → Bool × State) : State :=
  if (f s).1 then (f s).2.accessError md 5 (keyAddr k) false else (f s).2.ordered (.host md) (storeKey k) (s.reg (storeKey k))
theorem State.unitAbsent_enter (s : State) (o : Origin) (k : Nat) : (s.enter o).unitAbsent k = s.unitAbsent k := by
  unfold State.enter; split <;> rfl
/-- What a write of a die leaves of the order of R583: nothing changes while no write of the other die came in the cycle, but the record. -/
theorem State.ordered_fresh (s : State) (o : Origin) (k : Nat) (old : Word64) (h : s.cycle.writes = []) :
    s.ordered o k old = { s with cycle := (s.ordered o k old).cycle } := by
  unfold State.ordered
  split
  · simp [h]
  · rfl
theorem State.tryWrite_single (s : State) (o : Origin) {k : Nat} (h : k < 2 ^ 38) (h8 : k % 8 = 0) (hu : s.unitAbsent k = false)
    (f : State → Bool × State) :
    let r := f (s.enter o)
    s.tryWrite o (keyAddr k) f =
      if r.1 then (5, r.2.accessError (Origin.md' o) 5 (keyAddr k) false) else (0, r.2.ordered o (storeKey k) ((s.enter o).reg (storeKey k))) := by
  have hk : keyAddr k % 274877906944 = k := (keyAddr_parts h).2.2.1
  unfold State.tryWrite
  simp [(s.enter o).accessCause_single h h8 ((s.unitAbsent_enter o k).trans hu), hk]
/-- A host core's write is what the register's rule makes of it in a fabric cycle of its own, or an access error of cause 5. -/
theorem State.originWrite_host (s : State) (md : Md) {k : Nat} (h : k < 2 ^ 38) (h8 : k % 8 = 0) (hu : s.unitAbsent k = false)
    (f : State → Bool × State) : s.originWrite (.host md) (keyAddr k) f = s.newCycle.hosted md k f := by
  unfold State.originWrite
  simp only [s.tryWrite_single _ h h8 hu]
  show (if (f s.newCycle).1 = true then _ else _ : Nat × State).2 = _
  unfold State.hosted
  split <;> rfl

theorem unitKey_lt {die off : Nat} (hd : die < 64) (ho : off < 2 ^ 17) : unitKey die off < 2 ^ 38 := by unfold unitKey; omega
theorem unitKey_mod {die off : Nat} (h8 : off % 8 = 0) : unitKey die off % 8 = 0 := by unfold unitKey; omega
theorem regKey_lt {die bench core off : Nat} (hd : die < 64) (hb : bench < 256) (hc : core < 128) (ho : off < 2 ^ 17) :
    regKey die bench core off < 2 ^ 38 := by unfold regKey; omega
theorem regKey_mod {die bench core off : Nat} (h8 : off % 8 = 0) : regKey die bench core off % 8 = 0 := by unfold regKey; omega

/-- A management die's registers are there. -/
theorem State.unitAbsent_md (s : State) (m : Md) (off : Nat) (h : off < 2 ^ 17) : s.unitAbsent (mdKey m off) = false := by
  obtain ⟨h1, h2, h3, h4⟩ := unitKey_parts (40 + m.val) off h (by omega)
  unfold State.unitAbsent mdKey
  rw [h2, h3, h4]
  have : blockOf (40 + m.val) 0xf0 0 = some .mgmt := by
    have := m.isLt
    unfold blockOf
    rw [if_neg (by omega), if_neg (by simp; omega)]
    have : m.val = 0 ∨ m.val = 1 := by omega
    rcases this with h | h <;> simp [h]
  rw [this]
theorem State.unitAbsent_hub (s : State) (d : Hub) (off : Nat) (h : off < 2 ^ 17) : s.unitAbsent (hubKey d off) = false := by
  obtain ⟨h1, h2, h3, h4⟩ := unitKey_parts (32 + d.val) off h (by omega)
  unfold State.unitAbsent hubKey
  rw [h2, h3, h4]
  have : blockOf (32 + d.val) 0xf0 0 = some .hub := by
    have := d.isLt
    unfold blockOf
    rw [if_neg (by omega), if_pos (by simp; omega)]; simp
  rw [this]
/-- A compute die's registers are there unless the stack is fenced; a bench's and a core's unless the bench is fenced too (R21, R585). -/
theorem State.unitAbsent_die (s : State) (d : Die) (off : Nat) (h : off < 2 ^ 17) : s.unitAbsent (dieKey d off) = s.dieFenced d := by
  obtain ⟨h1, h2, h3, h4⟩ := unitKey_parts d.val off h (by omega)
  unfold State.unitAbsent dieKey
  rw [h2, h3, h4]
  have : blockOf d.val 0xf0 0 = some .compute := by
    unfold blockOf; rw [if_pos d.isLt]; simp
  have hf : finOf? 28 d.val = some d := by unfold finOf?; simp
  rw [this]; simp only [hf]
/-- What `unitAbsent` asks of a key by its fields. -/
theorem State.unitAbsent_of (s : State) {k : Nat} (b : BenchId) (h1 : keyDie k = b.die.val) (h2 : keyBench k = b.bench.val)
    (h : blockOf b.die.val b.bench.val (keyCore k) = some .core ∨ blockOf b.die.val b.bench.val (keyCore k) = some .bench) :
    s.unitAbsent k = (s.dieFenced b.die || s.benchFenced b) := by
  have hf : finOf? 28 b.die.val = some b.die := by unfold finOf?; simp
  have hg : finOf? 180 b.bench.val = some b.bench := by unfold finOf?; simp
  unfold State.unitAbsent
  rw [h1, h2]
  rcases h with h | h <;> rw [h] <;> simp only [hf, hg]
theorem State.unitAbsent_bench (s : State) (b : BenchId) (off : Nat) (h : off < 2 ^ 17) :
    s.unitAbsent (benchKey b off) = (s.dieFenced b.die || s.benchFenced b) := by
  have hd := b.die.isLt; have hb := b.bench.isLt
  have hk := key_parts off 64 b.bench b.die h (by omega) (by omega) (by omega)
  refine s.unitAbsent_of b hk.2.2.2 hk.2.2.1 (.inr ?_)
  have h2 : keyCore (benchKey b off) = 64 := hk.2.1
  rw [h2]
  unfold blockOf; rw [if_pos hd, if_pos hb]; simp
theorem State.unitAbsent_core (s : State) (c : CoreId) (off : Nat) (h : off < 2 ^ 17) :
    s.unitAbsent (coreKey c off) = (s.dieFenced c.die || s.benchFenced c.benchId) := by
  have hd := c.die.isLt; have hb := c.bench.isLt; have hc := c.core.isLt
  obtain ⟨h1, h2, h3, h4⟩ := key_parts off c.core c.bench c.die h (by omega) (by omega) (by omega)
  unfold State.unitAbsent coreKey
  rw [h2, h3, h4]
  have : blockOf c.die.val c.bench.val c.core.val = some .core := by
    unfold blockOf; rw [if_pos hd, if_pos hb, if_pos hc]
  have hf : finOf? 28 c.die.val = some c.die := by unfold finOf?; simp
  have hg : finOf? 180 c.bench.val = some c.bench := by unfold finOf?; simp
  rw [this]; simp only [hf, hg, CoreId.benchId]

/-- A host core's write to a register of each kind of unit. -/
theorem State.hostWrite_md (s : State) (md m : Md) (off : Nat) (h : off < 2 ^ 17) (h8 : off % 8 = 0) (f : State → Bool × State) :
    s.originWrite (.host md) (keyAddr (mdKey m off)) f =
      s.newCycle.hosted md (mdKey m off) f :=
  s.originWrite_host md (unitKey_lt (by omega) h) (unitKey_mod h8) (s.unitAbsent_md m off h) f
theorem State.hostWrite_hub (s : State) (md : Md) (d : Hub) (off : Nat) (h : off < 2 ^ 17) (h8 : off % 8 = 0) (f : State → Bool × State) :
    s.originWrite (.host md) (keyAddr (hubKey d off)) f =
      s.newCycle.hosted md (hubKey d off) f :=
  s.originWrite_host md (unitKey_lt (by omega) h) (unitKey_mod h8) (s.unitAbsent_hub d off h) f
theorem State.hostWrite_die (s : State) (md : Md) (d : Die) (off : Nat) (h : off < 2 ^ 17) (h8 : off % 8 = 0) (hf : s.dieFenced d = false)
    (f : State → Bool × State) : s.originWrite (.host md) (keyAddr (dieKey d off)) f =
      s.newCycle.hosted md (dieKey d off) f :=
  s.originWrite_host md (unitKey_lt (by omega) h) (unitKey_mod h8) ((s.unitAbsent_die d off h).trans hf) f
theorem State.hostWrite_bench (s : State) (md : Md) (b : BenchId) (off : Nat) (h : off < 2 ^ 17) (h8 : off % 8 = 0)
    (hf : s.dieFenced b.die = false) (hb : s.benchFenced b = false) (f : State → Bool × State) :
    s.originWrite (.host md) (keyAddr (benchKey b off)) f =
      s.newCycle.hosted md (benchKey b off) f :=
  s.originWrite_host md (regKey_lt (by omega) (by have := b.bench.isLt; omega) (by omega) h) (regKey_mod h8)
    ((s.unitAbsent_bench b off h).trans (by simp [hf, hb])) f
theorem State.hostWrite_core (s : State) (md : Md) (c : CoreId) (off : Nat) (h : off < 2 ^ 17) (h8 : off % 8 = 0)
    (hf : s.dieFenced c.die = false) (hb : s.benchFenced c.benchId = false) (f : State → Bool × State) :
    s.originWrite (.host md) (keyAddr (coreKey c off)) f =
      s.newCycle.hosted md (coreKey c off) f :=
  s.originWrite_host md (regKey_lt (by omega) (by have := c.bench.isLt; omega) (by omega) h) (regKey_mod h8)
    ((s.unitAbsent_core c off h).trans (by simp [hf, hb])) f

theorem State.accessError_only (s : State) (m : Md) (cause addr : Nat) (rd : Bool) : RegsOnly s (s.accessError m cause addr rd) := by
  unfold State.accessError
  extract_lets k t1 t2
  have h : RegsOnly s t2 := (s.satFld_only ..).trans (t1.countMd_only ..)
  split
  · exact h
  · exact h.trans (((State.setFld_only ..).trans (State.setFld_only ..)).trans (State.setReg_only ..))

/-- What an access error leaves of another register. -/
theorem State.reg_accessError (s : State) (m : Md) (cause addr : Nat) (rd : Bool) {k : Nat} (hk : isCtr k = false)
    (h1 : storeKey k ≠ storeKey (mdKey m 0x428)) (h2 : storeKey k ≠ storeKey (mdKey m 0x430)) :
    (s.accessError m cause addr rd).reg k = s.reg k := by
  unfold State.accessError
  extract_lets q t1 t2
  have h : t2.reg k = s.reg k := by
    have e : t2.reg k = t1.reg k := t1.reg_countMd _ _ _ hk
    rw [e]; unfold t1 State.satFld State.setFld; rw [State.reg_setReg_other _ _ h1]
  split
  · exact h
  · rw [State.reg_setReg_other _ _ h2]; unfold State.setFld; rw [State.reg_setReg_other _ _ h1, State.reg_setReg_other _ _ h1, h]
/-- The first access error is recorded with its cause and address; each one is counted (R585). -/
theorem State.accessError_first (s : State) (m : Md) (cause addr : Nat) (rd : Bool) (hc : cause < 8) (hf : s.fld (mdKey m 0x428) 3 3 = 0) :
    (s.accessError m cause addr rd).fld (mdKey m 0x428) 2 0 = cause ∧ (s.accessError m cause addr rd).fld (mdKey m 0x428) 3 3 = 1 ∧
    (s.accessError m cause addr rd).reg (mdKey m 0x430) = BitVec.ofNat 64 ((if rd then 2 ^ 48 else 0) + addr % 2 ^ 48) := by
  have hk : isCtr (mdKey m 0x428) = false := (isCtr_md m 0x428 (by decide)).trans (by decide)
  have hne : storeKey (mdKey m 0x428) ≠ storeKey (mdKey m 0x430) := by
    have : ∀ m : Md, storeKey (mdKey m 0x428) ≠ storeKey (mdKey m 0x430) := by decide
    exact this m
  unfold State.accessError
  extract_lets q t1 t2
  have h2 : t2.fld q 3 3 = 0 := by
    have e : t2.fld q 3 3 = t1.fld q 3 3 := State.fld_congr (t1.reg_countMd _ _ _ hk) _ _
    rw [e]; unfold t1 State.satFld; rw [State.fld_setFld_other _ _ _ _ _ _ _ (by omega) (by omega)]; exact hf
  clear_value t2
  rw [if_neg (by omega)]
  refine ⟨?_, ?_, by simp⟩
  · rw [State.fld_congr (State.reg_setReg_other _ _ hne) _ _, State.fld_setFld_other _ _ _ _ _ _ _ (by omega) (by omega), State.fld_setFld _ _ _ _ _ (by omega)]
    omega
  · rw [State.fld_congr (State.reg_setReg_other _ _ hne) _ _]
    exact (State.fld_setFld _ _ _ _ _ (by omega)).trans (by decide)
/-- A register of read-write bits takes those bits of the value. -/
theorem typedWrite_rw (m : Nat) (rd : Nat) (old v : Word64) : typedWrite { rw := m, rd := rd } old v =
    (old &&& ~~~BitVec.ofNat 64 m) ||| (v &&& BitVec.ofNat 64 m) := by
  unfold typedWrite
  generalize BitVec.ofNat 64 m = x
  show (((old &&& ~~~x) ||| (v &&& x)) &&& ~~~(v &&& 0#64)) ||| (v &&& 0#64) = _
  rw [BitVec.and_zero, BitVec.or_zero, BitVec.not_zero, BitVec.and_allOnes]

end Sys2Proof.Machine
end

