-- ==== Sys2Proof/Laws/Issue.lean ====
section
/-!
SUPPORT. What issuing a slot does: the slot of a bundle that issues in this cycle, the first slot of the next bundle, and a posted result.
-/
namespace Sys2Proof.Safety
open Sys2Proof.Machine

theorem SameButCounters.refl (s : State) : SameButCounters s s := rfl
theorem SameButCounters.trans {s t u : State} (h : SameButCounters s t) (k : SameButCounters t u) : SameButCounters s u := by
  unfold SameButCounters at *; rw [k, h]
theorem SameButCounters.updCore {s t : State} (h : SameButCounters s t) (c : CoreId) (f : CoreState → CoreState) :
    SameButCounters (s.updCore c f) (t.updCore c f) := by
  unfold SameButCounters at *; rw [h]; rfl
theorem SameButCounters.core {s t : State} (h : SameButCounters s t) (c : CoreId) : t.core c = s.core c := by
  unfold SameButCounters at *; rw [h]; rfl
theorem SameButCounters.of {s t : State} (h : RegsOnly s t) (k : t.csr = s.csr) : SameButCounters s t := by
  unfold RegsOnly at h; unfold SameButCounters; rw [k] at h; exact h
theorem sameBut_countBench (s : State) (b : BenchId) (src : Nat) (core : Option Nat) (n : Nat) :
    SameButCounters s (s.countBench b src core n) := .of (s.countBench_only ..) (s.csr_countBench ..)
theorem sameBut_countCore (s : State) (c : CoreId) (src n : Nat) : SameButCounters s (s.countCore c src n) := sameBut_countBench ..
theorem sameBut_countDie (s : State) (d : Die) (src n : Nat) : SameButCounters s (s.countDie d src n) :=
  .of (s.countDie_only ..) (s.csr_countDie ..)
theorem sameBut_countHub (s : State) (h : Hub) (src n : Nat) : SameButCounters s (s.countHub h src n) :=
  .of (s.countHub_only ..) (s.csr_countHub ..)
theorem sameBut_countMd (s : State) (m : Md) (src n : Nat) : SameButCounters s (s.countMd m src n) :=
  .of (s.countMd_only ..) (s.csr_countMd ..)
theorem sameBut_countExc (s : State) (c : CoreId) (cls : Nat) (e : List Nat) : SameButCounters s (s.countExc c cls e) := by
  unfold State.countExc
  generalize List.range 4 = l
  induction l generalizing s with
  | nil => rfl
  | cons k l ih => exact (sameBut_countCore s c _ _).trans (ih _)
theorem sameBut_countTy (s : State) (c : CoreId) (ty : Nat) : SameButCounters s (s.countTy c ty) := by
  unfold State.countTy
  split
  · exact sameBut_countCore ..
  · split
    · exact sameBut_countCore ..
    · rfl

theorem took_core (s : State) (c : CoreId) (n : Nat) : (took s c n).core c = { s.core c with done := n :: (s.core c).done } :=
  s.core_updCore c _

/-- The slot of a bundle that issues in this cycle takes place. -/
theorem slotDo_issuing {c : CoreId} {b : Bundle} {slot code : Nat} {s : State} (h : Issuing c b slot s)
    (hc : slotOp (slotWord b slot) = code) (eff : Nat → State → State) :
    s.slotDo c b slot code eff = eff (slotWord b slot) (took s c slot) := by
  obtain ⟨h1, h2, h3⟩ := h
  have h4 : s.openBundle c b slot = (true, took s c slot) := by
    have h5 : slot ∉ (s.core c).done := by simpa using h3
    unfold State.openBundle; simp [h1, h2, h5, took]
  unfold State.slotDo
  simp [h4, hc]

/-- A result of the slot that was just taken. -/
theorem post_took {s : State} {c : CoreId} {n lat : Nat} {dst : Dst} {v : Vec} {p : Bool} (h : 1 ≤ lat) :
    (took s c n).post c n lat dst v p = posted s c n lat dst v p := by
  unfold State.post posted State.updCore
  simp [took, State.updCore, CoreState.addResult, Nat.max_eq_left h]

theorem settle_none {s : State} {b : BenchId} {t : Nat}
    (h : (s.bench b).mvotes = [] ∧ (s.bench b).rvotes = [] ∧ (s.bench b).steps = []) : s.settle b t = s := by
  unfold State.settle State.writeSteps
  simp [h.1, h.2.1, h.2.2, State.writeStepsGo]
theorem applyBefore_none {s : State} {c : CoreId} {t : Nat} (h : (s.core c).results = []) : s.applyBefore c t = s := by
  unfold State.applyBefore; simp [h]

/-- A core that may issue opens its next bundle in the present cycle. -/
theorem openBundle_ready {c : CoreId} {b : Bundle} {s : State} {slot : Nat} (r : Ready c s) :
    s.openBundle c b slot = s.issueNow c b slot := by
  have hl : ¬ ((s.core c).lastCycle = some s.now) := fun h => by have := r.later _ h; omega
  have hi : s.issueCycle c = some s.now := by
    unfold State.issueCycle
    have hw : (!s.job.windows.isEmpty && s.freedNow (s.benchUnit c.benchId)) = false := by
      rcases r.unfreed with h | h <;> simp [h]
    simp only [r.running, r.there.1, r.there.2, r.inRun.1, r.inRun.2, r.free.1, hw]
    cases h : (s.core c).lastCycle with
    | none => simp
    | some l => have := r.later _ h; simp; omega
  unfold State.openBundle
  simp [hl, hi, r.free, State.reach_of_le, settle_none ⟨r.settled.2.1, r.settled.2.2⟩, applyBefore_none r.settled.1]

/-- The one due result of a core is written. -/
theorem applyBefore_one {c : CoreId} {s : State} {r : Result} {t : Nat} (h : (s.core c).results = [r]) (ht : r.due < t) :
    s.applyBefore c t = (s.updCore c fun x => { x with results := [] }).writeResult c r := by
  unfold State.applyBefore
  simp [h, ht, State.writeResults]

/-! A core that halts. -/

theorem core_haltCore_other (s : State) {c d : CoreId} (h : d ≠ c) : (s.haltCore c).core d = s.core d := by
  unfold State.haltCore State.spoilSteps
  simp [State.core_setCore_other _ _ h]; rfl
theorem hold_haltCore (s : State) (c : CoreId) : ((s.haltCore c).core c).hold = .halted := by
  unfold State.haltCore State.spoilSteps; simp
/-- What a halt leaves of a core beside its outputs. -/
theorem core_haltCore (s : State) (c : CoreId) : ((s.haltCore c).core c).faulted = (s.core c).faulted ∧
    ((s.haltCore c).core c).nextIdx = (s.core c).nextIdx := by
  unfold State.haltCore State.spoilSteps; simp [CoreState.spoilLoads]
theorem mem_haltCore (s : State) (c : CoreId) : (s.haltCore c).mem = s.mem := rfl
theorem out_haltCore (s : State) (c : CoreId) : (s.haltCore c).out = s.out := rfl
theorem reg_haltCore (s : State) (c : CoreId) (k : Nat) : (s.haltCore c).reg k = s.reg k := rfl

/-- A fault of class 1, 2, 3 or 5: the core halts, the first of the segment is recorded, one report goes out, memory and the other
cores stand. -/
theorem coreFault_halts (s : State) (c : CoreId) (cls slot : Nat) (idx : BitVec 9) (h4 : cls ≠ 4) :
    ((s.coreFault c cls slot idx).core c).hold = .halted ∧ (s.coreFault c cls slot idx).mem = s.mem ∧
      (∀ d, d ≠ c → (s.coreFault c cls slot idx).core d = s.core d) ∧
      (∃ data, (s.coreFault c cls slot idx).out = s.out ++ [⟨.deadlineFault, data⟩]) ∧
      (s.coreFault c cls slot idx).reg (coreKey c 0x8) =
        (if (s.core c).faulted then s.reg (coreKey c 0x8)
          else faultWord (cls + 8 + idx.toNat * 16 + 2 ^ 13 * (if cls ≤ 2 then slot else 0)) s.stepNo) ∧
      ((s.coreFault c cls slot idx).core c).faulted = true ∧
      ((s.coreFault c cls slot idx).core c).nextIdx = (s.core c).nextIdx := by
  have hc : isCtr (coreKey c 0x8) = false := isCtr_core c _ (by decide)
  unfold State.coreFault
  extract_lets x t1 t2 t3
  have h1 : t1.mem = s.mem ∧ t1.out = s.out ∧ (∀ d, d ≠ c → t1.core d = s.core d) ∧ (t1.core c).faulted = true ∧
      (t1.core c).nextIdx = (s.core c).nextIdx ∧
      t1.reg (coreKey c 0x8) = (if (s.core c).faulted then s.reg (coreKey c 0x8)
          else faultWord (cls + 8 + idx.toNat * 16 + 2 ^ 13 * (if cls ≤ 2 then slot else 0)) s.stepNo) := by
    unfold t1 x
    cases hf : (s.core c).faulted
    · exact ⟨rfl, rfl, fun d h => by simp [State.core_updCore_other _ _ h], by simp, by simp, by simp⟩
    · exact ⟨rfl, rfl, fun _ _ => rfl, hf, rfl, by simp⟩
  have h2 : RegsOnly t1 t2 ∧ t2.csr = t1.csr := by
    unfold t2; clear_value t1; split
    · exact ⟨t1.countDie_only .., t1.csr_countDie ..⟩
    · exact ⟨t1.countCore_only .., t1.csr_countBench ..⟩
  have h3 : TellOnly t2 t3 := t2.coreDeadline_only c
  have h3o : ∃ data, t3.out = t2.out ++ [⟨.deadlineFault, data⟩] := by
    unfold t3 State.coreDeadline State.deadlineFault
    exact ⟨_, by rw [State.out_say, State.out_countDie]⟩
  obtain ⟨data, h3o⟩ := h3o
  have h3r : t3.reg (coreKey c 0x8) = t2.reg (coreKey c 0x8) := t2.reg_coreDeadline c hc
  have h2r : t2.reg (coreKey c 0x8) = t1.reg (coreKey c 0x8) := State.reg_congr _ hc h2.2 (by rw [h2.1.sec])
  clear_value t3
  rw [if_neg h4]
  refine ⟨hold_haltCore _ _, ?_, fun d hd => ?_, ⟨data, ?_⟩, ?_, ?_, ?_⟩
  · rw [mem_haltCore, h3.mem, h2.1.mem, h1.1]
  · rw [core_haltCore_other _ hd, h3.core, h2.1.core, h1.2.2.1 d hd]
  · rw [out_haltCore, h3o, h2.1.out, h1.2.1]
  · rw [reg_haltCore, h3r, h2r, h1.2.2.2.2.2]
  · rw [(core_haltCore _ _).1, h3.core, h2.1.core, h1.2.2.2.1]
  · rw [(core_haltCore _ _).2, h3.core, h2.1.core, h1.2.2.2.2.1]

end Sys2Proof.Safety
end

