-- ==== Sys2Proof/Laws/Kept.lean ====
section
/-!
SUPPORT. What every operation keeps: the queue, the order of time, and the canonical form of memory.
-/
set_option linter.tactic.unusedName false
namespace Sys2Proof.Machine

/-- From `s` to `t` the queue is untouched, the clock has not run back, and memory has kept its canonical form. -/
structure Kept (s t : State) : Prop where
  queue : t.pending = s.pending
  clock : s.now ≤ t.now
  memory : Memory.wf s.mem = true → Memory.wf t.mem = true

variable {s0 s : State}

theorem Kept.refl (s : State) : Kept s s := ⟨rfl, Nat.le_refl _, id⟩
/-- A change of other fields. -/
theorem Kept.upd {tbBase : Int} {lastSync : Nat} {draws : Nat} {csr : NMap Word64} {ctr : NMap Word64} {cycle : CycleRec} {poison : List Nat} {errs : List (StoreRef × Nat × BitVec 288)} {seenCe : List (StoreRef × Nat)} {seenUe : List (StoreRef × Nat × Bool)} {writeBacks : List (StoreRef × Nat)} {scrubPos : List (StoreRef × Nat)} {cores : NMap CoreState} {benches : NMap BenchState} {dies : NMap DieState} {hubs : NMap HubState} {ports : NMap PortState} {tab : TabState} {job : JobState} {loader : LoaderState} {mgr : MgrState} {mgt : MgtState} {sec : SecState} {flash : FlashState} {pins : Pins} {out : List Msg}
    (h : Kept s0 s) : Kept s0 ⟨s.pending, s.now, tbBase, lastSync, draws, csr, ctr, cycle, s.mem, poison, errs, seenCe, seenUe, writeBacks, scrubPos, cores, benches, dies, hubs, ports, tab, job, loader, mgr, mgt, sec, flash, pins, out⟩ :=
  ⟨h.queue, h.clock, h.memory⟩
/-- A change of memory that keeps its form. -/
theorem Kept.mem {tbBase : Int} {lastSync : Nat} {draws : Nat} {csr : NMap Word64} {ctr : NMap Word64} {cycle : CycleRec} {poison : List Nat} {errs : List (StoreRef × Nat × BitVec 288)} {seenCe : List (StoreRef × Nat)} {seenUe : List (StoreRef × Nat × Bool)} {writeBacks : List (StoreRef × Nat)} {scrubPos : List (StoreRef × Nat)} {cores : NMap CoreState} {benches : NMap BenchState} {dies : NMap DieState} {hubs : NMap HubState} {ports : NMap PortState} {tab : TabState} {job : JobState} {loader : LoaderState} {mgr : MgrState} {mgt : MgtState} {sec : SecState} {flash : FlashState} {pins : Pins} {out : List Msg} {mem : List Host.Cell}
    (h : Kept s0 s) (hm : Memory.wf s.mem = true → Memory.wf mem = true) : Kept s0 ⟨s.pending, s.now, tbBase, lastSync, draws, csr, ctr, cycle, mem, poison, errs, seenCe, seenUe, writeBacks, scrubPos, cores, benches, dies, hubs, ports, tab, job, loader, mgr, mgt, sec, flash, pins, out⟩ :=
  ⟨h.queue, h.clock, fun w => hm (h.memory w)⟩
/-- Bytes dropped. -/
theorem Kept.filter {tbBase : Int} {lastSync : Nat} {draws : Nat} {csr : NMap Word64} {ctr : NMap Word64} {cycle : CycleRec} {poison : List Nat} {errs : List (StoreRef × Nat × BitVec 288)} {seenCe : List (StoreRef × Nat)} {seenUe : List (StoreRef × Nat × Bool)} {writeBacks : List (StoreRef × Nat)} {scrubPos : List (StoreRef × Nat)} {cores : NMap CoreState} {benches : NMap BenchState} {dies : NMap DieState} {hubs : NMap HubState} {ports : NMap PortState} {tab : TabState} {job : JobState} {loader : LoaderState} {mgr : MgrState} {mgt : MgtState} {sec : SecState} {flash : FlashState} {pins : Pins} {out : List Msg} {p : Host.Cell → Bool}
    (h : Kept s0 s) : Kept s0 ⟨s.pending, s.now, tbBase, lastSync, draws, csr, ctr, cycle, s.mem.filter p, poison, errs, seenCe, seenUe, writeBacks, scrubPos, cores, benches, dies, hubs, ports, tab, job, loader, mgr, mgt, sec, flash, pins, out⟩ :=
  ⟨h.queue, h.clock, fun w => memFilter_wf p (h.memory w)⟩
theorem Kept.ite {p : Prop} [Decidable p] {a b : State} (h : Kept s0 a) (k : Kept s0 b) : Kept s0 (if p then a else b) := by
  split <;> assumption
theorem Kept.byEq (s0 : State) {x A : State} {P : Prop} (e : x = A) (h : Kept s0 A) (k : Kept s0 x → P) : P := k (e ▸ h)
theorem Kept.byEq2 (s0 : State) {α : Type} {x A : α × State} {P : Prop} (e : x = A) (h : Kept s0 A.2) (k : Kept s0 x.2 → P) : P :=
  k (e ▸ h)
theorem Kept.byEq3 (s0 : State) {α β : Type} {x A : α × β × State} {P : Prop} (e : x = A) (h : Kept s0 A.2.2) (k : Kept s0 x.2.2 → P) : P := k (e ▸ h)
theorem Kept.byEq4 (s0 : State) {α β γ : Type} {x A : α × β × γ × State} {P : Prop} (e : x = A) (h : Kept s0 A.2.2.2)
    (k : Kept s0 x.2.2.2 → P) : P := k (e ▸ h)
theorem Kept.pair2 {α : Type} {p : α × State} {a : α} {t : State} (e : p = (a, t)) (h : Kept s0 p.2) : Kept s0 t := by subst e; exact h
theorem Kept.pair3 {α β : Type} {p : α × β × State} {a : α} {b : β} {t : State} (e : p = (a, b, t)) (h : Kept s0 p.2.2) : Kept s0 t := by
  subst e; exact h
theorem Kept.pair4 {α β γ : Type} {p : α × β × γ × State} {a : α} {b : β} {c : γ} {t : State} (e : p = (a, b, c, t))
    (h : Kept s0 p.2.2.2) : Kept s0 t := by subst e; exact h
/-- The same of the state in an answer, said so that no projection stands outermost. -/
def Kept2 {α : Type} (s0 : State) (p : α × State) : Prop := Kept s0 p.2
def Kept3 {α β : Type} (s0 : State) (p : α × β × State) : Prop := Kept s0 p.2.2
def Kept4 {α β γ : Type} (s0 : State) (p : α × β × γ × State) : Prop := Kept s0 p.2.2.2
theorem Kept2.mk {α : Type} {a : α} (h : Kept s0 s) : Kept2 s0 (a, s) := h
theorem Kept2.of {α : Type} {p : α × State} (h : Kept s0 p.2) : Kept2 s0 p := h
theorem Kept3.mk {α β : Type} {a : α} {b : β} (h : Kept s0 s) : Kept3 s0 (a, b, s) := h
theorem Kept3.of {α β : Type} {p : α × β × State} (h : Kept s0 p.2.2) : Kept3 s0 p := h
theorem Kept4.mk {α β γ : Type} {a : α} {b : β} {c : γ} (h : Kept s0 s) : Kept4 s0 (a, b, c, s) := h
theorem Kept4.of {α β γ : Type} {p : α × β × γ × State} (h : Kept s0 p.2.2.2) : Kept4 s0 p := h
theorem Kept.foldl {α : Type} {f : State → α → State} {l : List α} (h : Kept s0 s) (hf : ∀ x a, Kept s0 x → Kept s0 (f x a)) :
    Kept s0 (l.foldl f s) := by
  induction l generalizing s with
  | nil => exact h
  | cons a l ih => exact ih (hf s a h)
theorem Kept.foldl2 {α β : Type} {f : β × State → α → β × State} {l : List α} {p : β × State} (h : Kept s0 p.2)
    (hf : ∀ x a, Kept s0 x.2 → Kept2 s0 (f x a)) : Kept s0 (l.foldl f p).2 := by
  induction l generalizing p with
  | nil => exact h
  | cons a l ih => exact ih (hf p a h)
theorem Kept2.foldl {α β : Type} {f : β × State → α → β × State} {l : List α} {p : β × State} (h : Kept s0 p.2)
    (hf : ∀ x a, Kept s0 x.2 → Kept2 s0 (f x a)) : Kept2 s0 (l.foldl f p) := Kept.foldl2 h hf
theorem Kept3.foldl {α β γ : Type} {f : β × γ × State → α → β × γ × State} {l : List α} {p : β × γ × State} (h : Kept s0 p.2.2)
    (hf : ∀ x a, Kept s0 x.2.2 → Kept3 s0 (f x a)) : Kept3 s0 (l.foldl f p) := by
  induction l generalizing p with
  | nil => exact h
  | cons a l ih => exact ih (hf p a h)
theorem Kept4.foldl {α β γ δ : Type} {f : β × γ × δ × State → α → β × γ × δ × State} {l : List α} {p : β × γ × δ × State}
    (h : Kept s0 p.2.2.2) (hf : ∀ x a, Kept s0 x.2.2.2 → Kept4 s0 (f x a)) : Kept4 s0 (l.foldl f p) := by
  induction l generalizing p with
  | nil => exact h
  | cons a l ih => exact ih (hf p a h)
theorem Kept.foldlP {α β : Type} (p : β → State) {f : β → α → β} {l : List α} {x : β} (h : Kept s0 (p x))
    (hf : ∀ x a, Kept s0 (p x) → Kept s0 (p (f x a))) : Kept s0 (p (l.foldl f x)) := by
  induction l generalizing x with
  | nil => exact h
  | cons a l ih => exact ih (hf x a h)
theorem State.reach_kept (h : Kept s0 s) (t : Nat) : Kept s0 (s.reach t) :=
  ⟨h.queue, Nat.le_trans h.clock (Nat.le_max_left _ _), h.memory⟩
theorem State.setReg_kept {s0 s : State} (hk : Kept s0 s) (k : Nat) (v : Word64) :
    Kept s0 (State.setReg s k v) := by
  unfold State.setReg
  repeat' first
    | with_reducible assumption | split | with_reducible refine Kept.upd ?_

theorem State.setFld_kept {s0 s : State} (hk : Kept s0 s) (k : Nat) (hi : Nat) (lo : Nat) (v : Nat) :
    Kept s0 (State.setFld s k hi lo v) := by
  unfold State.setFld
  repeat' first
    | with_reducible assumption | with_reducible apply State.setReg_kept

theorem State.satFld_kept {s0 s : State} (hk : Kept s0 s) (k : Nat) (hi : Nat) (lo : Nat) (n : Nat) :
    Kept s0 (State.satFld s k hi lo n) := by
  unfold State.satFld
  repeat' first
    | with_reducible assumption | with_reducible apply State.setFld_kept

theorem State.setCore_kept {s0 s : State} (hk : Kept s0 s) (c : CoreId) (x : CoreState) :
    Kept s0 (State.setCore s c x) := by
  unfold State.setCore
  repeat' first
    | with_reducible assumption | with_reducible refine Kept.upd ?_

theorem State.updCore_kept {s0 s : State} (hk : Kept s0 s) (c : CoreId) (f : CoreState → CoreState) :
    Kept s0 (State.updCore s c f) := by
  unfold State.updCore
  repeat' first
    | with_reducible assumption | with_reducible apply State.setCore_kept

theorem State.setBench_kept {s0 s : State} (hk : Kept s0 s) (b : BenchId) (x : BenchState) :
    Kept s0 (State.setBench s b x) := by
  unfold State.setBench
  repeat' first
    | with_reducible assumption | with_reducible refine Kept.upd ?_

theorem State.updBench_kept {s0 s : State} (hk : Kept s0 s) (b : BenchId) (f : BenchState → BenchState) :
    Kept s0 (State.updBench s b f) := by
  unfold State.updBench
  repeat' first
    | with_reducible assumption | with_reducible apply State.setBench_kept

theorem State.setDie_kept {s0 s : State} (hk : Kept s0 s) (d : Die) (x : DieState) :
    Kept s0 (State.setDie s d x) := by
  unfold State.setDie
  repeat' first
    | with_reducible assumption | with_reducible refine Kept.upd ?_

theorem State.updDie_kept {s0 s : State} (hk : Kept s0 s) (d : Die) (f : DieState → DieState) :
    Kept s0 (State.updDie s d f) := by
  unfold State.updDie
  repeat' first
    | with_reducible assumption | with_reducible apply State.setDie_kept

theorem State.setHub_kept {s0 s : State} (hk : Kept s0 s) (h : Hub) (x : HubState) :
    Kept s0 (State.setHub s h x) := by
  unfold State.setHub
  repeat' first
    | with_reducible assumption | with_reducible refine Kept.upd ?_

theorem State.updHub_kept {s0 s : State} (hk : Kept s0 s) (h : Hub) (f : HubState → HubState) :
    Kept s0 (State.updHub s h f) := by
  unfold State.updHub
  repeat' first
    | with_reducible assumption | with_reducible apply State.setHub_kept

theorem State.setPort_kept {s0 s : State} (hk : Kept s0 s) (p : PortId) (x : PortState) :
    Kept s0 (State.setPort s p x) := by
  unfold State.setPort
  repeat' first
    | with_reducible assumption | with_reducible refine Kept.upd ?_

theorem State.updPort_kept {s0 s : State} (hk : Kept s0 s) (p : PortId) (f : PortState → PortState) :
    Kept s0 (State.updPort s p f) := by
  unfold State.updPort
  repeat' first
    | with_reducible assumption | with_reducible apply State.setPort_kept

theorem State.newCycle_kept {s0 s : State} (hk : Kept s0 s) :
    Kept s0 (State.newCycle s) := by
  unfold State.newCycle
  repeat' first
    | with_reducible assumption | with_reducible refine Kept.upd ?_


theorem State.drew_kept {s0 s : State} (hk : Kept s0 s) :
    Kept s0 (State.drew s) := by
  unfold State.drew
  repeat' first
    | with_reducible assumption | with_reducible refine Kept.upd ?_

theorem bumpOne_kept {s0 s : State} (hk : Kept s0 s) (sel : Nat) (cnt : Nat) (hit : Nat → Bool) (n : Nat) :
    Kept s0 (bumpOne s sel cnt hit n) := by
  unfold bumpOne
  repeat' first
    | with_reducible assumption | with_reducible apply State.setReg_kept | intro _
    | (extract_lets +onlyGivenNames x; first | (clear_value (e : x = _); first | with_reducible refine Kept.byEq s0 e ?_ ?_ | clear e) | skip)
    | split

theorem bump_kept {s0 s : State} (hk : Kept s0 s) (base : Nat → Nat) (cnt : Nat) (sel : Nat) (evc : Nat) (hit : Nat → Bool) (n : Nat) :
    Kept s0 (bump s base cnt sel evc hit n) := by
  unfold bump
  repeat' first
    | with_reducible assumption | with_reducible apply bumpOne_kept | with_reducible refine Kept.foldl ?_ ?_ | intro _

theorem State.countBench_kept {s0 s : State} (hk : Kept s0 s) (b : BenchId) (src : Nat) (core : Option Nat) (n : Nat) :
    Kept s0 (State.countBench s b src core n) := by
  unfold State.countBench
  repeat' first
    | with_reducible assumption | with_reducible apply bump_kept | intro _
    | (extract_lets +onlyGivenNames x; first | (clear_value (e : x = _); first | with_reducible refine Kept.byEq s0 e ?_ ?_ | clear e) | skip)
    | split | with_reducible refine Kept.upd ?_

theorem State.countCore_kept {s0 s : State} (hk : Kept s0 s) (c : CoreId) (src : Nat) (n : Nat) :
    Kept s0 (State.countCore s c src n) := by
  unfold State.countCore
  repeat' first
    | with_reducible assumption | with_reducible apply State.countBench_kept

theorem State.countDie_kept {s0 s : State} (hk : Kept s0 s) (d : Die) (src : Nat) (n : Nat) :
    Kept s0 (State.countDie s d src n) := by
  unfold State.countDie
  repeat' first
    | with_reducible assumption | with_reducible apply bump_kept | intro _ | split

theorem State.countHub_kept {s0 s : State} (hk : Kept s0 s) (h : Hub) (src : Nat) (n : Nat) :
    Kept s0 (State.countHub s h src n) := by
  unfold State.countHub
  repeat' first
    | with_reducible assumption | with_reducible apply bump_kept | intro _ | split

theorem State.countMd_kept {s0 s : State} (hk : Kept s0 s) (m : Md) (src : Nat) (n : Nat) :
    Kept s0 (State.countMd s m src n) := by
  unfold State.countMd
  repeat' first
    | with_reducible assumption | with_reducible apply bump_kept | intro _ | split

theorem State.say_kept {s0 s : State} (hk : Kept s0 s) (k : MsgKind) (data : List Nat) :
    Kept s0 (State.say s k data) := by
  unfold State.say
  repeat' first
    | with_reducible assumption | with_reducible refine Kept.upd ?_

theorem State.addLog_kept {s0 s : State} (hk : Kept s0 s) (md : Md) (sev : Nat) (pinned : Bool) (code : Nat) (loc : Nat) (data : Nat) :
    Kept s0 (State.addLog s md sev pinned code loc data) := by
  unfold State.addLog
  repeat' first
    | with_reducible assumption | with_reducible apply State.countMd_kept | with_reducible apply State.setFld_kept
    | with_reducible apply State.satFld_kept | intro _
    | (extract_lets +onlyGivenNames x; first | (clear_value (e : x = _); first | with_reducible refine Kept.byEq s0 e ?_ ?_ | clear e) | skip)
    | split | with_reducible refine Kept.upd ?_

theorem State.logEvent_kept {s0 s : State} (hk : Kept s0 s) (md : Md) (sev : Nat) (pinned : Bool) (code : Nat) (loc : Nat) (data : Nat) :
    Kept s0 (State.logEvent s md sev pinned code loc data) := by
  unfold State.logEvent
  repeat' first
    | with_reducible assumption | with_reducible apply State.addLog_kept | with_reducible apply State.setFld_kept | intro _
    | (extract_lets +onlyGivenNames x; first | (clear_value (e : x = _); first | with_reducible refine Kept.byEq s0 e ?_ ?_ | clear e) | skip)
    | split

theorem State.log_kept {s0 s : State} (hk : Kept s0 s) (md : Md) (sev : Nat) (pinned : Bool) (rule : Nat) (loc : Nat) (data : Nat) :
    Kept s0 (State.log s md sev pinned rule loc data) := by
  unfold State.log
  repeat' first
    | with_reducible assumption | with_reducible apply State.logEvent_kept

theorem State.deadlineFault_kept {s0 s : State} (hk : Kept s0 s) (die : Nat) (bench : Nat) (core : Nat) :
    Kept s0 (State.deadlineFault s die bench core) := by
  unfold State.deadlineFault
  repeat' first
    | with_reducible assumption | with_reducible apply State.say_kept

theorem State.coreDeadline_kept {s0 s : State} (hk : Kept s0 s) (c : CoreId) :
    Kept s0 (State.coreDeadline s c) := by
  unfold State.coreDeadline
  repeat' first
    | with_reducible assumption | with_reducible apply State.countDie_kept | with_reducible apply State.deadlineFault_kept
    | intro _
    | (extract_lets +onlyGivenNames x; first | (clear_value (e : x = _); first | with_reducible refine Kept.byEq s0 e ?_ ?_ | clear e) | skip)

theorem State.benchDeadline_kept {s0 s : State} (hk : Kept s0 s) (b : BenchId) :
    Kept s0 (State.benchDeadline s b) := by
  unfold State.benchDeadline
  repeat' first
    | with_reducible assumption | with_reducible apply State.countDie_kept | with_reducible apply State.deadlineFault_kept
    | intro _
    | (extract_lets +onlyGivenNames x; first | (clear_value (e : x = _); first | with_reducible refine Kept.byEq s0 e ?_ ?_ | clear e) | skip)

theorem State.hubDeadline_kept {s0 s : State} (hk : Kept s0 s) (h : Hub) :
    Kept s0 (State.hubDeadline s h) := by
  unfold State.hubDeadline
  repeat' first
    | with_reducible assumption | with_reducible apply State.deadlineFault_kept

theorem State.eccRecord_kept {s0 s : State} (hk : Kept s0 s) (own : BenchId ⊕ Hub) (addr : Nat) (store : Nat) (unc : Bool) :
    Kept s0 (State.eccRecord s own addr store unc) := by
  unfold State.eccRecord
  repeat' first
    | with_reducible assumption | with_reducible apply State.satFld_kept | with_reducible apply State.setReg_kept
    | with_reducible apply State.countBench_kept | with_reducible apply State.countHub_kept | intro _
    | (extract_lets +onlyGivenNames x; first | (clear_value (e : x = _); first | with_reducible refine Kept.byEq s0 e ?_ ?_ | clear e) | skip)
    | split | with_reducible refine Kept.upd ?_

theorem State.uncorrectable_kept {s0 s : State} (hk : Kept s0 s) (own : BenchId ⊕ Hub) (addr : Nat) (store : Nat) :
    Kept s0 (State.uncorrectable s own addr store) := by
  unfold State.uncorrectable
  repeat' first
    | with_reducible assumption | with_reducible apply State.eccRecord_kept | with_reducible apply State.log_kept
    | with_reducible apply State.benchDeadline_kept | with_reducible apply State.hubDeadline_kept | intro _
    | (extract_lets +onlyGivenNames x; first | (clear_value (e : x = _); first | with_reducible refine Kept.byEq s0 e ?_ ?_ | clear e) | skip)
    | split | with_reducible refine Kept.upd ?_

theorem State.countStore_kept {s0 s : State} (hk : Kept s0 s) (st : StoreRef) (bench : Option Nat) (hub : Option Nat) :
    Kept s0 (State.countStore s st bench hub) := by
  unfold State.countStore
  repeat' first
    | with_reducible assumption | with_reducible apply State.countBench_kept | with_reducible apply State.countHub_kept | split
    | with_reducible refine Kept.upd ?_

theorem State.dropRange_kept {s0 s : State} (hk : Kept s0 s) (lo : Nat) (hi : Nat) :
    Kept s0 (State.dropRange s lo hi) := by
  unfold State.dropRange
  repeat' first
    | with_reducible assumption | intro _ | split | with_reducible refine Kept.upd ?_ | with_reducible refine Kept.filter ?_

theorem State.unitFailed_kept {s0 s : State} (hk : Kept s0 s) (die : Nat) (bench : Nat) (rule : Nat) :
    Kept s0 (State.unitFailed s die bench rule) := by
  unfold State.unitFailed
  repeat' first
    | with_reducible assumption | with_reducible apply State.log_kept | with_reducible apply State.say_kept

theorem State.retireBlock_kept {s0 s : State} (hk : Kept s0 s) (c : ChanId) (blk : Nat) (copy : Bool) :
    Kept s0 (State.retireBlock s c blk copy) := by
  unfold State.retireBlock
  repeat' first
    | with_reducible assumption | with_reducible apply State.log_kept | with_reducible apply State.say_kept
    | with_reducible apply State.unitFailed_kept | with_reducible apply State.setReg_kept
    | with_reducible apply State.dropRange_kept | with_reducible apply State.updHub_kept | intro _
    | (extract_lets +onlyGivenNames x; first | (clear_value (e : x = _); first | with_reducible refine Kept.byEq s0 e ?_ ?_ | clear e) | skip)
    | split | with_reducible refine Kept.upd ?_

theorem State.remapRow_kept {s0 s : State} (hk : Kept s0 s) (st : StoreRef) (addr : Nat) :
    Kept s0 (State.remapRow s st addr) := by
  unfold State.remapRow
  repeat' first
    | with_reducible assumption | intro _
    | (extract_lets +onlyGivenNames x; first | (clear_value (e : x = _); first | with_reducible refine Kept.byEq s0 e ?_ ?_ | clear e) | skip)
    | split | with_reducible refine Kept.upd ?_

theorem State.hardFail_kept {s0 s : State} (hk : Kept s0 s) (st : StoreRef) (addr : Nat) (unc : Bool) :
    Kept s0 (State.hardFail s st addr unc) := by
  unfold State.hardFail
  repeat' first
    | with_reducible assumption | with_reducible apply State.countStore_kept | with_reducible apply State.log_kept
    | with_reducible apply State.retireBlock_kept | with_reducible apply State.remapRow_kept | intro _
    | (extract_lets +onlyGivenNames x; first | (clear_value (e : x = _); first | with_reducible refine Kept.byEq s0 e ?_ ?_ | clear e) | skip)
    | split | with_reducible refine Kept.upd ?_

theorem State.foundCe_kept {s0 s : State} (hk : Kept s0 s) (own : BenchId ⊕ Hub) (st : StoreRef) (addr : Nat) (m : BitVec 288) :
    Kept s0 (State.foundCe s own st addr m) := by
  unfold State.foundCe
  repeat' first
    | with_reducible assumption | with_reducible apply State.eccRecord_kept | with_reducible apply State.hardFail_kept | intro _
    | (extract_lets +onlyGivenNames x; first | (clear_value (e : x = _); first | with_reducible refine Kept.byEq s0 e ?_ ?_ | clear e) | skip)
    | split | with_reducible refine Kept.upd ?_

theorem State.foundUe_kept {s0 s : State} (hk : Kept s0 s) (own : BenchId ⊕ Hub) (st : StoreRef) (addr : Nat) :
    Kept s0 (State.foundUe s own st addr) := by
  unfold State.foundUe
  repeat' first
    | with_reducible assumption | with_reducible apply State.uncorrectable_kept | with_reducible apply State.hardFail_kept
    | intro _
    | (extract_lets +onlyGivenNames x; first | (clear_value (e : x = _); first | with_reducible refine Kept.byEq s0 e ?_ ?_ | clear e) | skip)
    | split | with_reducible refine Kept.upd ?_

theorem State.check_kept {s0 s : State} (hk : Kept s0 s) (u : Nat) :
    Kept s0 (State.check s u).2 := by
  show Kept2 s0 _
  unfold State.check
  generalize (0x800000000000 : Nat) = big
  repeat' first
    | with_reducible assumption | with_reducible apply State.countBench_kept | with_reducible apply State.foundCe_kept
    | with_reducible apply State.foundUe_kept | with_reducible apply State.drew_kept | intro _
    | (extract_lets +onlyGivenNames x; first | (clear_value (e : x = _); first | with_reducible refine Kept.byEq s0 e ?_ ?_ | with_reducible refine Kept.byEq2 s0 e ?_ ?_ | clear e) | skip)
    | split | with_reducible refine Kept.pair2 (by assumption) ?_ | with_reducible refine Kept2.mk ?_
    | with_reducible refine Kept2.of ?_ | with_reducible refine Kept.upd ?_

theorem State.checks_kept {s0 s : State} (h : Kept s0 s) (us : List Nat) : Kept s0 (State.checks s us).2 := by
  induction us generalizing s with
  | nil => exact h
  | cons u us ih => unfold State.checks; exact ih (State.check_kept h u)

theorem State.load_kept {s0 s : State} (hk : Kept s0 s) (k : Nat) (n : Nat) :
    Kept s0 (State.load s k n).2.2 := by
  show Kept3 s0 _
  unfold State.load
  repeat' first
    | with_reducible assumption | with_reducible apply State.checks_kept | with_reducible apply State.drew_kept | intro _
    | (extract_lets +onlyGivenNames x; first | (clear_value (e : x = _); first | with_reducible refine Kept.byEq s0 e ?_ ?_ | with_reducible refine Kept.byEq2 s0 e ?_ ?_ | with_reducible refine Kept.byEq3 s0 e ?_ ?_ | clear e) | skip)
    | split | with_reducible refine Kept2.mk ?_ | with_reducible refine Kept2.of ?_ | with_reducible refine Kept3.mk ?_
    | with_reducible refine Kept3.of ?_

theorem State.checkWord_kept {s0 s : State} (hk : Kept s0 s) (c : CoreId) (st : StoreRef) (addr : Nat) :
    Kept s0 (State.checkWord s c st addr).2 := by
  show Kept2 s0 _
  unfold State.checkWord
  repeat' first
    | with_reducible assumption | with_reducible apply State.foundCe_kept | with_reducible apply State.foundUe_kept
    | with_reducible apply State.drew_kept | intro _
    | (extract_lets +onlyGivenNames x; first | (clear_value (e : x = _); first | with_reducible refine Kept.byEq s0 e ?_ ?_ | with_reducible refine Kept.byEq2 s0 e ?_ ?_ | clear e) | skip)
    | split | with_reducible refine Kept.pair2 (by assumption) ?_ | with_reducible refine Kept2.mk ?_
    | with_reducible refine Kept2.of ?_ | with_reducible refine Kept.upd ?_

theorem State.checkWords_kept {s0 s : State} (hk : Kept s0 s) (c : CoreId) (st : StoreRef) (a0 : List Nat) :
    Kept s0 (State.checkWords s c st a0).2 := by
  induction a0 generalizing s with
  | nil =>
    unfold State.checkWords
    repeat' first
      | with_reducible assumption | with_reducible apply State.checkWord_kept | intro _
      | (extract_lets +onlyGivenNames x; first | (clear_value (e : x = _); first | with_reducible refine Kept.byEq s0 e ?_ ?_ | with_reducible refine Kept.byEq2 s0 e ?_ ?_ | clear e) | skip)
      | split | with_reducible refine Kept2.mk ?_ | with_reducible refine Kept2.of ?_
  | cons x0 xs ih =>
    show Kept2 s0 _
    unfold State.checkWords
    repeat' first
      | with_reducible assumption | with_reducible apply ih | with_reducible apply State.checkWord_kept | intro _
      | (extract_lets +onlyGivenNames x; first | (clear_value (e : x = _); first | with_reducible refine Kept.byEq s0 e ?_ ?_ | with_reducible refine Kept.byEq2 s0 e ?_ ?_ | clear e) | skip)
      | split | with_reducible refine Kept2.mk ?_ | with_reducible refine Kept2.of ?_

theorem State.checkRegs_kept {s0 s : State} (hk : Kept s0 s) (c : CoreId) (rs : List Nat) :
    Kept s0 (State.checkRegs s c rs) := by
  unfold State.checkRegs
  repeat' first
    | with_reducible assumption | with_reducible apply State.checkWords_kept | with_reducible apply State.updCore_kept
    | with_reducible refine Kept.foldl ?_ ?_ | with_reducible refine Kept.foldl2 ?_ ?_ | with_reducible refine Kept2.foldl ?_ ?_
    | intro _
    | (extract_lets +onlyGivenNames x; first | (clear_value (e : x = _); first | with_reducible refine Kept.byEq s0 e ?_ ?_ | with_reducible refine Kept.byEq2 s0 e ?_ ?_ | clear e) | skip)
    | split | with_reducible refine Kept2.mk ?_ | with_reducible refine Kept2.of ?_ | with_reducible refine Kept.upd ?_

theorem State.freshReg_kept {s0 s : State} (hk : Kept s0 s) (c : CoreId) (r : Nat) :
    Kept s0 (State.freshReg s c r) := by
  unfold State.freshReg
  repeat' first
    | with_reducible assumption | intro _
    | (extract_lets +onlyGivenNames x; first | (clear_value (e : x = _); first | with_reducible refine Kept.byEq s0 e ?_ ?_ | clear e) | skip)
    | split | with_reducible refine Kept.upd ?_

theorem State.loadNat_kept {s0 s : State} (hk : Kept s0 s) (k : Nat) (n : Nat) :
    Kept s0 (State.loadNat s k n).2.2 := by
  show Kept3 s0 _
  unfold State.loadNat
  repeat' first
    | with_reducible assumption | with_reducible apply State.load_kept | intro _
    | (extract_lets +onlyGivenNames x; first | (clear_value (e : x = _); first | with_reducible refine Kept.byEq s0 e ?_ ?_ | with_reducible refine Kept.byEq3 s0 e ?_ ?_ | clear e) | skip)
    | split | with_reducible refine Kept.pair3 (by assumption) ?_ | with_reducible refine Kept3.mk ?_
    | with_reducible refine Kept3.of ?_

theorem State.clearErr_kept {s0 s : State} (hk : Kept s0 s) (u : Nat) :
    Kept s0 (State.clearErr s u) := by
  unfold State.clearErr
  repeat' first
    | with_reducible assumption | intro _ | split | with_reducible refine Kept.upd ?_

theorem State.countAt_kept {s0 s : State} (hk : Kept s0 s) (k : Nat) (src : Nat) (n : Nat) :
    Kept s0 (State.countAt s k src n) := by
  unfold State.countAt
  repeat' first
    | with_reducible assumption | with_reducible apply State.countBench_kept | split | with_reducible refine Kept.upd ?_

theorem State.putMem_kept {s0 s : State} (h : Kept s0 s) (k : Nat) (bs : List Byte) :
    Kept s0 { s with mem := putBytes s.mem k bs } := h.mem (putBytes_wf bs _ k)

theorem State.storeUnit_kept {s0 s : State} (h : Kept s0 s) (k : Nat) (bs : List Byte) (poison : Bool) (u : Nat) :
    Kept s0 (State.storeUnit s k bs poison u).2 := by
  unfold State.storeUnit
  extract_lets z whole lo hi put
  have hput : ∀ x : State, Kept s0 x → Kept s0 (put x) := fun x hx => hx.mem (putBytes_wf _ _ lo)
  clear_value put
  split
  · exact h.upd
  · split
    · exact hput _ (State.clearErr_kept h.upd u)
    · split
      · exact h
      · split
        · split
          · extract_lets +onlyGivenNames n
            clear_value n
            split
            · exact State.countAt_kept (State.eccRecord_kept h _ _ _ _) _ _ _
            · refine State.countAt_kept (hput _ (State.clearErr_kept ?_ u)) _ _ _
              split
              · exact State.foundCe_kept h _ _ _ _
              · exact h
          · exact State.countAt_kept (hput _ h) _ _ _
        · exact hput _ h

theorem State.storeUnits_kept {s0 s : State} (hk : Kept s0 s) (k : Nat) (bs : List Byte) (poison : Bool) (us : List Nat) :
    Kept s0 (State.storeUnits s k bs poison us).2 := by
  show Kept2 s0 _
  unfold State.storeUnits
  repeat' first
    | with_reducible assumption | with_reducible apply State.storeUnit_kept | with_reducible refine Kept.foldl ?_ ?_
    | with_reducible refine Kept.foldl2 ?_ ?_ | with_reducible refine Kept2.foldl ?_ ?_ | with_reducible refine Kept3.foldl ?_ ?_
    | with_reducible refine Kept4.foldl ?_ ?_ | intro _
    | (extract_lets +onlyGivenNames x; first | (clear_value (e : x = _); first | with_reducible refine Kept.byEq s0 e ?_ ?_ | with_reducible refine Kept.byEq2 s0 e ?_ ?_ | clear e) | skip)
    | split | with_reducible refine Kept.pair2 (by assumption) ?_ | with_reducible refine Kept2.mk ?_
    | with_reducible refine Kept2.of ?_

theorem State.store_kept {s0 s : State} (h : Kept s0 s) (k : Nat) (bs : List Byte) (poison : Bool) :
    Kept s0 (State.store s k bs poison).2 := by
  unfold State.store
  split
  · exact h
  · split
    · exact State.countAt_kept (State.putMem_kept h k bs) _ _ _
    · repeat' first
        | with_reducible assumption | with_reducible apply State.storeUnits_kept
        | (extract_lets +onlyGivenNames x; clear_value (e : x = _); first | with_reducible refine Kept.byEq s0 e ?_ ?_ | with_reducible refine Kept.byEq2 s0 e ?_ ?_ | clear e)
        | split | with_reducible refine Kept.pair2 (by assumption) ?_ | dsimp -zeta only

theorem State.poisonRange_kept {s0 s : State} (hk : Kept s0 s) (k : Nat) (n : Nat) :
    Kept s0 (State.poisonRange s k n) := by
  unfold State.poisonRange
  repeat' first
    | with_reducible assumption | with_reducible refine Kept.foldl ?_ ?_ | intro _ | with_reducible refine Kept.upd ?_

theorem State.loadAt_kept {s0 s : State} (hk : Kept s0 s) (a : Nat) (n : Nat) :
    Kept s0 (State.loadAt s a n).2.2 := by
  show Kept3 s0 _
  unfold State.loadAt
  repeat' first
    | with_reducible assumption | with_reducible apply State.load_kept | intro _
    | (extract_lets +onlyGivenNames x; first | (clear_value (e : x = _); first | with_reducible refine Kept.byEq s0 e ?_ ?_ | with_reducible refine Kept.byEq3 s0 e ?_ ?_ | clear e) | skip)
    | split | with_reducible refine Kept.pair3 (by assumption) ?_ | with_reducible refine Kept3.mk ?_
    | with_reducible refine Kept3.of ?_ | with_reducible refine Kept.upd ?_

theorem State.storeAt_kept {s0 s : State} (hk : Kept s0 s) (a : Nat) (bs : List Byte) (poison : Bool) :
    Kept s0 (State.storeAt s a bs poison).2 := by
  show Kept2 s0 _
  unfold State.storeAt
  repeat' first
    | with_reducible assumption | with_reducible apply State.store_kept | split
    | with_reducible refine Kept.pair2 (by assumption) ?_ | with_reducible refine Kept2.mk ?_ | with_reducible refine Kept2.of ?_
    | with_reducible refine Kept.upd ?_

theorem State.poisonAt_kept {s0 s : State} (hk : Kept s0 s) (a : Nat) (n : Nat) :
    Kept s0 (State.poisonAt s a n) := by
  unfold State.poisonAt
  repeat' first
    | with_reducible assumption | with_reducible apply State.poisonRange_kept | split | with_reducible refine Kept.upd ?_

theorem State.service_kept {s0 s : State} (hk : Kept s0 s) (cls : Nat) :
    Kept s0 (State.service s cls) := by
  unfold State.service
  repeat' first
    | with_reducible assumption | with_reducible apply State.setFld_kept | with_reducible apply State.log_kept
    | with_reducible apply State.say_kept | intro _
    | (extract_lets +onlyGivenNames x; first | (clear_value (e : x = _); first | with_reducible refine Kept.byEq s0 e ?_ ?_ | clear e) | skip)
    | with_reducible refine Kept.upd ?_

end Sys2Proof.Machine
end

