-- ==== Sys2Proof/Laws/KeptCore.lean ====
section
/-!
SUPPORT. What the operations of a core and a bench, accesses, translation and power keep (`Kept`).
-/
set_option linter.tactic.unusedName false
namespace Sys2Proof.Machine

theorem State.writeStep_kept {s0 s : State} (hk : Kept s0 s) (b : BenchId) (r : StepRec) :
    Kept s0 (State.writeStep s b r) := by
  unfold State.writeStep
  repeat' first
    | with_reducible assumption | with_reducible apply State.updCore_kept | with_reducible apply State.setCore_kept
    | with_reducible apply State.freshReg_kept | with_reducible apply State.countBench_kept
    | with_reducible refine Kept.foldl ?_ ?_ | intro _
    | (extract_lets +onlyGivenNames x; first | (clear_value (e : x = _); first | with_reducible refine Kept.byEq s0 e ?_ ?_ | clear e) | skip)
    | split | with_reducible refine Kept.upd ?_

theorem State.writeStepsGo_kept (b : BenchId) (t n : Nat) : ∀ {s0 s : State}, Kept s0 s → Kept s0 (s.writeStepsGo b t n) := by
  induction n with
  | zero => intro s0 s hk; exact hk
  | succ n ih =>
    intro s0 s hk
    unfold State.writeStepsGo
    cases (s.bench b).steps with
    | nil => exact hk
    | cons r rest =>
      dsimp -zeta only
      split
      · extract_lets +onlyGivenNames due s1
        have h1 : Kept s0 s1 := Kept.foldl hk fun x _ hx => Kept.foldl hx fun y _ hy => by
          split
          · exact State.checkRegs_kept hy _ _
          · exact hy
        extract_lets +onlyGivenNames upd
        clear_value upd s1
        split
        · exact ih (State.writeStep_kept (State.updBench_kept h1 _ _) _ _)
        · exact h1
      · exact hk

theorem State.writeSteps_kept {s0 s : State} (hk : Kept s0 s) (b : BenchId) (t : Nat) : Kept s0 (State.writeSteps s b t) :=
  State.writeStepsGo_kept b t _ hk

theorem State.arrayFault_kept {s0 s : State} (hk : Kept s0 s) (b : BenchId) (cause : Nat) (core : Nat) :
    Kept s0 (State.arrayFault s b cause core) := by
  unfold State.arrayFault
  repeat' first
    | with_reducible assumption | with_reducible apply State.countBench_kept | with_reducible apply State.setReg_kept
    | with_reducible apply State.updBench_kept | with_reducible apply State.benchDeadline_kept | intro _
    | (extract_lets +onlyGivenNames x; first | (clear_value (e : x = _); first | with_reducible refine Kept.byEq s0 e ?_ ?_ | clear e) | skip)
    | split | with_reducible refine Kept.upd ?_

theorem State.countStep_kept {s0 s : State} (hk : Kept s0 s) (b : BenchId) (r : StepRec) :
    Kept s0 (State.countStep s b r) := by
  unfold State.countStep
  repeat' first
    | with_reducible assumption | with_reducible apply State.countBench_kept | intro _
    | (extract_lets +onlyGivenNames x; first | (clear_value (e : x = _); first | with_reducible refine Kept.byEq s0 e ?_ ?_ | clear e) | skip)
    | split

theorem State.closeStep_kept {s0 s : State} (hk : Kept s0 s) (b : BenchId) :
    Kept s0 (State.closeStep s b) := by
  unfold State.closeStep
  repeat' first
    | with_reducible assumption | with_reducible apply State.setBench_kept | with_reducible apply State.setFld_kept
    | with_reducible apply State.arrayFault_kept | with_reducible apply State.countStep_kept | intro _
    | (extract_lets +onlyGivenNames x; first | (clear_value (e : x = _); first | with_reducible refine Kept.byEq s0 e ?_ ?_ | clear e) | skip)
    | split | with_reducible refine Kept.upd ?_

theorem State.countExc_kept {s0 s : State} (hk : Kept s0 s) (c : CoreId) (cls : Nat) (e : List Nat) :
    Kept s0 (State.countExc s c cls e) := by
  unfold State.countExc
  repeat' first
    | with_reducible assumption | with_reducible apply State.countCore_kept | with_reducible refine Kept.foldl ?_ ?_ | intro _

theorem State.ringFault_kept {s0 s : State} (hk : Kept s0 s) (b : BenchId) (cause : Nat) (core : Nat) :
    Kept s0 (State.ringFault s b cause core) := by
  unfold State.ringFault
  repeat' first
    | with_reducible assumption | with_reducible apply State.countBench_kept | with_reducible apply State.setReg_kept
    | with_reducible apply State.updBench_kept | with_reducible apply State.benchDeadline_kept | intro _
    | (extract_lets +onlyGivenNames x; first | (clear_value (e : x = _); first | with_reducible refine Kept.byEq s0 e ?_ ?_ | clear e) | skip)
    | split | with_reducible refine Kept.upd ?_

theorem State.ringPoison_kept {s0 s : State} (hk : Kept s0 s) (b : BenchId) (vs : List RVote) :
    Kept s0 (State.ringPoison s b vs) := by
  unfold State.ringPoison
  repeat' first
    | with_reducible assumption | with_reducible apply State.updCore_kept | with_reducible refine Kept.foldl ?_ ?_ | intro _

theorem State.closeRing_kept {s0 s : State} (hk : Kept s0 s) (b : BenchId) : Kept s0 (State.closeRing s b) := by
  unfold State.closeRing
  dsimp only
  repeat' first
    | with_reducible assumption | with_reducible apply State.updCore_kept | with_reducible apply State.ringFault_kept
    | with_reducible apply State.ringPoison_kept | with_reducible apply State.setBench_kept | with_reducible apply State.updBench_kept
    | with_reducible apply State.countBench_kept | with_reducible apply State.countExc_kept | with_reducible refine Kept.foldl ?_ ?_
    | intro _ | split

theorem State.lineTouch_kept {s0 s : State} (hk : Kept s0 s) (c : CoreId) (off : Nat) (n : Nat) :
    Kept s0 (State.lineTouch s c off n) := by
  unfold State.lineTouch
  repeat' first
    | with_reducible assumption | with_reducible apply State.countCore_kept | with_reducible apply State.coreDeadline_kept | split

theorem State.lsRead_kept {s0 s : State} (hk : Kept s0 s) (c : CoreId) (off : Nat) (n : Nat) :
    Kept s0 (State.lsRead s c off n).2.2 := by
  show Kept3 s0 _
  unfold State.lsRead
  repeat' first
    | with_reducible assumption | with_reducible apply State.loadNat_kept | with_reducible apply State.lineTouch_kept | intro _
    | (extract_lets +onlyGivenNames x; first | (clear_value (e : x = _); first | with_reducible refine Kept.byEq s0 e ?_ ?_ | with_reducible refine Kept.byEq3 s0 e ?_ ?_ | clear e) | skip)
    | with_reducible refine Kept3.mk ?_ | with_reducible refine Kept3.of ?_

theorem State.post_kept {s0 s : State} (hk : Kept s0 s) (c : CoreId) (slot : Nat) (lat : Nat) (dst : Dst) (val : Vec) (poison : Bool) :
    Kept s0 (State.post s c slot lat dst val poison) := by
  unfold State.post
  repeat' first
    | with_reducible assumption | with_reducible apply State.setCore_kept | intro _
    | (extract_lets +onlyGivenNames x; first | (clear_value (e : x = _); first | with_reducible refine Kept.byEq s0 e ?_ ?_ | clear e) | skip)

theorem State.spoilSteps_kept {s0 s : State} (hk : Kept s0 s) (c : CoreId) (t : Nat) :
    Kept s0 (State.spoilSteps s c t) := by
  unfold State.spoilSteps
  repeat' first
    | with_reducible assumption | with_reducible apply State.updBench_kept | intro _ | split | with_reducible refine Kept.upd ?_

theorem State.haltCore_kept {s0 s : State} (hk : Kept s0 s) (c : CoreId) :
    Kept s0 (State.haltCore s c) := by
  unfold State.haltCore
  repeat' first
    | with_reducible assumption | with_reducible apply State.setCore_kept | with_reducible apply State.spoilSteps_kept
    | with_reducible refine Kept.foldl ?_ ?_ | intro _
    | (extract_lets +onlyGivenNames x; first | (clear_value (e : x = _); first | with_reducible refine Kept.byEq s0 e ?_ ?_ | clear e) | skip)
    | with_reducible refine Kept.upd ?_

theorem State.coreFault_kept {s0 s : State} (hk : Kept s0 s) (c : CoreId) (cls : Nat) (slot : Nat) (idx : BitVec 9) :
    Kept s0 (State.coreFault s c cls slot idx) := by
  unfold State.coreFault
  repeat' first
    | with_reducible assumption | with_reducible apply State.setReg_kept | with_reducible apply State.updCore_kept
    | with_reducible apply State.countDie_kept | with_reducible apply State.countCore_kept
    | with_reducible apply State.coreDeadline_kept | with_reducible apply State.haltCore_kept | intro _
    | (extract_lets +onlyGivenNames x; first | (clear_value (e : x = _); first | with_reducible refine Kept.byEq s0 e ?_ ?_ | clear e) | skip)
    | split | with_reducible refine Kept.upd ?_

theorem State.writeResult_kept {s0 s : State} (hk : Kept s0 s) (c : CoreId) (r : Result) :
    Kept s0 (State.writeResult s c r) := by
  unfold State.writeResult
  repeat' first
    | with_reducible assumption | with_reducible apply State.updCore_kept | with_reducible apply State.freshReg_kept
    | with_reducible apply State.setReg_kept | with_reducible apply State.lsRead_kept | with_reducible apply State.coreFault_kept
    | with_reducible apply State.store_kept | with_reducible apply State.poisonRange_kept | intro _
    | (extract_lets +onlyGivenNames x; first | (clear_value (e : x = _); first | with_reducible refine Kept.byEq s0 e ?_ ?_ | with_reducible refine Kept.byEq2 s0 e ?_ ?_ | with_reducible refine Kept.byEq3 s0 e ?_ ?_ | clear e) | skip)
    | split | with_reducible refine Kept.pair2 (by assumption) ?_ | with_reducible refine Kept.pair3 (by assumption) ?_
    | with_reducible refine Kept.upd ?_

theorem State.writeResults_kept {s0 s : State} (hk : Kept s0 s) (c : CoreId) (rs : List Result) :
    Kept s0 (State.writeResults s c rs) := by
  induction rs generalizing s with
  | nil => exact hk
  | cons r rs ih =>
    unfold State.writeResults
    split
    · exact ih (State.countCore_kept hk _ _ _)
    · exact ih (State.writeResult_kept hk _ _)

theorem State.applyBefore_kept {s0 s : State} (hk : Kept s0 s) (c : CoreId) (t : Nat) :
    Kept s0 (State.applyBefore s c t) := by
  unfold State.applyBefore
  repeat' first
    | with_reducible assumption | with_reducible apply State.updCore_kept | with_reducible apply State.writeResults_kept | intro _
    | (extract_lets +onlyGivenNames x; first | (clear_value (e : x = _); first | with_reducible refine Kept.byEq s0 e ?_ ?_ | clear e) | skip)
    | split | with_reducible refine Kept.upd ?_

theorem State.regionEnd_kept {s0 s : State} (hk : Kept s0 s) (c : CoreId) :
    Kept s0 (State.regionEnd s c) := by
  unfold State.regionEnd
  repeat' first
    | with_reducible assumption | with_reducible apply State.reach_kept | with_reducible apply State.applyBefore_kept
    | with_reducible apply State.load_kept | with_reducible apply State.setCore_kept | with_reducible apply State.updCore_kept
    | with_reducible apply State.spoilSteps_kept | with_reducible apply State.coreFault_kept
    | with_reducible refine Kept.foldl ?_ ?_ | with_reducible refine Kept3.foldl ?_ ?_ | intro _
    | (extract_lets +onlyGivenNames x; first | (clear_value (e : x = _); first | with_reducible refine Kept.byEq s0 e ?_ ?_ | with_reducible refine Kept.byEq3 s0 e ?_ ?_ | clear e) | skip)
    | split | with_reducible refine Kept.pair3 (by assumption) ?_ | with_reducible refine Kept3.mk ?_
    | with_reducible refine Kept3.of ?_ | with_reducible refine Kept.upd ?_

theorem State.settle_kept {s0 s : State} (hk : Kept s0 s) (b : BenchId) (t : Nat) :
    Kept s0 (State.settle s b t) := by
  unfold State.settle
  repeat' first
    | with_reducible assumption | with_reducible apply State.closeStep_kept | with_reducible apply State.closeRing_kept
    | with_reducible apply State.writeSteps_kept | intro _
    | (extract_lets +onlyGivenNames x; first | (clear_value (e : x = _); first | with_reducible refine Kept.byEq s0 e ?_ ?_ | clear e) | skip)
    | split

theorem State.fetchCheck_kept {s0 s : State} (hk : Kept s0 s) (c : CoreId) (b : Bundle) (idx : BitVec 9) :
    Kept s0 (State.fetchCheck s c b idx).2 := by
  show Kept2 s0 _
  unfold State.fetchCheck
  repeat' first
    | with_reducible assumption | with_reducible apply State.checkWords_kept | with_reducible apply State.haltCore_kept
    | with_reducible apply State.checkRegs_kept | intro _
    | (extract_lets +onlyGivenNames x; first | (clear_value (e : x = _); first | with_reducible refine Kept.byEq s0 e ?_ ?_ | with_reducible refine Kept.byEq2 s0 e ?_ ?_ | clear e) | skip)
    | split | with_reducible refine Kept2.mk ?_ | with_reducible refine Kept2.of ?_

theorem State.issueNow_kept {s0 s : State} (hk : Kept s0 s) (c : CoreId) (b : Bundle) (slot : Nat) :
    Kept s0 (State.issueNow s c b slot).2 := by
  show Kept2 s0 _
  unfold State.issueNow
  repeat' first
    | with_reducible assumption | with_reducible apply State.coreFault_kept | with_reducible apply State.updCore_kept
    | with_reducible apply State.fetchCheck_kept | with_reducible apply State.countCore_kept
    | with_reducible refine Kept.foldl ?_ ?_ | with_reducible refine Kept.foldl2 ?_ ?_ | with_reducible refine Kept2.foldl ?_ ?_
    | intro _
    | (extract_lets +onlyGivenNames x; first | (clear_value (e : x = _); first | with_reducible refine Kept.byEq s0 e ?_ ?_ | with_reducible refine Kept.byEq2 s0 e ?_ ?_ | clear e) | skip)
    | split | with_reducible refine Kept.pair2 (by assumption) ?_ | with_reducible refine Kept2.mk ?_
    | with_reducible refine Kept2.of ?_ | with_reducible refine Kept.upd ?_

theorem State.openBundle_kept {s0 s : State} (hk : Kept s0 s) (c : CoreId) (b : Bundle) (slot : Nat) :
    Kept s0 (State.openBundle s c b slot).2 := by
  show Kept2 s0 _
  unfold State.openBundle
  repeat' first
    | with_reducible assumption | with_reducible apply State.updCore_kept | with_reducible apply State.regionEnd_kept
    | with_reducible apply State.reach_kept | with_reducible apply State.settle_kept | with_reducible apply State.applyBefore_kept
    | with_reducible apply State.issueNow_kept | intro _
    | (extract_lets +onlyGivenNames x; first | (clear_value (e : x = _); first | with_reducible refine Kept.byEq s0 e ?_ ?_ | with_reducible refine Kept.byEq2 s0 e ?_ ?_ | clear e) | skip)
    | split | with_reducible refine Kept.pair2 (by assumption) ?_ | with_reducible refine Kept2.mk ?_
    | with_reducible refine Kept2.of ?_ | with_reducible refine Kept.upd ?_

theorem State.slotDo_kept {s0 s : State} (hk : Kept s0 s) (c : CoreId) (b : Bundle) (slot : Nat) (code : Nat) (eff : Nat → State → State) (hfeff : ∀ w x, Kept s0 x → Kept s0 (eff w x)) :
    Kept s0 (State.slotDo s c b slot code eff) := by
  unfold State.slotDo
  repeat' first
    | with_reducible assumption | with_reducible apply hfeff | with_reducible apply State.openBundle_kept | intro _
    | (extract_lets +onlyGivenNames x; first | (clear_value (e : x = _); first | with_reducible refine Kept.byEq s0 e ?_ ?_ | with_reducible refine Kept.byEq2 s0 e ?_ ?_ | clear e) | skip)
    | split

theorem State.scalarImm_kept {s0 s : State} (hk : Kept s0 s) (c : CoreId) (f : Nat → Word64 → Word64) (w : Nat) :
    Kept s0 (State.scalarImm s c f w) := by
  unfold State.scalarImm
  repeat' first
    | with_reducible assumption | with_reducible apply State.post_kept | intro _
    | (extract_lets +onlyGivenNames x; first | (clear_value (e : x = _); first | with_reducible refine Kept.byEq s0 e ?_ ?_ | clear e) | skip)

theorem State.saluEff_kept {s0 s : State} (hk : Kept s0 s) (c : CoreId) (w : Nat) :
    Kept s0 (State.saluEff s c w) := by
  unfold State.saluEff
  repeat' first
    | with_reducible assumption | with_reducible apply State.post_kept | intro _
    | (extract_lets +onlyGivenNames x; first | (clear_value (e : x = _); first | with_reducible refine Kept.byEq s0 e ?_ ?_ | clear e) | skip)

theorem State.limEff_kept {s0 s : State} (hk : Kept s0 s) (c : CoreId) (w : Nat) :
    Kept s0 (State.limEff s c w) := by
  unfold State.limEff
  repeat' first
    | with_reducible assumption | with_reducible apply State.post_kept | intro _
    | (extract_lets +onlyGivenNames x; first | (clear_value (e : x = _); first | with_reducible refine Kept.byEq s0 e ?_ ?_ | clear e) | skip)

theorem State.brEff_kept {s0 s : State} (hk : Kept s0 s) (c : CoreId) (w : Nat) :
    Kept s0 (State.brEff s c w) := by
  unfold State.brEff
  repeat' first
    | with_reducible assumption | with_reducible apply State.setCore_kept | intro _
    | (extract_lets +onlyGivenNames x; first | (clear_value (e : x = _); first | with_reducible refine Kept.byEq s0 e ?_ ?_ | clear e) | skip)
    | split | with_reducible refine Kept.upd ?_

theorem State.loopEff_kept {s0 s : State} (hk : Kept s0 s) (c : CoreId) (w : Nat) :
    Kept s0 (State.loopEff s c w) := by
  unfold State.loopEff
  repeat' first
    | with_reducible assumption | with_reducible apply State.setCore_kept | intro _
    | (extract_lets +onlyGivenNames x; first | (clear_value (e : x = _); first | with_reducible refine Kept.byEq s0 e ?_ ?_ | clear e) | skip)
    | split | with_reducible refine Kept.upd ?_

theorem State.rdsrEff_kept {s0 s : State} (hk : Kept s0 s) (c : CoreId) (w : Nat) :
    Kept s0 (State.rdsrEff s c w) := by
  unfold State.rdsrEff
  repeat' first
    | with_reducible assumption | with_reducible apply State.post_kept

theorem State.mwldEff_kept {s0 s : State} (hk : Kept s0 s) (c : CoreId) (w : Nat) :
    Kept s0 (State.mwldEff s c w) := by
  unfold State.mwldEff
  repeat' first
    | with_reducible assumption | with_reducible apply State.coreFault_kept | with_reducible apply State.lsRead_kept
    | with_reducible apply State.setCore_kept | with_reducible apply State.countCore_kept | intro _
    | (extract_lets +onlyGivenNames x; first | (clear_value (e : x = _); first | with_reducible refine Kept.byEq s0 e ?_ ?_ | with_reducible refine Kept.byEq3 s0 e ?_ ?_ | clear e) | skip)
    | split | with_reducible refine Kept.upd ?_

theorem State.msclEff_kept {s0 s : State} (hk : Kept s0 s) (c : CoreId) (w : Nat) :
    Kept s0 (State.msclEff s c w) := by
  unfold State.msclEff
  repeat' first
    | with_reducible assumption | with_reducible apply State.coreFault_kept | with_reducible apply State.lsRead_kept
    | with_reducible apply State.setCore_kept | intro _
    | (extract_lets +onlyGivenNames x; first | (clear_value (e : x = _); first | with_reducible refine Kept.byEq s0 e ?_ ?_ | with_reducible refine Kept.byEq3 s0 e ?_ ?_ | clear e) | skip)
    | split | with_reducible refine Kept.upd ?_

theorem State.mmaskEff_kept {s0 s : State} (hk : Kept s0 s) (c : CoreId) (w : Nat) :
    Kept s0 (State.mmaskEff s c w) := by
  unfold State.mmaskEff
  repeat' first
    | with_reducible assumption | with_reducible apply State.coreFault_kept | with_reducible apply State.lsRead_kept
    | with_reducible apply State.setCore_kept | with_reducible apply State.setReg_kept | with_reducible apply State.countCore_kept
    | intro _
    | (extract_lets +onlyGivenNames x; first | (clear_value (e : x = _); first | with_reducible refine Kept.byEq s0 e ?_ ?_ | with_reducible refine Kept.byEq3 s0 e ?_ ?_ | clear e) | skip)
    | split | with_reducible refine Kept.upd ?_

theorem State.mstepEff_kept {s0 s : State} (hk : Kept s0 s) (c : CoreId) (w : Nat) :
    Kept s0 (State.mstepEff s c w) := by
  unfold State.mstepEff
  repeat' first
    | with_reducible assumption | with_reducible apply State.setCore_kept | with_reducible apply State.lsRead_kept
    | with_reducible apply State.drew_kept | with_reducible apply State.coreFault_kept | with_reducible apply State.updBench_kept
    | with_reducible apply State.closeStep_kept | intro _
    | (extract_lets +onlyGivenNames x; first | (clear_value (e : x = _); first | with_reducible refine Kept.byEq s0 e ?_ ?_ | with_reducible refine Kept.byEq3 s0 e ?_ ?_ | clear e) | skip)
    | split | with_reducible refine Kept.upd ?_

theorem State.countTy_kept {s0 s : State} (hk : Kept s0 s) (c : CoreId) (ty : Nat) :
    Kept s0 (State.countTy s c ty) := by
  unfold State.countTy
  repeat' first
    | with_reducible assumption | with_reducible apply State.countCore_kept | split

theorem State.postV_kept {s0 s : State} (hk : Kept s0 s) (c : CoreId) (lat : Nat) (vd : Nat) (o : VOut) (cls : Nat) (bad : Bool) :
    Kept s0 (State.postV s c lat vd o cls bad) := by
  unfold State.postV
  repeat' first
    | with_reducible assumption | with_reducible apply State.post_kept | with_reducible apply State.countExc_kept

theorem State.v3Eff_kept {s0 s : State} (hk : Kept s0 s) (c : CoreId) (base : Nat) (cls : Nat) (f : Nat → Nat → Vec → Vec → VOut) (w : Nat) :
    Kept s0 (State.v3Eff s c base cls f w) := by
  unfold State.v3Eff
  repeat' first
    | with_reducible assumption | with_reducible apply State.postV_kept | with_reducible apply State.countTy_kept | intro _
    | (extract_lets +onlyGivenNames x; first | (clear_value (e : x = _); first | with_reducible refine Kept.byEq s0 e ?_ ?_ | clear e) | skip)

theorem State.v4Eff_kept {s0 s : State} (hk : Kept s0 s) (c : CoreId) (base : Nat) (cls : Nat) (f : Nat → Vec → Vec → Vec → VOut) (w : Nat) :
    Kept s0 (State.v4Eff s c base cls f w) := by
  unfold State.v4Eff
  repeat' first
    | with_reducible assumption | with_reducible apply State.postV_kept | with_reducible apply State.countTy_kept | intro _
    | (extract_lets +onlyGivenNames x; first | (clear_value (e : x = _); first | with_reducible refine Kept.byEq s0 e ?_ ?_ | clear e) | skip)

theorem State.v3Sel_kept {s0 s : State} (hk : Kept s0 s) (c : CoreId) (op : Nat) (base : Nat) (cls : Nat) (f : Nat → Nat → Vec → Vec → VOut) (w : Nat) :
    Kept s0 (State.v3Sel s c op base cls f w) := by
  unfold State.v3Sel
  repeat' first
    | with_reducible assumption | with_reducible apply State.v3Eff_kept | with_reducible apply State.postV_kept
    | with_reducible apply State.countTy_kept | intro _
    | (extract_lets +onlyGivenNames x; first | (clear_value (e : x = _); first | with_reducible refine Kept.byEq s0 e ?_ ?_ | clear e) | skip)
    | split

theorem State.vcvtEff_kept {s0 s : State} (hk : Kept s0 s) (c : CoreId) (w : Nat) :
    Kept s0 (State.vcvtEff s c w) := by
  unfold State.vcvtEff
  repeat' first
    | with_reducible assumption | with_reducible apply State.postV_kept | with_reducible apply State.post_kept
    | with_reducible apply State.countCore_kept | with_reducible apply State.countTy_kept | intro _
    | (extract_lets +onlyGivenNames x; first | (clear_value (e : x = _); first | with_reducible refine Kept.byEq s0 e ?_ ?_ | clear e) | skip)
    | split

theorem State.ringVote_kept {s0 s : State} (hk : Kept s0 s) (c : CoreId) (v : RVote) :
    Kept s0 (State.ringVote s c v) := by
  unfold State.ringVote
  repeat' first
    | with_reducible assumption | with_reducible apply State.updBench_kept | with_reducible apply State.closeRing_kept | intro _
    | (extract_lets +onlyGivenNames x; first | (clear_value (e : x = _); first | with_reducible refine Kept.byEq s0 e ?_ ?_ | clear e) | skip)
    | split | with_reducible refine Kept.upd ?_

theorem State.vredEff_kept {s0 s : State} (hk : Kept s0 s) (c : CoreId) (w : Nat) :
    Kept s0 (State.vredEff s c w) := by
  unfold State.vredEff
  repeat' first
    | with_reducible assumption | with_reducible apply State.countTy_kept | with_reducible apply State.countCore_kept
    | with_reducible apply State.postV_kept | with_reducible apply State.ringVote_kept | intro _
    | (extract_lets +onlyGivenNames x; first | (clear_value (e : x = _); first | with_reducible refine Kept.byEq s0 e ?_ ?_ | clear e) | skip)
    | split

theorem State.vscanEff_kept {s0 s : State} (hk : Kept s0 s) (c : CoreId) (w : Nat) :
    Kept s0 (State.vscanEff s c w) := by
  unfold State.vscanEff
  repeat' first
    | with_reducible assumption | with_reducible apply State.ringVote_kept | with_reducible apply State.countExc_kept
    | with_reducible apply State.post_kept | intro _
    | (extract_lets +onlyGivenNames x; first | (clear_value (e : x = _); first | with_reducible refine Kept.byEq s0 e ?_ ?_ | clear e) | skip)
    | split

theorem State.vbflyEff_kept {s0 s : State} (hk : Kept s0 s) (c : CoreId) (w : Nat) :
    Kept s0 (State.vbflyEff s c w) := by
  unfold State.vbflyEff
  repeat' first
    | with_reducible assumption | with_reducible apply State.postV_kept | with_reducible apply State.countTy_kept
    | with_reducible apply State.countCore_kept | intro _
    | (extract_lets +onlyGivenNames x; first | (clear_value (e : x = _); first | with_reducible refine Kept.byEq s0 e ?_ ?_ | clear e) | skip)

theorem State.vsfnEff_kept {s0 s : State} (hk : Kept s0 s) (c : CoreId) (w : Nat) :
    Kept s0 (State.vsfnEff s c w) := by
  unfold State.vsfnEff
  repeat' first
    | with_reducible assumption | with_reducible apply State.post_kept | with_reducible apply State.updCore_kept
    | with_reducible apply State.setFld_kept | with_reducible apply State.countCore_kept | with_reducible refine Kept.foldl ?_ ?_
    | intro _
    | (extract_lets +onlyGivenNames x; first | (clear_value (e : x = _); first | with_reducible refine Kept.byEq s0 e ?_ ?_ | clear e) | skip)
    | split | with_reducible refine Kept.upd ?_

theorem State.enter_kept {s0 s : State} (hk : Kept s0 s) (o : Origin) :
    Kept s0 (State.enter s o) := by
  unfold State.enter
  repeat' first
    | with_reducible assumption | with_reducible apply State.newCycle_kept | split

theorem State.ordered_kept {s0 s : State} (hk : Kept s0 s) (o : Origin) (k : Nat) (old : Word64) :
    Kept s0 (State.ordered s o k old) := by
  unfold State.ordered
  repeat' first
    | with_reducible assumption | with_reducible apply State.setReg_kept | intro _
    | (extract_lets +onlyGivenNames x; first | (clear_value (e : x = _); first | with_reducible refine Kept.byEq s0 e ?_ ?_ | clear e) | skip)
    | split | with_reducible refine Kept.upd ?_

theorem State.putSession_kept {s0 s : State} (hk : Kept s0 s) (x : Session) :
    Kept s0 (State.putSession s x) := by
  unfold State.putSession
  repeat' first
    | with_reducible assumption | intro _ | split | with_reducible refine Kept.upd ?_

theorem State.dropSession_kept {s0 s : State} (hk : Kept s0 s) (md : Nat) (id : Nat) :
    Kept s0 (State.dropSession s md id) := by
  unfold State.dropSession
  repeat' first
    | with_reducible assumption | intro _ | with_reducible refine Kept.upd ?_

theorem State.discard_kept {s0 s : State} (hk : Kept s0 s) (md : Md) :
    Kept s0 (State.discard s md) := by
  unfold State.discard
  repeat' first
    | with_reducible assumption | with_reducible apply State.countMd_kept

theorem State.reply_kept {s0 s : State} (hk : Kept s0 s) (rq : Rq) (status : Nat) (data : List Nat) :
    Kept s0 (State.reply s rq status data) := by
  unfold State.reply
  repeat' first
    | with_reducible assumption | with_reducible apply State.putSession_kept | intro _
    | (extract_lets +onlyGivenNames x; first | (clear_value (e : x = _); first | with_reducible refine Kept.byEq s0 e ?_ ?_ | clear e) | skip)
    | split | with_reducible refine Kept.upd ?_

theorem State.permit_kept {s0 s : State} (hk : Kept s0 s) (rq : Rq) (ty : Nat) (bit : Nat) :
    Kept s0 (State.permit s rq ty bit).2 := by
  show Kept2 s0 _
  unfold State.permit
  repeat' first
    | with_reducible assumption | with_reducible apply State.discard_kept | with_reducible apply State.reply_kept | intro _
    | split | with_reducible refine Kept.pair2 (by assumption) ?_ | with_reducible refine Kept2.mk ?_
    | with_reducible refine Kept2.of ?_ | with_reducible refine Kept.upd ?_

theorem State.onRequest_kept {s0 s : State} (hk : Kept s0 s) (rq : Rq) (ty : Nat) (bit : Nat) (f : State → State) (hff : ∀ x, Kept s0 x → Kept s0 (f x)) :
    Kept s0 (State.onRequest s rq ty bit f) := by
  unfold State.onRequest
  repeat' first
    | with_reducible assumption | with_reducible apply hff | with_reducible apply State.permit_kept | intro _
    | (extract_lets +onlyGivenNames x; first | (clear_value (e : x = _); first | with_reducible refine Kept.byEq s0 e ?_ ?_ | with_reducible refine Kept.byEq2 s0 e ?_ ?_ | clear e) | skip)
    | split

theorem State.accessError_kept {s0 s : State} (hk : Kept s0 s) (md : Md) (cause : Nat) (addr : Nat) (read : Bool) :
    Kept s0 (State.accessError s md cause addr read) := by
  unfold State.accessError
  repeat' first
    | with_reducible assumption | with_reducible apply State.satFld_kept | with_reducible apply State.countMd_kept
    | with_reducible apply State.setFld_kept | with_reducible apply State.setReg_kept | intro _
    | (extract_lets +onlyGivenNames x; first | (clear_value (e : x = _); first | with_reducible refine Kept.byEq s0 e ?_ ?_ | clear e) | skip)
    | split

theorem State.tryWrite_kept {s0 s : State} (hk : Kept s0 s) (o : Origin) (addr : Nat) (f : State → Bool × State) (hff : ∀ x, Kept s0 x → Kept s0 (f x).2) :
    Kept s0 (State.tryWrite s o addr f).2 := by
  show Kept2 s0 _
  unfold State.tryWrite
  repeat' first
    | with_reducible assumption | with_reducible apply hff | with_reducible apply State.enter_kept
    | with_reducible apply State.accessError_kept | with_reducible apply State.ordered_kept | intro _
    | (extract_lets +onlyGivenNames x; first | (clear_value (e : x = _); first | with_reducible refine Kept.byEq s0 e ?_ ?_ | with_reducible refine Kept.byEq2 s0 e ?_ ?_ | clear e) | skip)
    | split | with_reducible refine Kept2.mk ?_ | with_reducible refine Kept2.of ?_

theorem State.originWrite_kept {s0 s : State} (hk : Kept s0 s) (o : Origin) (addr : Nat) (f : State → Bool × State) (hff : ∀ x, Kept s0 x → Kept s0 (f x).2) :
    Kept s0 (State.originWrite s o addr f) := by
  unfold State.originWrite
  repeat' first
    | with_reducible assumption | with_reducible apply hff | with_reducible apply State.tryWrite_kept
    | with_reducible apply State.onRequest_kept | with_reducible apply State.reply_kept | intro _
    | (extract_lets +onlyGivenNames x; first | (clear_value (e : x = _); first | with_reducible refine Kept.byEq s0 e ?_ ?_ | with_reducible refine Kept.byEq2 s0 e ?_ ?_ | clear e) | skip)
    | split | with_reducible refine Kept.pair2 (by assumption) ?_ | with_reducible refine Kept.upd ?_

theorem State.tableWord_kept {s0 s : State} (hk : Kept s0 s) (a : Nat) :
    Kept s0 (State.tableWord s a).2 := by
  show Kept2 s0 _
  unfold State.tableWord
  repeat' first
    | with_reducible assumption | with_reducible apply State.loadNat_kept | intro _
    | (extract_lets +onlyGivenNames x; first | (clear_value (e : x = _); first | with_reducible refine Kept.byEq s0 e ?_ ?_ | with_reducible refine Kept.byEq2 s0 e ?_ ?_ | with_reducible refine Kept.byEq3 s0 e ?_ ?_ | clear e) | skip)
    | split | with_reducible refine Kept.pair2 (by assumption) ?_ | with_reducible refine Kept.pair3 (by assumption) ?_
    | with_reducible refine Kept2.mk ?_ | with_reducible refine Kept2.of ?_ | with_reducible refine Kept3.mk ?_
    | with_reducible refine Kept3.of ?_ | with_reducible refine Kept.upd ?_

theorem State.walk_kept {s0 s : State} (hk : Kept s0 s) (a : Nat) :
    Kept s0 (State.walk s a).2 := by
  show Kept2 s0 _
  unfold State.walk
  repeat' first
    | with_reducible assumption | with_reducible apply State.tableWord_kept | intro _
    | (extract_lets +onlyGivenNames x; first | (clear_value (e : x = _); first | with_reducible refine Kept.byEq s0 e ?_ ?_ | with_reducible refine Kept.byEq2 s0 e ?_ ?_ | clear e) | skip)
    | split | with_reducible refine Kept.pair2 (by assumption) ?_ | with_reducible refine Kept2.mk ?_
    | with_reducible refine Kept2.of ?_ | with_reducible refine Kept.upd ?_

theorem State.setTlb_kept {s0 s : State} (hk : Kept s0 s) (p : XPath) (t : List Tlb) :
    Kept s0 (State.setTlb s p t) := by
  unfold State.setTlb
  repeat' first
    | with_reducible assumption | with_reducible apply State.updCore_kept | with_reducible apply State.updBench_kept
    | with_reducible apply State.updHub_kept | intro _ | split | with_reducible refine Kept.upd ?_

theorem State.countWalk_kept {s0 s : State} (hk : Kept s0 s) (p : XPath) :
    Kept s0 (State.countWalk s p) := by
  unfold State.countWalk
  repeat' first
    | with_reducible assumption | with_reducible apply State.countBench_kept | split | with_reducible refine Kept.upd ?_

theorem State.lookup_kept {s0 s : State} (hk : Kept s0 s) (p : XPath) (a : Nat) :
    Kept s0 (State.lookup s p a).2 := by
  show Kept2 s0 _
  unfold State.lookup
  repeat' first
    | with_reducible assumption | with_reducible apply State.setTlb_kept | with_reducible apply State.countWalk_kept
    | with_reducible apply State.walk_kept | intro _
    | (extract_lets +onlyGivenNames x; first | (clear_value (e : x = _); first | with_reducible refine Kept.byEq s0 e ?_ ?_ | with_reducible refine Kept.byEq2 s0 e ?_ ?_ | clear e) | skip)
    | split | with_reducible refine Kept.pair2 (by assumption) ?_ | with_reducible refine Kept2.mk ?_
    | with_reducible refine Kept2.of ?_ | with_reducible refine Kept.upd ?_

theorem State.translate_kept {s0 s : State} (hk : Kept s0 s) (p : XPath) (a : Nat) (write : Bool) :
    Kept s0 (State.translate s p a write).2 := by
  show Kept2 s0 _
  unfold State.translate
  repeat' first
    | with_reducible assumption | with_reducible apply State.lookup_kept | intro _
    | (extract_lets +onlyGivenNames x; first | (clear_value (e : x = _); first | with_reducible refine Kept.byEq s0 e ?_ ?_ | with_reducible refine Kept.byEq2 s0 e ?_ ?_ | clear e) | skip)
    | split | with_reducible refine Kept.pair2 (by assumption) ?_ | with_reducible refine Kept2.mk ?_
    | with_reducible refine Kept2.of ?_ | with_reducible refine Kept.upd ?_

theorem State.translateBare_kept {s0 s : State} (hk : Kept s0 s) (a : Nat) (write : Bool) :
    Kept s0 (State.translateBare s a write).2 := by
  show Kept2 s0 _
  unfold State.translateBare
  repeat' first
    | with_reducible assumption | with_reducible apply State.walk_kept | intro _
    | (extract_lets +onlyGivenNames x; first | (clear_value (e : x = _); first | with_reducible refine Kept.byEq s0 e ?_ ?_ | with_reducible refine Kept.byEq2 s0 e ?_ ?_ | clear e) | skip)
    | split | with_reducible refine Kept.pair2 (by assumption) ?_ | with_reducible refine Kept2.mk ?_
    | with_reducible refine Kept2.of ?_ | with_reducible refine Kept.upd ?_

theorem State.loadLong_kept {s0 s : State} (hk : Kept s0 s) (a : Nat) (n : Nat) :
    Kept s0 (State.loadLong s a n).2.2 := by
  show Kept3 s0 _
  unfold State.loadLong
  repeat' first
    | with_reducible assumption | with_reducible apply State.loadAt_kept | with_reducible refine Kept.foldl ?_ ?_
    | with_reducible refine Kept.foldl2 ?_ ?_ | with_reducible refine Kept2.foldl ?_ ?_ | with_reducible refine Kept3.foldl ?_ ?_
    | with_reducible refine Kept4.foldl ?_ ?_ | intro _
    | (extract_lets +onlyGivenNames x; first | (clear_value (e : x = _); first | with_reducible refine Kept.byEq s0 e ?_ ?_ | with_reducible refine Kept.byEq3 s0 e ?_ ?_ | clear e) | skip)
    | with_reducible refine Kept3.mk ?_ | with_reducible refine Kept3.of ?_

theorem State.storeLong_kept {s0 s : State} (hk : Kept s0 s) (a : Nat) (bs : List Byte) (poison : Bool) :
    Kept s0 (State.storeLong s a bs poison) := by
  unfold State.storeLong
  repeat' first
    | with_reducible assumption | with_reducible apply State.storeAt_kept | with_reducible apply State.poisonAt_kept
    | with_reducible refine Kept.foldl ?_ ?_ | with_reducible refine Kept.foldl2 ?_ ?_ | with_reducible refine Kept2.foldl ?_ ?_
    | with_reducible refine Kept3.foldl ?_ ?_ | with_reducible refine Kept4.foldl ?_ ?_ | intro _
    | (extract_lets +onlyGivenNames x; first | (clear_value (e : x = _); first | with_reducible refine Kept.byEq s0 e ?_ ?_ | with_reducible refine Kept.byEq2 s0 e ?_ ?_ | clear e) | skip)
    | split | with_reducible refine Kept2.mk ?_ | with_reducible refine Kept2.of ?_

theorem State.xread_kept {s0 s : State} (hk : Kept s0 s) (p : XPath) (a : Nat) (n : Nat) :
    Kept s0 (State.xread s p a n).2.2.2 := by
  show Kept4 s0 _
  unfold State.xread
  repeat' first
    | with_reducible assumption | with_reducible apply State.translate_kept | with_reducible apply State.loadAt_kept
    | with_reducible refine Kept.foldl ?_ ?_ | with_reducible refine Kept.foldl2 ?_ ?_ | with_reducible refine Kept2.foldl ?_ ?_
    | with_reducible refine Kept3.foldl ?_ ?_ | with_reducible refine Kept4.foldl ?_ ?_ | intro _
    | (extract_lets +onlyGivenNames x; first | (clear_value (e : x = _); first | with_reducible refine Kept.byEq s0 e ?_ ?_ | with_reducible refine Kept.byEq2 s0 e ?_ ?_ | with_reducible refine Kept.byEq3 s0 e ?_ ?_ | with_reducible refine Kept.byEq4 s0 e ?_ ?_ | clear e) | skip)
    | split | with_reducible refine Kept.pair2 (by assumption) ?_ | with_reducible refine Kept.pair3 (by assumption) ?_
    | with_reducible refine Kept.pair4 (by assumption) ?_ | with_reducible refine Kept2.mk ?_ | with_reducible refine Kept2.of ?_
    | with_reducible refine Kept3.mk ?_ | with_reducible refine Kept3.of ?_ | with_reducible refine Kept4.mk ?_
    | with_reducible refine Kept4.of ?_ | with_reducible refine Kept.upd ?_

theorem State.flushTlbs_kept {s0 s : State} (hk : Kept s0 s) :
    Kept s0 (State.flushTlbs s) := by
  unfold State.flushTlbs
  repeat' first
    | with_reducible assumption | intro _ | with_reducible refine Kept.upd ?_

theorem State.doSwap_kept {s0 s : State} (hk : Kept s0 s) :
    Kept s0 (State.doSwap s) := by
  unfold State.doSwap
  repeat' first
    | with_reducible assumption | with_reducible apply State.setFld_kept | with_reducible apply State.flushTlbs_kept | intro _
    | (extract_lets +onlyGivenNames x; first | (clear_value (e : x = _); first | with_reducible refine Kept.byEq s0 e ?_ ?_ | clear e) | skip)
    | split

theorem State.wXlatRoot_kept {s0 s : State} (hk : Kept s0 s) (n : Nat) (v : Word64) :
    Kept s0 (State.wXlatRoot s n v).2 := by
  show Kept2 s0 _
  unfold State.wXlatRoot
  repeat' first
    | with_reducible assumption | with_reducible apply State.setReg_kept | split | with_reducible refine Kept2.mk ?_
    | with_reducible refine Kept2.of ?_

theorem State.wXlatCtl_kept {s0 s : State} (hk : Kept s0 s) (v : Word64) :
    Kept s0 (State.wXlatCtl s v).2 := by
  show Kept2 s0 _
  unfold State.wXlatCtl
  repeat' first
    | with_reducible assumption | with_reducible apply State.setFld_kept | split | with_reducible refine Kept2.mk ?_
    | with_reducible refine Kept2.of ?_

theorem State.addWakes_kept {s0 s : State} (hk : Kept s0 s) (b : BenchId) :
    Kept s0 (State.addWakes s b) := by
  unfold State.addWakes
  repeat' first
    | with_reducible assumption | with_reducible apply State.satFld_kept | with_reducible apply State.countDie_kept

theorem State.addCancels_kept {s0 s : State} (hk : Kept s0 s) (b : BenchId) :
    Kept s0 (State.addCancels s b) := by
  unfold State.addCancels
  repeat' first
    | with_reducible assumption | with_reducible apply State.satFld_kept | with_reducible apply State.countDie_kept

theorem State.tryPark_kept {s0 s : State} (hk : Kept s0 s) (b : BenchId) :
    Kept s0 (State.tryPark s b) := by
  unfold State.tryPark
  repeat' first
    | with_reducible assumption | with_reducible apply State.updCore_kept | with_reducible apply State.addCancels_kept
    | with_reducible apply State.setBench_kept | with_reducible refine Kept.foldl ?_ ?_ | intro _
    | (extract_lets +onlyGivenNames x; first | (clear_value (e : x = _); first | with_reducible refine Kept.byEq s0 e ?_ ?_ | clear e) | skip)
    | split | with_reducible refine Kept.upd ?_

theorem State.wakeRequest_kept {s0 s : State} (hk : Kept s0 s) (b : BenchId) (bridge : Bool) :
    Kept s0 (State.wakeRequest s b bridge) := by
  unfold State.wakeRequest
  repeat' first
    | with_reducible assumption | with_reducible apply State.countDie_kept | with_reducible apply State.setBench_kept
    | with_reducible apply State.addCancels_kept | with_reducible apply State.addWakes_kept | intro _
    | (extract_lets +onlyGivenNames x; first | (clear_value (e : x = _); first | with_reducible refine Kept.byEq s0 e ?_ ?_ | clear e) | skip)
    | split | with_reducible refine Kept.upd ?_

theorem State.powerFault_kept {s0 s : State} (hk : Kept s0 s) (b : BenchId) (cause : Nat) :
    Kept s0 (State.powerFault s b cause) := by
  unfold State.powerFault
  repeat' first
    | with_reducible assumption | with_reducible apply State.setReg_kept | with_reducible apply State.updBench_kept
    | with_reducible apply State.benchDeadline_kept | intro _
    | (extract_lets +onlyGivenNames x; first | (clear_value (e : x = _); first | with_reducible refine Kept.byEq s0 e ?_ ?_ | clear e) | skip)
    | split | with_reducible refine Kept.upd ?_

theorem State.wakeDone_kept {s0 s : State} (hk : Kept s0 s) (b : BenchId) :
    Kept s0 (State.wakeDone s b) := by
  unfold State.wakeDone
  repeat' first
    | with_reducible assumption | with_reducible apply State.setBench_kept | with_reducible apply State.updCore_kept
    | with_reducible apply State.powerFault_kept | with_reducible refine Kept.foldl ?_ ?_ | intro _
    | (extract_lets +onlyGivenNames x; first | (clear_value (e : x = _); first | with_reducible refine Kept.byEq s0 e ?_ ?_ | clear e) | skip)
    | split | with_reducible refine Kept.upd ?_

theorem State.entryDone_kept {s0 s : State} (hk : Kept s0 s) (b : BenchId) :
    Kept s0 (State.entryDone s b) := by
  unfold State.entryDone
  repeat' first
    | with_reducible assumption | with_reducible apply State.updBench_kept | with_reducible apply State.updCore_kept
    | with_reducible refine Kept.foldl ?_ ?_ | intro _
    | (extract_lets +onlyGivenNames x; first | (clear_value (e : x = _); first | with_reducible refine Kept.byEq s0 e ?_ ?_ | clear e) | skip)
    | split | with_reducible refine Kept.upd ?_

theorem State.resetBench_kept {s0 s : State} (hk : Kept s0 s) (b : BenchId) :
    Kept s0 (State.resetBench s b) := by
  unfold State.resetBench
  repeat' first
    | with_reducible assumption | with_reducible apply State.updCore_kept | with_reducible apply State.dropRange_kept
    | with_reducible apply State.updBench_kept | with_reducible refine Kept.foldl ?_ ?_ | intro _
    | (extract_lets +onlyGivenNames x; first | (clear_value (e : x = _); first | with_reducible refine Kept.byEq s0 e ?_ ?_ | clear e) | skip)
    | split | with_reducible refine Kept.upd ?_

theorem State.resetFabric_kept {s0 s : State} (hk : Kept s0 s) (d : Die) :
    Kept s0 (State.resetFabric s d) := by
  unfold State.resetFabric
  repeat' first
    | with_reducible assumption | with_reducible apply State.updBench_kept | with_reducible apply State.updCore_kept
    | with_reducible refine Kept.foldl ?_ ?_ | intro _
    | (extract_lets +onlyGivenNames x; first | (clear_value (e : x = _); first | with_reducible refine Kept.byEq s0 e ?_ ?_ | clear e) | skip)
    | split | with_reducible refine Kept.upd ?_

theorem State.wDomReset_kept {s0 s : State} (hk : Kept s0 s) (d : Die) (v : Word64) :
    Kept s0 (State.wDomReset s d v).2 := by
  show Kept2 s0 _
  unfold State.wDomReset
  repeat' first
    | with_reducible assumption | with_reducible apply State.setReg_kept | with_reducible apply State.setFld_kept
    | with_reducible apply State.updDie_kept | intro _
    | (extract_lets +onlyGivenNames x; first | (clear_value (e : x = _); first | with_reducible refine Kept.byEq s0 e ?_ ?_ | with_reducible refine Kept.byEq2 s0 e ?_ ?_ | clear e) | skip)
    | split | with_reducible refine Kept2.mk ?_ | with_reducible refine Kept2.of ?_ | with_reducible refine Kept.upd ?_

theorem State.loadRepairs_kept {s0 s : State} (hk : Kept s0 s) (b : BenchId) :
    Kept s0 (State.loadRepairs s b) := by
  unfold State.loadRepairs
  repeat' first
    | with_reducible assumption | with_reducible apply State.countBench_kept | intro _
    | (extract_lets +onlyGivenNames x; first | (clear_value (e : x = _); first | with_reducible refine Kept.byEq s0 e ?_ ?_ | clear e) | skip)
    | with_reducible refine Kept.upd ?_

theorem State.domResetDone_kept {s0 s : State} (hk : Kept s0 s) (d : Die) :
    Kept s0 (State.domResetDone s d) := by
  unfold State.domResetDone
  repeat' first
    | with_reducible assumption | with_reducible apply State.resetFabric_kept | with_reducible apply State.resetBench_kept
    | with_reducible apply State.loadRepairs_kept | with_reducible apply State.setFld_kept
    | with_reducible apply State.countDie_kept | with_reducible apply State.updDie_kept | intro _
    | (extract_lets +onlyGivenNames x; first | (clear_value (e : x = _); first | with_reducible refine Kept.byEq s0 e ?_ ?_ | clear e) | skip)
    | split | with_reducible refine Kept.upd ?_

theorem State.beyond_kept {s0 s : State} (hk : Kept s0 s) (die : Nat) (bench : Nat) (rule : Nat) :
    Kept s0 (State.beyond s die bench rule) := by
  unfold State.beyond
  repeat' first
    | with_reducible assumption | with_reducible apply State.setFld_kept | with_reducible apply State.log_kept
    | with_reducible apply State.say_kept

theorem State.lockLoss_kept {s0 s : State} (hk : Kept s0 s) (die : Nat) (pll : Nat) :
    Kept s0 (State.lockLoss s die pll) := by
  unfold State.lockLoss
  repeat' first
    | with_reducible assumption | with_reducible apply State.setFld_kept | with_reducible apply State.satFld_kept
    | with_reducible apply State.unitFailed_kept | with_reducible apply State.beyond_kept | intro _
    | (extract_lets +onlyGivenNames x; first | (clear_value (e : x = _); first | with_reducible refine Kept.byEq s0 e ?_ ?_ | clear e) | skip)
    | split | with_reducible refine Kept.upd ?_

theorem State.envelopeFault_kept {s0 s : State} (hk : Kept s0 s) (stack : Option Nat) :
    Kept s0 (State.envelopeFault s stack) := by
  unfold State.envelopeFault
  repeat' first
    | with_reducible assumption | with_reducible apply State.setFld_kept | with_reducible apply State.say_kept
    | with_reducible apply State.unitFailed_kept | with_reducible apply State.beyond_kept | intro _
    | (extract_lets +onlyGivenNames x; first | (clear_value (e : x = _); first | with_reducible refine Kept.byEq s0 e ?_ ?_ | clear e) | skip)
    | split | with_reducible refine Kept.upd ?_

theorem State.window_kept {s0 s : State} (hk : Kept s0 s) (draw : Nat) (perStack : List Nat) :
    Kept s0 (State.window s draw perStack) := by
  unfold State.window
  repeat' first
    | with_reducible assumption | with_reducible apply State.reach_kept | with_reducible apply State.satFld_kept
    | with_reducible apply State.envelopeFault_kept | with_reducible refine Kept.foldl ?_ ?_ | intro _
    | (extract_lets +onlyGivenNames x; first | (clear_value (e : x = _); first | with_reducible refine Kept.byEq s0 e ?_ ?_ | clear e) | skip)
    | split | with_reducible refine Kept.upd ?_

theorem State.thermal_kept {s0 s : State} (hk : Kept s0 s) (cause u : Nat) : Kept s0 (State.thermal s cause u) := by
  unfold State.thermal
  extract_lets +onlyGivenNames j a b
  have ha : Kept s0 a := hk.upd
  have hb : Kept s0 b := by
    unfold b
    with_reducible refine Kept.ite ?_ ?_
    · exact ha
    · with_reducible apply State.setFld_kept
      with_reducible apply State.setFld_kept
      exact ha
  clear_value b
  with_reducible apply State.say_kept
  with_reducible apply State.log_kept
  exact hb

theorem State.lsLoad_kept {s0 s : State} (hk : Kept s0 s) (c : CoreId) (w : Nat) (n : Nat) (dst : Dst) :
    Kept s0 (State.lsLoad s c w n dst) := by
  unfold State.lsLoad
  repeat' first
    | with_reducible assumption | with_reducible apply State.lsRead_kept | with_reducible apply State.post_kept
    | with_reducible apply State.coreFault_kept | intro _
    | (extract_lets +onlyGivenNames x; first | (clear_value (e : x = _); first | with_reducible refine Kept.byEq s0 e ?_ ?_ | with_reducible refine Kept.byEq3 s0 e ?_ ?_ | clear e) | skip)
    | split

theorem State.lsStore_kept {s0 s : State} (hk : Kept s0 s) (c : CoreId) (w : Nat) (n : Nat) (val : Vec) (poison : Bool) :
    Kept s0 (State.lsStore s c w n val poison) := by
  unfold State.lsStore
  repeat' first
    | with_reducible assumption | with_reducible apply State.coreDeadline_kept | with_reducible apply State.lineTouch_kept
    | with_reducible apply State.post_kept | with_reducible apply State.store_kept | with_reducible apply State.coreFault_kept
    | intro _
    | (extract_lets +onlyGivenNames x; first | (clear_value (e : x = _); first | with_reducible refine Kept.byEq s0 e ?_ ?_ | with_reducible refine Kept.byEq2 s0 e ?_ ?_ | clear e) | skip)
    | split

theorem State.ldvEff_kept {s0 s : State} (hk : Kept s0 s) (c : CoreId) (w : Nat) :
    Kept s0 (State.ldvEff s c w) := by
  unfold State.ldvEff
  repeat' first
    | with_reducible assumption | with_reducible apply State.lsLoad_kept

theorem State.ldsEff_kept {s0 s : State} (hk : Kept s0 s) (c : CoreId) (w : Nat) :
    Kept s0 (State.ldsEff s c w) := by
  unfold State.ldsEff
  repeat' first
    | with_reducible assumption | with_reducible apply State.lsLoad_kept

theorem State.stvEff_kept {s0 s : State} (hk : Kept s0 s) (c : CoreId) (w : Nat) :
    Kept s0 (State.stvEff s c w) := by
  unfold State.stvEff
  repeat' first
    | with_reducible assumption | with_reducible apply State.lsStore_kept | intro _
    | (extract_lets +onlyGivenNames x; first | (clear_value (e : x = _); first | with_reducible refine Kept.byEq s0 e ?_ ?_ | clear e) | skip)

theorem State.stsEff_kept {s0 s : State} (hk : Kept s0 s) (c : CoreId) (w : Nat) :
    Kept s0 (State.stsEff s c w) := by
  unfold State.stsEff
  repeat' first
    | with_reducible assumption | with_reducible apply State.lsStore_kept | intro _
    | (extract_lets +onlyGivenNames x; first | (clear_value (e : x = _); first | with_reducible refine Kept.byEq s0 e ?_ ?_ | clear e) | skip)

theorem State.tfillEff_kept {s0 s : State} (hk : Kept s0 s) (c : CoreId) (w : Nat) :
    Kept s0 (State.tfillEff s c w) := by
  unfold State.tfillEff
  repeat' first
    | with_reducible assumption | with_reducible apply State.setCore_kept | with_reducible apply State.countCore_kept
    | with_reducible apply State.coreDeadline_kept | intro _
    | (extract_lets +onlyGivenNames x; first | (clear_value (e : x = _); first | with_reducible refine Kept.byEq s0 e ?_ ?_ | clear e) | skip)
    | split | with_reducible refine Kept.upd ?_

theorem State.fillDone_kept {s0 s : State} (hk : Kept s0 s) (c : CoreId) (half : Nat) :
    Kept s0 (State.fillDone s c half) := by
  unfold State.fillDone
  repeat' first
    | with_reducible assumption | with_reducible apply State.setCore_kept | with_reducible apply State.xread_kept
    | with_reducible apply State.updCore_kept | intro _
    | (extract_lets +onlyGivenNames x; first | (clear_value (e : x = _); first | with_reducible refine Kept.byEq s0 e ?_ ?_ | with_reducible refine Kept.byEq4 s0 e ?_ ?_ | clear e) | skip)
    | split | with_reducible refine Kept.pair4 (by assumption) ?_ | with_reducible refine Kept.upd ?_

theorem State.waituEff_kept {s0 s : State} (hk : Kept s0 s) (c : CoreId) (w : Nat) :
    Kept s0 (State.waituEff s c w) := by
  unfold State.waituEff
  repeat' first
    | with_reducible assumption | with_reducible apply State.updCore_kept | intro _ | split | with_reducible refine Kept.upd ?_

theorem State.deadlineEff_kept {s0 s : State} (hk : Kept s0 s) (c : CoreId) (w : Nat) :
    Kept s0 (State.deadlineEff s c w) := by
  unfold State.deadlineEff
  repeat' first
    | with_reducible assumption | with_reducible apply State.countCore_kept | with_reducible apply State.updCore_kept | intro _
    | with_reducible refine Kept.upd ?_

theorem State.ecloseEff_kept {s0 s : State} (hk : Kept s0 s) (c : CoreId) :
    Kept s0 (State.ecloseEff s c) := by
  unfold State.ecloseEff
  repeat' first
    | with_reducible assumption | with_reducible apply State.setCore_kept | with_reducible apply State.updBench_kept | intro _
    | (extract_lets +onlyGivenNames x; first | (clear_value (e : x = _); first | with_reducible refine Kept.byEq s0 e ?_ ?_ | clear e) | skip)
    | split | with_reducible refine Kept.upd ?_

theorem State.segendEff_kept {s0 s : State} (hk : Kept s0 s) (c : CoreId) :
    Kept s0 (State.segendEff s c) := by
  unfold State.segendEff
  repeat' first
    | with_reducible assumption | with_reducible apply State.coreFault_kept | with_reducible apply State.updCore_kept | intro _
    | split | with_reducible refine Kept.upd ?_

theorem State.pluckEff_kept {s0 s : State} (hk : Kept s0 s) (c : CoreId) (w : Nat) :
    Kept s0 (State.pluckEff s c w) := by
  unfold State.pluckEff
  repeat' first
    | with_reducible assumption | with_reducible apply State.countCore_kept | with_reducible apply State.updDie_kept | intro _
    | (extract_lets +onlyGivenNames x; first | (clear_value (e : x = _); first | with_reducible refine Kept.byEq s0 e ?_ ?_ | clear e) | skip)
    | split | with_reducible refine Kept.upd ?_

theorem State.parkEff_kept {s0 s : State} (hk : Kept s0 s) (c : CoreId) :
    Kept s0 (State.parkEff s c) := by
  unfold State.parkEff
  repeat' first
    | with_reducible assumption | with_reducible apply State.countCore_kept | with_reducible apply State.updCore_kept
    | with_reducible apply State.updBench_kept | with_reducible apply State.tryPark_kept | intro _
    | with_reducible refine Kept.upd ?_

end Sys2Proof.Machine
end

