-- ==== Sys2Proof/Laws/KeptMove.lean ====
section
/-!
SUPPORT. What the operations of descriptors, elastic regions and hubs keep (`Kept`).
-/
set_option linter.tactic.unusedName false
namespace Sys2Proof.Machine

theorem State.sideRead_kept {s0 s : State} (hk : Kept s0 s) (m : Mover) (loc : Bool) (a : Nat) (n : Nat) :
    Kept s0 (State.sideRead s m loc a n).2.2.2 := by
  show Kept4 s0 _
  unfold State.sideRead
  repeat' first
    | with_reducible assumption | with_reducible apply State.loadNat_kept | with_reducible apply State.xread_kept | intro _
    | (extract_lets +onlyGivenNames x; first | (clear_value (e : x = _); first | with_reducible refine Kept.byEq s0 e ?_ ?_ | with_reducible refine Kept.byEq3 s0 e ?_ ?_ | with_reducible refine Kept.byEq4 s0 e ?_ ?_ | clear e) | skip)
    | split | with_reducible refine Kept.pair3 (by assumption) ?_ | with_reducible refine Kept.pair4 (by assumption) ?_
    | with_reducible refine Kept3.mk ?_ | with_reducible refine Kept3.of ?_ | with_reducible refine Kept4.mk ?_
    | with_reducible refine Kept4.of ?_ | with_reducible refine Kept.upd ?_

theorem State.destKey_kept {s0 s : State} (hk : Kept s0 s) (m : Mover) (loc : Bool) (a : Nat) :
    Kept s0 (State.destKey s m loc a).2 := by
  show Kept2 s0 _
  unfold State.destKey
  repeat' first
    | with_reducible assumption | with_reducible apply State.translate_kept | intro _
    | (extract_lets +onlyGivenNames x; first | (clear_value (e : x = _); first | with_reducible refine Kept.byEq s0 e ?_ ?_ | with_reducible refine Kept.byEq2 s0 e ?_ ?_ | clear e) | skip)
    | split | with_reducible refine Kept.pair2 (by assumption) ?_ | with_reducible refine Kept2.mk ?_
    | with_reducible refine Kept2.of ?_ | with_reducible refine Kept.upd ?_

theorem State.planeRead_kept {s0 s : State} (hk : Kept s0 s) (m : Mover) (loc : Bool) (base : Nat) (i : Nat) (w : Nat) :
    Kept s0 (State.planeRead s m loc base i w).2.2.2 := by
  show Kept4 s0 _
  unfold State.planeRead
  repeat' first
    | with_reducible assumption | with_reducible apply State.sideRead_kept | intro _
    | (extract_lets +onlyGivenNames x; first | (clear_value (e : x = _); first | with_reducible refine Kept.byEq s0 e ?_ ?_ | with_reducible refine Kept.byEq4 s0 e ?_ ?_ | clear e) | skip)
    | with_reducible refine Kept4.mk ?_ | with_reducible refine Kept4.of ?_

theorem State.collide_kept {s0 s : State} (hk : Kept s0 s) (c : CoreId) (line : Nat) :
    Kept s0 (State.collide s c line) := by
  unfold State.collide
  repeat' first
    | with_reducible assumption | with_reducible apply State.updCore_kept | with_reducible apply State.countCore_kept
    | with_reducible apply State.coreDeadline_kept | intro _ | with_reducible refine Kept.upd ?_

theorem State.landAt_kept {s0 s : State} (hk : Kept s0 s) (c : CoreId) (line : Nat) (deadline : Option Nat) (write : State → State)
    (hw : ∀ x, Kept s0 x → Kept s0 (write x)) : Kept s0 (State.landAt s c line deadline write) := by
  unfold State.landAt
  split
  · exact State.collide_kept hk _ _
  · extract_lets +onlyGivenNames w
    have h1 : Kept s0 w := hw _ hk
    clear_value w
    split
    · exact State.updCore_kept h1 _ _
    · exact h1

theorem State.drainLine_kept {s0 s : State} (hk : Kept s0 s) (c : CoreId) : Kept s0 (State.drainLine s c) := by
  unfold State.drainLine
  extract_lets +onlyGivenNames x
  clear_value x
  split
  · exact hk
  · extract_lets +onlyGivenNames a b late hit t
    have hb : Kept s0 b := State.updCore_kept (State.reach_kept hk _) _ _
    have ht : Kept s0 t := State.landAt_kept hb _ _ _ _ fun x hx => State.store_kept hx _ _ _
    clear_value t
    split
    · exact State.coreDeadline_kept ht _
    · exact ht

theorem State.drainAll_kept {s0 s : State} (hk : Kept s0 s) (c : CoreId) :
    Kept s0 (State.drainAll s c) := by
  unfold State.drainAll
  repeat' first
    | with_reducible assumption | with_reducible apply State.drainLine_kept | with_reducible refine Kept.foldl ?_ ?_ | intro _

theorem State.putRuns_kept {s0 s : State} (hk : Kept s0 s) (key : Nat → Nat) (rs : List (Nat × List Byte × Bool)) :
    Kept s0 (State.putRuns s key rs) := by
  unfold State.putRuns
  repeat' first
    | with_reducible assumption | with_reducible apply State.store_kept | with_reducible apply State.poisonRange_kept
    | with_reducible refine Kept.foldl ?_ ?_ | with_reducible refine Kept.foldl2 ?_ ?_ | with_reducible refine Kept2.foldl ?_ ?_
    | intro _
    | (extract_lets +onlyGivenNames x; first | (clear_value (e : x = _); first | with_reducible refine Kept.byEq s0 e ?_ ?_ | with_reducible refine Kept.byEq2 s0 e ?_ ?_ | clear e) | skip)
    | split | with_reducible refine Kept2.mk ?_ | with_reducible refine Kept2.of ?_

theorem State.landLine_kept {s0 s : State} (hk : Kept s0 s) (key0 : Nat) (addr0 : Nat) (st : NMap (Nat × Bool)) (deadline : Option Nat) :
    Kept s0 (State.landLine s key0 addr0 st deadline) := by
  unfold State.landLine
  extract_lets +onlyGivenNames z key write
  have hw : ∀ x, Kept s0 x → Kept s0 (write x) := fun x hx => Kept.foldl hx fun _ _ hy => State.putRuns_kept hy _ _
  clear_value write
  split
  · exact hw _ hk
  · exact State.landAt_kept (State.drainAll_kept hk _) _ _ _ _ hw

theorem Moved.land_kept {s0 : State} {q : Moved} (hk : Kept s0 q.st) (deadline : Option Nat) : Kept s0 (q.land deadline) := by
  unfold Moved.land
  exact Kept.foldl hk fun _ _ hx => State.landLine_kept hx _ _ _ _

theorem State.poisonStage_kept {s0 s : State} (hk : Kept s0 s) (m : Mover) (loc : Bool) (st : NMap (Nat × Bool)) :
    Kept s0 (State.poisonStage s m loc st) := by
  unfold State.poisonStage
  repeat' first
    | with_reducible assumption | with_reducible apply State.destKey_kept | with_reducible apply State.poisonRange_kept
    | with_reducible refine Kept.foldl ?_ ?_ | with_reducible refine Kept.foldl2 ?_ ?_ | with_reducible refine Kept2.foldl ?_ ?_
    | intro _
    | (extract_lets +onlyGivenNames x; first | (clear_value (e : x = _); first | with_reducible refine Kept.byEq s0 e ?_ ?_ | with_reducible refine Kept.byEq2 s0 e ?_ ?_ | clear e) | skip)
    | split | with_reducible refine Kept.pair2 (by assumption) ?_ | with_reducible refine Kept2.mk ?_
    | with_reducible refine Kept2.of ?_ | with_reducible refine Kept.upd ?_

theorem Moved.elem_kept {s0 : State} {q : Moved} (hk : Kept s0 q.st) (m : Mover) (d : TDesc) (dry : Bool) (p : List Nat) :
    Kept s0 (q.elem m d dry p).2.2.2.st := by
  unfold Moved.elem
  extract_lets +onlyGivenNames w pad
  split
  · exact hk
  · split
    · exact hk
    · extract_lets +onlyGivenNames raw idx q2 x
      have h2 : Kept s0 q2.st := by
        unfold q2; split <;> exact hk
      clear_value q2 x idx raw
      generalize hr : (if d.slay = 0 then _ else _ : Option (Nat × Nat) × Nat × Bool × State) = r
      have hr : Kept s0 r.2.2.2 := by
        subst hr; split
        · exact State.sideRead_kept h2 _ _ _ _
        · exact State.planeRead_kept (State.planeRead_kept (State.planeRead_kept h2 _ _ _ _ _) _ _ _ _ _) _ _ _ _ _
      extract_lets +onlyGivenNames r2
      have hr2 : Kept s0 r2.2.2.2 := hr
      clear_value r2
      split
      · exact hr2
      · split
        · extract_lets +onlyGivenNames k
          have hkk : Kept s0 k.2.2.2 := State.sideRead_kept hr2 _ _ _ _
          clear_value k
          split <;> exact hkk
        · exact hr2

theorem Moved.touch_kept {s0 : State} {q : Moved} (hk : Kept s0 q.st) (m : Mover) (d : TDesc) (a : Nat) :
    Kept s0 (q.touch m d a).st := by
  unfold Moved.touch
  split
  · exact hk
  · extract_lets +onlyGivenNames r
    have hr : Kept s0 r.2 := State.destKey_kept hk _ _ _
    clear_value r
    split <;> exact hr

theorem Moved.fields_kept {s0 : State} {q : Moved} (hk : Kept s0 q.st) (m : Mover) (d : TDesc) (dry : Bool) (fs : List Field) :
    Kept s0 (q.fields m d dry fs).st := by
  unfold Moved.fields
  refine Kept.foldlP (fun q : Moved => q.st) hk fun x f hx => ?_
  extract_lets +onlyGivenNames a q2
  have h2 : Kept s0 q2.st := by
    unfold q2; clear_value a; split
    · exact hx
    · exact Kept.foldlP (fun q : Moved => q.st) hx fun y _ hy => Moved.touch_kept hy _ _ _
  clear_value q2
  split <;> exact h2

theorem Moved.put_kept {s0 : State} {q : Moved} (hk : Kept s0 q.st) (m : Mover) (d : TDesc) (dry : Bool) (p : List Nat) :
    Kept s0 (q.put m d dry p).st := by
  unfold Moved.put
  have h := Moved.elem_kept hk m d dry p
  generalize q.elem m d dry p = e at h
  obtain ⟨v, sc, bad, q⟩ := e
  dsimp -zeta only at h ⊢
  split
  · exact h
  · extract_lets +onlyGivenNames x data scale
    exact Moved.fields_kept h _ _ _ _

theorem Moved.unit_kept {s0 : State} {q : Moved} (hk : Kept s0 q.st) (m : Mover) (d : TDesc) (dry : Bool) (u : List Nat) :
    Kept s0 (q.unit m d dry u).st := by
  unfold Moved.unit
  extract_lets +onlyGivenNames off a sa w kl mx feed one q2
  have hone : ∀ (x : Moved) r kk, Kept s0 x.st → Kept s0 (one x r kk).st := by
    intro x r kk hx
    unfold one
    have h := Moved.elem_kept hx m d dry ((if feed then [kl * d.line + kk, r] else [r, kl * d.line + kk]) ++ u)
    generalize x.elem m d dry _ = e at h
    obtain ⟨v, sc, bad, y⟩ := e
    dsimp -zeta only at h ⊢
    split
    · exact h
    · exact Moved.fields_kept h _ _ _ _
  have h2 : Kept s0 q2.st := Moved.fields_kept hk _ _ _ _
  clear_value one q2
  exact Kept.foldlP (fun q : Moved => q.st) h2 fun x _ hx => Kept.foldlP (fun q : Moved => q.st) hx fun y _ hy => hone _ _ _ hy

theorem State.gather_kept {s0 s : State} (hk : Kept s0 s) (m : Mover) (d : TDesc) (dry : Bool) : Kept s0 (s.gather m d dry).st := by
  unfold State.gather
  extract_lets +onlyGivenNames sizes
  refine Kept.foldlP (fun q : Moved => q.st) hk fun x a hx => ?_
  split
  · exact Moved.unit_kept hx _ _ _ _
  · exact Moved.put_kept hx _ _ _ _

theorem State.poisonDest_kept {s0 s : State} (hk : Kept s0 s) (m : Mover) (d : TDesc) : Kept s0 (State.poisonDest s m d) := by
  unfold State.poisonDest
  exact State.poisonStage_kept hk _ _ _

theorem State.runDesc_kept {s0 s : State} (hk : Kept s0 s) (m : Mover) (d : TDesc) (late : Bool) :
    Kept s0 (State.runDesc s m d late).2.2 := by
  unfold State.runDesc
  extract_lets +onlyGivenNames q q2 s2
  have hq : Kept s0 q.st := State.gather_kept hk _ _ _
  have h2 : Kept s0 q2.st := by
    unfold q2; split <;> exact hq
  have hs : Kept s0 s2 := Moved.land_kept h2 _
  clear_value q2 s2
  split
  · exact State.poisonDest_kept hs _ _
  · exact hs

theorem State.lateDest_kept {s0 s : State} (hk : Kept s0 s) (m : Mover) (rec : BitVec 1536) :
    Kept s0 (State.lateDest s m rec) := by
  unfold State.lateDest
  repeat' first
    | with_reducible assumption | with_reducible apply State.poisonDest_kept

theorem State.descFault_kept {s0 s : State} (hk : Kept s0 s) (c : CoreId) (code : Nat) (side : Nat) (addr : Nat) :
    Kept s0 (State.descFault s c code side addr) := by
  unfold State.descFault
  repeat' first
    | with_reducible assumption | with_reducible apply State.countCore_kept | with_reducible apply State.setReg_kept
    | with_reducible apply State.updCore_kept | intro _
    | (extract_lets +onlyGivenNames x; first | (clear_value (e : x = _); first | with_reducible refine Kept.byEq s0 e ?_ ?_ | clear e) | skip)
    | split | with_reducible refine Kept.upd ?_

theorem State.dissEff_kept {s0 s : State} (hk : Kept s0 s) (c : CoreId) (w : Nat) :
    Kept s0 (State.dissEff s c w) := by
  unfold State.dissEff
  repeat' first
    | with_reducible assumption | with_reducible apply State.coreDeadline_kept | with_reducible apply State.coreFault_kept
    | with_reducible apply State.lsRead_kept | with_reducible apply State.check_kept | with_reducible apply State.countCore_kept
    | with_reducible apply State.descFault_kept | with_reducible apply State.poisonDest_kept
    | with_reducible apply State.updCore_kept | intro _
    | (extract_lets +onlyGivenNames x; first | (clear_value (e : x = _); first | with_reducible refine Kept.byEq s0 e ?_ ?_ | with_reducible refine Kept.byEq2 s0 e ?_ ?_ | with_reducible refine Kept.byEq3 s0 e ?_ ?_ | clear e) | skip)
    | split | with_reducible refine Kept.upd ?_

theorem State.coreDescDone_kept {s0 s : State} (hk : Kept s0 s) (c : CoreId) (i : Nat) :
    Kept s0 (State.coreDescDone s c i) := by
  unfold State.coreDescDone
  repeat' first
    | with_reducible assumption | with_reducible apply State.drainAll_kept | with_reducible apply State.updCore_kept
    | with_reducible apply State.hubDeadline_kept | with_reducible apply State.runDesc_kept
    | with_reducible apply State.countCore_kept | with_reducible apply State.descFault_kept
    | with_reducible apply State.coreDeadline_kept | with_reducible apply State.tryPark_kept | intro _
    | (extract_lets +onlyGivenNames x; first | (clear_value (e : x = _); first | with_reducible refine Kept.byEq s0 e ?_ ?_ | with_reducible refine Kept.byEq3 s0 e ?_ ?_ | clear e) | skip)
    | split | with_reducible refine Kept.pair3 (by assumption) ?_ | with_reducible refine Kept.upd ?_

theorem State.lateDesc_kept {s0 s : State} (hk : Kept s0 s) (c : CoreId) (i : Nat) :
    Kept s0 (State.lateDesc s c i) := by
  unfold State.lateDesc
  repeat' first
    | with_reducible assumption | with_reducible apply State.updCore_kept | with_reducible apply State.lateDest_kept
    | with_reducible apply State.coreDeadline_kept | intro _
    | (extract_lets +onlyGivenNames x; first | (clear_value (e : x = _); first | with_reducible refine Kept.byEq s0 e ?_ ?_ | clear e) | skip)
    | split | with_reducible refine Kept.upd ?_

theorem State.lateDescs_kept {s0 s : State} (hk : Kept s0 s) (c : CoreId) (all : Bool) :
    Kept s0 (State.lateDescs s c all) := by
  unfold State.lateDescs
  repeat' first
    | with_reducible assumption | with_reducible apply State.lateDesc_kept | with_reducible refine Kept.foldl ?_ ?_ | intro _
    | split | with_reducible refine Kept.upd ?_

theorem State.landingWrite_kept {s0 s : State} (hk : Kept s0 s) (c : CoreId) (arr : Option (Fin 1024 × Vec × BitVec 26 × Bool)) :
    Kept s0 (State.landingWrite s c arr) := by
  unfold State.landingWrite
  repeat' first
    | with_reducible assumption | with_reducible apply State.updCore_kept | with_reducible apply State.drainLine_kept | intro _
    | (extract_lets +onlyGivenNames x; first | (clear_value (e : x = _); first | with_reducible refine Kept.byEq s0 e ?_ ?_ | clear e) | skip)
    | split | with_reducible refine Kept.upd ?_

theorem State.landingDeadline_kept {s0 s : State} (hk : Kept s0 s) (c : CoreId) (line : Nat) :
    Kept s0 (State.landingDeadline s c line) := by
  unfold State.landingDeadline
  repeat' first
    | with_reducible assumption | with_reducible apply State.reach_kept | with_reducible apply State.updCore_kept
    | with_reducible apply State.lateDescs_kept | intro _
    | (extract_lets +onlyGivenNames x; first | (clear_value (e : x = _); first | with_reducible refine Kept.byEq s0 e ?_ ?_ | clear e) | skip)
    | split | with_reducible refine Kept.upd ?_

theorem State.partLookup_kept {s0 s : State} (hk : Kept s0 s) (b : BenchId) (line : Nat) :
    Kept s0 (State.partLookup s b line).2 := by
  show Kept2 s0 _
  unfold State.partLookup
  repeat' first
    | with_reducible assumption | with_reducible apply State.countBench_kept | with_reducible apply State.updBench_kept | intro _
    | (extract_lets +onlyGivenNames x; first | (clear_value (e : x = _); first | with_reducible refine Kept.byEq s0 e ?_ ?_ | with_reducible refine Kept.byEq2 s0 e ?_ ?_ | clear e) | skip)
    | split | with_reducible refine Kept2.mk ?_ | with_reducible refine Kept2.of ?_ | with_reducible refine Kept.upd ?_

theorem State.partFill_kept {s0 s : State} (hk : Kept s0 s) (b : BenchId) (line : Nat) (v : Vec) :
    Kept s0 (State.partFill s b line v) := by
  unfold State.partFill
  repeat' first
    | with_reducible assumption | with_reducible apply State.updBench_kept | intro _
    | (extract_lets +onlyGivenNames x; first | (clear_value (e : x = _); first | with_reducible refine Kept.byEq s0 e ?_ ?_ | clear e) | skip)
    | split | with_reducible refine Kept.upd ?_

theorem State.miss_kept {s0 s : State} (hk : Kept s0 s) (b : BenchId) (line : Nat) (key : Nat) (who : Nat) :
    Kept s0 (State.miss s b line key who) := by
  unfold State.miss
  repeat' first
    | with_reducible assumption | with_reducible apply State.updBench_kept | with_reducible apply State.updHub_kept | intro _
    | split | with_reducible refine Kept.upd ?_

theorem State.demandMiss_kept {s0 s : State} (hk : Kept s0 s) (b : BenchId) (line : Nat) (key : Nat) (who : Nat) :
    Kept s0 (State.demandMiss s b line key who) := by
  unfold State.demandMiss
  repeat' first
    | with_reducible assumption | with_reducible apply State.miss_kept | with_reducible apply State.countBench_kept | split

theorem State.elasticErr_kept {s0 s : State} (hk : Kept s0 s) (c : CoreId) (code : Nat) (addr : Nat) (regs : List Nat) (mem : List Nat) :
    Kept s0 (State.elasticErr s c code addr regs mem) := by
  unfold State.elasticErr
  repeat' first
    | with_reducible assumption | with_reducible apply State.descFault_kept | with_reducible apply State.updCore_kept
    | with_reducible refine Kept.foldl ?_ ?_ | intro _ | with_reducible refine Kept.upd ?_

theorem State.elasticKey_kept {s0 s : State} (hk : Kept s0 s) (b : BenchId) (a : Nat) (write : Bool) :
    Kept s0 (State.elasticKey s b a write).2 := by
  show Kept2 s0 _
  unfold State.elasticKey
  generalize (0x800000000000 : Nat) = big
  repeat' first
    | with_reducible assumption | with_reducible apply State.translate_kept | intro _
    | (extract_lets +onlyGivenNames x; first | (clear_value (e : x = _); first | with_reducible refine Kept.byEq s0 e ?_ ?_ | with_reducible refine Kept.byEq2 s0 e ?_ ?_ | clear e) | skip)
    | split | with_reducible refine Kept.pair2 (by assumption) ?_ | with_reducible refine Kept2.mk ?_
    | with_reducible refine Kept2.of ?_ | with_reducible refine Kept.upd ?_

theorem State.noteMiss_kept {s0 s : State} (hk : Kept s0 s) (b : BenchId) (line : Nat) :
    Kept s0 (State.noteMiss s b line) := by
  unfold State.noteMiss
  repeat' first
    | with_reducible assumption | with_reducible apply State.updBench_kept | intro _ | with_reducible refine Kept.upd ?_

theorem State.ldcEff_kept {s0 s : State} (hk : Kept s0 s) (c : CoreId) (w : Nat) : Kept s0 (State.ldcEff s c w) := by
  unfold State.ldcEff
  generalize (0x800000000000 : Nat) = big
  extract_lets +onlyGivenNames x b a line bad r
  have hr : Kept s0 r.2 := State.elasticKey_kept hk _ _ _
  clear_value r a
  split
  · exact State.elasticErr_kept hr _ _ _ _ _
  · extract_lets +onlyGivenNames s1 l1 hold
    have hh : ∀ s v p, Kept s0 s → Kept s0 (hold s v p) := fun _ _ _ h => State.updCore_kept h _ _
    have h1 : Kept s0 s1 := hr
    clear_value hold s1 l1
    split
    · extract_lets +onlyGivenNames q
      have hq : Kept s0 q.2 := State.checkWords_kept h1 _ _ _
      clear_value q
      exact hh _ _ _ (State.countCore_kept (State.updCore_kept hq _ _) _ _ _)
    · extract_lets +onlyGivenNames s2
      have h2 : Kept s0 s2 := State.updCore_kept (State.countCore_kept h1 _ _ _) _ _
      clear_value s2
      split
      · exact hh _ _ _ (State.loadNat_kept h2 _ _)
      · have hp : Kept s0 (s2.partLookup b line).2 := State.partLookup_kept h2 b line
        extract_lets +onlyGivenNames p
        clear_value (e : p = _)
        rw [← e] at hp
        clear e
        split
        · exact hh _ _ _ hp
        · exact hh _ _ _ (State.demandMiss_kept (State.noteMiss_kept hp _ _) _ _ _ _)

theorem State.stcEff_kept {s0 s : State} (hk : Kept s0 s) (c : CoreId) (w : Nat) :
    Kept s0 (State.stcEff s c w) := by
  unfold State.stcEff
  repeat' first
    | with_reducible assumption | with_reducible apply State.coreDeadline_kept | with_reducible apply State.elasticKey_kept
    | with_reducible apply State.elasticErr_kept | with_reducible apply State.updCore_kept | intro _
    | (extract_lets +onlyGivenNames x; first | (clear_value (e : x = _); first | with_reducible refine Kept.byEq s0 e ?_ ?_ | with_reducible refine Kept.byEq2 s0 e ?_ ?_ | clear e) | skip)
    | split | with_reducible refine Kept.pair2 (by assumption) ?_ | with_reducible refine Kept.upd ?_

theorem State.l1Put_kept {s0 s : State} (hk : Kept s0 s) (c : CoreId) (line : Nat) (v : Vec) :
    Kept s0 (State.l1Put s c line v) := by
  unfold State.l1Put
  repeat' first
    | with_reducible assumption | with_reducible apply State.updCore_kept | intro _ | with_reducible refine Kept.upd ?_

theorem State.cacheDone_kept {s0 s : State} (hk : Kept s0 s) (c : CoreId) :
    Kept s0 (State.cacheDone s c) := by
  unfold State.cacheDone
  repeat' first
    | with_reducible assumption | with_reducible apply State.load_kept | with_reducible apply State.reach_kept
    | with_reducible apply State.elasticErr_kept | with_reducible apply State.updCore_kept | with_reducible apply State.store_kept
    | with_reducible apply State.updBench_kept | with_reducible apply State.l1Put_kept
    | with_reducible apply State.applyBefore_kept | with_reducible apply State.demandMiss_kept | intro _
    | (extract_lets +onlyGivenNames x; first | (clear_value (e : x = _); first | with_reducible refine Kept.byEq s0 e ?_ ?_ | with_reducible refine Kept.byEq2 s0 e ?_ ?_ | with_reducible refine Kept.byEq3 s0 e ?_ ?_ | clear e) | skip)
    | split | with_reducible refine Kept.pair2 (by assumption) ?_ | with_reducible refine Kept.pair3 (by assumption) ?_
    | with_reducible refine Kept.upd ?_

theorem State.quietRead_kept {s0 s : State} (hk : Kept s0 s) (k : Nat) :
    Kept s0 (State.quietRead s k).2 := by
  show Kept2 s0 _
  unfold State.quietRead
  generalize (0x800000000000 : Nat) = big
  repeat' first
    | with_reducible assumption | with_reducible apply State.drew_kept | intro _
    | (extract_lets +onlyGivenNames x; first | (clear_value (e : x = _); first | with_reducible refine Kept.byEq s0 e ?_ ?_ | with_reducible refine Kept.byEq2 s0 e ?_ ?_ | clear e) | skip)
    | split | with_reducible refine Kept.pair2 (by assumption) ?_ | with_reducible refine Kept2.mk ?_
    | with_reducible refine Kept2.of ?_ | with_reducible refine Kept.upd ?_

theorem State.fillLine_kept {s0 s : State} (hk : Kept s0 s) (b : BenchId) (line : Nat) :
    Kept s0 (State.fillLine s b line) := by
  unfold State.fillLine
  repeat' first
    | with_reducible assumption | with_reducible apply State.updBench_kept | with_reducible apply State.quietRead_kept
    | with_reducible apply State.partFill_kept | with_reducible apply State.l1Put_kept | with_reducible apply State.loadNat_kept
    | with_reducible apply State.updCore_kept | with_reducible apply State.load_kept | intro _
    | (extract_lets +onlyGivenNames x; first | (clear_value (e : x = _); first | with_reducible refine Kept.byEq s0 e ?_ ?_ | with_reducible refine Kept.byEq2 s0 e ?_ ?_ | with_reducible refine Kept.byEq3 s0 e ?_ ?_ | clear e) | skip)
    | split | with_reducible refine Kept.pair2 (by assumption) ?_ | with_reducible refine Kept.pair3 (by assumption) ?_
    | with_reducible refine Kept.upd ?_

theorem State.serveMiss_kept {s0 s : State} (hk : Kept s0 s) (h : Hub) (ch : Nat) (die : Die) :
    Kept s0 (State.serveMiss s h ch die) := by
  unfold State.serveMiss
  repeat' first
    | with_reducible assumption | with_reducible apply State.updHub_kept | with_reducible apply State.fillLine_kept | intro _
    | (extract_lets +onlyGivenNames x; first | (clear_value (e : x = _); first | with_reducible refine Kept.byEq s0 e ?_ ?_ | clear e) | skip)
    | split | with_reducible refine Kept.upd ?_

theorem State.fetchAhead_kept {s0 s : State} (hk : Kept s0 s) (b : BenchId) (core : Option (Fin 64)) (from' next : Nat) :
    Kept s0 (State.fetchAhead s b core from' next) := by
  have ht : ∀ d k w, Kept s0 d → Kept s0 (State.fetchAhead.take s b next d k w) := by
    intro d k w hd
    unfold State.fetchAhead.take
    split
    · exact hd
    · split
      · exact hk
      · exact State.countBench_kept (State.miss_kept hk _ _ _ _) _ _ _ _
  unfold State.fetchAhead
  generalize (0x800000000000 : Nat) = big
  extract_lets +onlyGivenNames drop z
  have hd : Kept s0 drop := State.countBench_kept hk _ _ _ _
  clear_value drop z
  split
  · exact hd
  · extract_lets +onlyGivenNames who
    clear_value who
    split
    · extract_lets +onlyGivenNames c
      clear_value c
      with_reducible refine Kept.ite hk ?_
      with_reducible refine Kept.ite ?_ ?_
      · with_reducible refine Kept.ite hd ?_
        extract_lets +onlyGivenNames q
        have hq : Kept s0 q.2 := State.quietRead_kept hk _
        clear_value q
        split
        · exact State.countBench_kept (State.l1Put_kept hq _ _ _) _ _ _ _
        · exact hq
      · split
        · exact State.countBench_kept (State.l1Put_kept hk _ _ _) _ _ _ _
        · exact ht _ _ _ hd
    · with_reducible refine Kept.ite hd ?_
      with_reducible refine Kept.ite hk ?_
      exact ht _ _ _ hd

theorem State.fetchFour_kept {s0 s : State} (hk : Kept s0 s) (b : BenchId) (core : Option (Fin 64)) (line : Nat) (up : Bool) :
    Kept s0 (State.fetchFour s b core line up) := by
  unfold State.fetchFour
  repeat' first
    | with_reducible assumption | with_reducible apply State.fetchAhead_kept | with_reducible refine Kept.foldl ?_ ?_ | intro _
    | split

theorem State.prefetch_kept {s0 s : State} (hk : Kept s0 s) (b : BenchId) (line : Nat) (up : Bool) :
    Kept s0 (State.prefetch s b line up) := by
  unfold State.prefetch
  repeat' first
    | with_reducible assumption | with_reducible apply State.setBench_kept | with_reducible apply State.fetchFour_kept
    | with_reducible apply State.updCore_kept | with_reducible refine Kept.foldl ?_ ?_ | intro _
    | (extract_lets +onlyGivenNames x; first | (clear_value (e : x = _); first | with_reducible refine Kept.byEq s0 e ?_ ?_ | clear e) | skip)
    | split | with_reducible refine Kept.upd ?_

theorem State.gstrEff_kept {s0 s : State} (hk : Kept s0 s) (c : CoreId) (w : Nat) :
    Kept s0 (State.gstrEff s c w) := by
  unfold State.gstrEff
  repeat' first
    | with_reducible assumption | with_reducible apply State.coreDeadline_kept | with_reducible apply State.elasticErr_kept
    | with_reducible apply State.lsRead_kept | with_reducible apply State.updCore_kept | intro _
    | (extract_lets +onlyGivenNames x; first | (clear_value (e : x = _); first | with_reducible refine Kept.byEq s0 e ?_ ?_ | with_reducible refine Kept.byEq3 s0 e ?_ ?_ | clear e) | skip)
    | split | with_reducible refine Kept.upd ?_

theorem State.gwaitEff_kept {s0 s : State} (hk : Kept s0 s) (c : CoreId) (w : Nat) :
    Kept s0 (State.gwaitEff s c w) := by
  unfold State.gwaitEff
  repeat' first
    | with_reducible assumption | with_reducible apply State.updCore_kept | intro _ | split | with_reducible refine Kept.upd ?_

theorem State.gatherAddr_kept {s0 s : State} (hk : Kept s0 s) (c : CoreId) (g : GStream) (n : Nat) :
    Kept s0 (State.gatherAddr s c g n).2.2.2 := by
  show Kept4 s0 _
  unfold State.gatherAddr
  repeat' first
    | with_reducible assumption | with_reducible apply State.lsRead_kept | intro _
    | (extract_lets +onlyGivenNames x; first | (clear_value (e : x = _); first | with_reducible refine Kept.byEq s0 e ?_ ?_ | with_reducible refine Kept.byEq3 s0 e ?_ ?_ | with_reducible refine Kept.byEq4 s0 e ?_ ?_ | clear e) | skip)
    | split | with_reducible refine Kept3.mk ?_ | with_reducible refine Kept3.of ?_ | with_reducible refine Kept4.mk ?_
    | with_reducible refine Kept4.of ?_

theorem State.gatherIssue_kept {s0 s : State} (hk : Kept s0 s) (c : CoreId) : Kept s0 (State.gatherIssue s c) := by
  unfold State.gatherIssue
  generalize (0x800000000000 : Nat) = big
  extract_lets +onlyGivenNames x b
  with_reducible refine Kept.ite hk ?_
  split
  · exact hk
  · split
    · exact hk
    · extract_lets +onlyGivenNames s1 p s2 line t add
      have h1 : Kept s0 s1 := State.countCore_kept (State.setCore_kept hk _ _) _ _ _
      have hp : Kept s0 p.2.2.2 := State.gatherAddr_kept h1 _ _ _
      have h2 : Kept s0 s2 := by
        unfold s2
        with_reducible exact Kept.ite (State.countCore_kept hp _ _ _) hp
      have ht : Kept s0 t.2 := State.elasticKey_kept h2 _ _ _
      have ha : ∀ s v p k, Kept s0 s → Kept s0 (add s v p k) := fun _ _ _ _ h => State.updCore_kept h _ _
      clear_value add t s2 p
      split
      · exact State.updCore_kept (State.elasticErr_kept ht _ _ _ _ _) _ _
      · with_reducible refine Kept.ite ?_ ?_
        · extract_lets +onlyGivenNames rd
          have hr : Kept s0 rd.2.2 := State.loadNat_kept ht _ _
          clear_value rd
          exact ha _ _ _ _ hr
        · extract_lets +onlyGivenNames q
          have hq : Kept s0 q.2 := State.partLookup_kept ht _ _
          clear_value q
          split
          · exact ha _ _ _ _ hq
          · exact ha _ _ _ _ (State.demandMiss_kept (State.noteMiss_kept hq _ _) _ _ _ _)

theorem State.gatherLand_kept {s0 s : State} (hk : Kept s0 s) (c : CoreId) (i : Nat) : Kept s0 (State.gatherLand s c i) := by
  unfold State.gatherLand
  extract_lets +onlyGivenNames x b
  clear_value x
  split
  · exact hk
  · split
    · exact State.setCore_kept hk _ _
    · split
      · exact hk
      · exact State.demandMiss_kept hk _ _ _ _
    · extract_lets +onlyGivenNames off s1 s2
      have h1 : Kept s0 s1 := State.setCore_kept hk _ _
      have h2 : Kept s0 s2 := by
        unfold s2; clear_value s1; split
        · exact State.collide_kept h1 _ _
        · exact State.store_kept h1 _ _ _
      clear_value s2
      exact State.updCore_kept h2 _ _

theorem State.copyFault_kept {s0 s : State} (hk : Kept s0 s) (h : Hub) (e : Nat) (code : Nat) (side : Nat) (addr : Nat) :
    Kept s0 (State.copyFault s h e code side addr) := by
  unfold State.copyFault
  repeat' first
    | with_reducible assumption | with_reducible apply State.countHub_kept | with_reducible apply State.setReg_kept
    | with_reducible apply State.updHub_kept | with_reducible apply State.hubDeadline_kept | intro _
    | (extract_lets +onlyGivenNames x; first | (clear_value (e : x = _); first | with_reducible refine Kept.byEq s0 e ?_ ?_ | clear e) | skip)
    | split | with_reducible refine Kept.upd ?_

theorem State.requests_kept {s0 s : State} (hk : Kept s0 s) (h : Hub) (d : TDesc) :
    Kept s0 (State.requests s h d).2 := by
  show Kept2 s0 _
  unfold State.requests
  repeat' first
    | with_reducible assumption | with_reducible apply State.translate_kept | with_reducible refine Kept.foldl ?_ ?_
    | with_reducible refine Kept.foldl2 ?_ ?_ | with_reducible refine Kept2.foldl ?_ ?_ | with_reducible refine Kept3.foldl ?_ ?_
    | with_reducible refine Kept4.foldl ?_ ?_ | intro _
    | (extract_lets +onlyGivenNames x; first | (clear_value (e : x = _); first | with_reducible refine Kept.byEq s0 e ?_ ?_ | with_reducible refine Kept.byEq2 s0 e ?_ ?_ | clear e) | skip)
    | split | with_reducible refine Kept.pair2 (by assumption) ?_ | with_reducible refine Kept2.mk ?_
    | with_reducible refine Kept2.of ?_ | with_reducible refine Kept.upd ?_

theorem State.peak_kept {s0 s : State} (hk : Kept s0 s) (h : Hub) :
    Kept s0 (State.peak s h) := by
  unfold State.peak
  repeat' first
    | with_reducible assumption | with_reducible apply State.setFld_kept | intro _
    | (extract_lets +onlyGivenNames x; first | (clear_value (e : x = _); first | with_reducible refine Kept.byEq s0 e ?_ ?_ | clear e) | skip)
    | split

theorem State.issueReq_kept {s0 s : State} (hk : Kept s0 s) (h : Hub) (e : Nat) (g : Engine) :
    Kept s0 (State.issueReq s h e g).2 := by
  show Kept2 s0 _
  unfold State.issueReq
  repeat' first
    | with_reducible assumption | with_reducible apply State.countHub_kept | with_reducible apply State.updHub_kept
    | with_reducible apply State.peak_kept | intro _ | split | with_reducible refine Kept.pair2 (by assumption) ?_
    | with_reducible refine Kept2.mk ?_ | with_reducible refine Kept2.of ?_ | with_reducible refine Kept.upd ?_

theorem State.pump_kept (n : Nat) : ∀ {s0 s : State} (_ : Kept s0 s) (h : Hub) (e : Nat), Kept s0 (State.pump n s h e) := by
  induction n with
  | zero => intro s0 s hk h e; exact hk
  | succ n ih =>
    intro s0 s hk h e
    unfold State.pump
    cases nget? (s.hub h).engines e with
    | none => exact hk
    | some g =>
      dsimp only
      split
      · split
        · exact ih (State.issueReq_kept hk _ _ _) _ _
        · exact State.issueReq_kept hk _ _ _
      · exact hk

theorem State.pumpAll_kept {s0 s : State} (hk : Kept s0 s) (h : Hub) :
    Kept s0 (State.pumpAll s h) := by
  unfold State.pumpAll
  repeat' first
    | with_reducible assumption | with_reducible apply State.pump_kept | with_reducible refine Kept.foldl ?_ ?_ | intro _

theorem State.haulFault_kept {s0 s : State} (hk : Kept s0 s) (h : Hub) (cause : Nat) (report : Bool) :
    Kept s0 (State.haulFault s h cause report) := by
  unfold State.haulFault
  repeat' first
    | with_reducible assumption | with_reducible apply State.countHub_kept | with_reducible apply State.setReg_kept
    | with_reducible apply State.updHub_kept | with_reducible apply State.hubDeadline_kept | intro _
    | (extract_lets +onlyGivenNames x; first | (clear_value (e : x = _); first | with_reducible refine Kept.byEq s0 e ?_ ?_ | clear e) | skip)
    | split | with_reducible refine Kept.upd ?_

theorem State.fenceHit_kept {s0 s : State} (hk : Kept s0 s) (h : Hub) : Kept s0 (State.fenceHit s h).2 := by
  have hj : ∀ n, Kept s0 (State.fenceHit.judge h s n).2 := by
    intro n
    unfold State.fenceHit.judge
    dsimp only
    split
    · exact State.haulFault_kept (State.countHub_kept (State.updHub_kept hk _ _) _ _ _) _ _ _
    · exact State.updHub_kept hk _ _
  unfold State.fenceHit
  dsimp only
  split
  · split
    · exact hk
    · exact hj _
  · exact hj _

theorem State.copyOut_kept {s0 s : State} (hk : Kept s0 s) (h : Hub) (d : TDesc) :
    Kept s0 (State.copyOut s h d).2 := by
  show Kept2 s0 _
  unfold State.copyOut
  repeat' first
    | with_reducible assumption | with_reducible apply State.translate_kept | intro _
    | (extract_lets +onlyGivenNames x; first | (clear_value (e : x = _); first | with_reducible refine Kept.byEq s0 e ?_ ?_ | with_reducible refine Kept.byEq2 s0 e ?_ ?_ | clear e) | skip)
    | split | with_reducible refine Kept.pair2 (by assumption) ?_ | with_reducible refine Kept2.mk ?_
    | with_reducible refine Kept2.of ?_ | with_reducible refine Kept.upd ?_

theorem State.copyStart_kept {s0 s : State} (hk : Kept s0 s) (h : Hub) (e : Fin 16) (entry : Nat) (w : BitVec 1536) :
    Kept s0 (State.copyStart s h e entry w) := by
  have hg : ∀ s, Kept s0 s → Kept s0 (State.copyStart.go h e entry w s) := by
    intro s hk
    unfold State.copyStart.go
    extract_lets +onlyGivenNames d busy code
    clear_value d busy code
    with_reducible refine Kept.ite hk ?_
    with_reducible refine Kept.ite ?_ ?_
    · exact State.poisonDest_kept (State.copyFault_kept hk _ _ _ _ _) _ _
    · with_reducible refine Kept.ite hk ?_
      extract_lets +onlyGivenNames o f s1
      have ho : Kept s0 o.2 := State.copyOut_kept hk _ _
      have h1 : Kept s0 s1 := by
        have hf : Kept s0 f.2 := by
          unfold f; clear_value o; split
          · exact State.fenceHit_kept ho _
          · exact ho
        exact hf
      clear_value s1 f o
      with_reducible refine Kept.ite h1 ?_
      extract_lets +onlyGivenNames r s2
      have h2 : Kept s0 s2 := State.updHub_kept (State.requests_kept h1 _ _) _ _
      clear_value s2 r
      exact State.pump_kept _ h2 _ _
  unfold State.copyStart
  split
  · with_reducible exact Kept.ite (hg _ (State.reach_kept hk _)) hk
  · exact hg _ hk

theorem State.reqDone_kept {s0 s : State} (hk : Kept s0 s) (h : Hub) (tag : Nat) :
    Kept s0 (State.reqDone s h tag) := by
  unfold State.reqDone
  repeat' first
    | with_reducible assumption | with_reducible apply State.updHub_kept | with_reducible apply State.pumpAll_kept | intro _
    | split | with_reducible refine Kept.upd ?_

theorem State.engineDone_kept {s0 s : State} (hk : Kept s0 s) (h : Hub) (e : Nat) :
    Kept s0 (State.engineDone s h e) := by
  unfold State.engineDone
  repeat' first
    | with_reducible assumption | with_reducible apply State.updHub_kept | with_reducible apply State.runDesc_kept
    | with_reducible apply State.copyFault_kept | with_reducible apply State.hubDeadline_kept | intro _
    | (extract_lets +onlyGivenNames x; first | (clear_value (e : x = _); first | with_reducible refine Kept.byEq s0 e ?_ ?_ | with_reducible refine Kept.byEq3 s0 e ?_ ?_ | clear e) | skip)
    | split | with_reducible refine Kept.pair3 (by assumption) ?_ | with_reducible refine Kept.upd ?_

theorem State.lateEngine_kept {s0 s : State} (hk : Kept s0 s) (h : Hub) (e : Nat) :
    Kept s0 (State.lateEngine s h e) := by
  unfold State.lateEngine
  repeat' first
    | with_reducible assumption | with_reducible apply State.updHub_kept | with_reducible apply State.lateDest_kept
    | with_reducible apply State.hubDeadline_kept | intro _ | split | with_reducible refine Kept.upd ?_

theorem State.consumerDeadline_kept {s0 s : State} (hk : Kept s0 s) (a : Nat) :
    Kept s0 (State.consumerDeadline s a) := by
  unfold State.consumerDeadline
  repeat' first
    | with_reducible assumption | with_reducible apply State.hubDeadline_kept | with_reducible apply State.benchDeadline_kept
    | with_reducible apply State.store_kept | with_reducible apply State.coreDeadline_kept | split
    | with_reducible refine Kept.pair2 (by assumption) ?_ | with_reducible refine Kept.upd ?_

theorem State.poisonLong_kept {s0 s : State} (hk : Kept s0 s) (a : Nat) (n : Nat) :
    Kept s0 (State.poisonLong s a n) := by
  unfold State.poisonLong
  repeat' first
    | with_reducible assumption | with_reducible apply State.poisonAt_kept | with_reducible refine Kept.foldl ?_ ?_ | intro _

theorem State.lateEntry_kept {s0 s : State} (hk : Kept s0 s) (i : Nat) (e : LinkEnt) :
    Kept s0 (State.lateEntry s i e) := by
  unfold State.lateEntry
  repeat' first
    | with_reducible assumption | with_reducible apply State.poisonLong_kept | with_reducible apply State.consumerDeadline_kept
    | split | with_reducible refine Kept.upd ?_

theorem State.lateInbound_kept {s0 s : State} (hk : Kept s0 s) (due : LinkEnt → Bool) :
    Kept s0 (State.lateInbound s due) := by
  unfold State.lateInbound
  repeat' first
    | with_reducible assumption | with_reducible apply State.lateEntry_kept | with_reducible refine Kept.foldl ?_ ?_ | intro _
    | split

theorem State.lineDeadline_kept {s0 s : State} (hk : Kept s0 s) (c : CoreId) (line : Nat) :
    Kept s0 (State.lineDeadline s c line) := by
  unfold State.lineDeadline
  repeat' first
    | with_reducible assumption | with_reducible apply State.landingDeadline_kept | with_reducible apply State.reach_kept
    | with_reducible apply State.lateInbound_kept | intro _
    | (extract_lets +onlyGivenNames x; first | (clear_value (e : x = _); first | with_reducible refine Kept.byEq s0 e ?_ ?_ | clear e) | skip)
    | split | with_reducible refine Kept.upd ?_

theorem State.lateTransfers_kept {s0 s : State} (hk : Kept s0 s) :
    Kept s0 (State.lateTransfers s) := by
  unfold State.lateTransfers
  repeat' first
    | with_reducible assumption | with_reducible apply State.lateInbound_kept | with_reducible apply State.lateDescs_kept
    | with_reducible apply State.lateEngine_kept | with_reducible refine Kept.foldl ?_ ?_ | intro _
    | (extract_lets +onlyGivenNames x; first | (clear_value (e : x = _); first | with_reducible refine Kept.byEq s0 e ?_ ?_ | clear e) | skip)
    | split | with_reducible refine Kept.upd ?_

theorem State.dramFault_kept {s0 s : State} (hk : Kept s0 s) (h : Hub) (cause : Nat) (chan : Nat) (sub : Nat) :
    Kept s0 (State.dramFault s h cause chan sub) := by
  unfold State.dramFault
  repeat' first
    | with_reducible assumption | with_reducible apply State.setReg_kept | with_reducible apply State.updHub_kept
    | with_reducible apply State.thermal_kept | intro _
    | (extract_lets +onlyGivenNames x; first | (clear_value (e : x = _); first | with_reducible refine Kept.byEq s0 e ?_ ?_ | clear e) | skip)
    | split | with_reducible refine Kept.upd ?_

theorem State.debtTick_kept {s0 s : State} (hk : Kept s0 s) (c : ChanId) (sub : Fin 2) :
    Kept s0 (State.debtTick s c sub) := by
  unfold State.debtTick
  repeat' first
    | with_reducible assumption | with_reducible apply State.updHub_kept | with_reducible apply State.countHub_kept
    | with_reducible apply State.dramFault_kept | intro _
    | (extract_lets +onlyGivenNames x; first | (clear_value (e : x = _); first | with_reducible refine Kept.byEq s0 e ?_ ?_ | clear e) | skip)
    | split | with_reducible refine Kept.upd ?_

theorem State.takeStart_kept {s0 s : State} (hk : Kept s0 s) (c : ChanId) :
    Kept s0 (State.takeStart s c) := by
  unfold State.takeStart
  repeat' first
    | with_reducible assumption | with_reducible apply State.reach_kept | with_reducible apply State.updHub_kept | intro _
    | (extract_lets +onlyGivenNames x; first | (clear_value (e : x = _); first | with_reducible refine Kept.byEq s0 e ?_ ?_ | clear e) | skip)
    | with_reducible refine Kept.upd ?_

theorem State.chanStart_kept {s0 s : State} (hk : Kept s0 s) (c : ChanId) (u : StartUse) :
    Kept s0 (State.chanStart s c u) := by
  unfold State.chanStart
  repeat' first
    | with_reducible assumption | with_reducible apply State.takeStart_kept | with_reducible apply State.countHub_kept
    | with_reducible apply State.issueReq_kept | with_reducible apply State.pump_kept | with_reducible apply State.miss_kept
    | with_reducible apply State.serveMiss_kept | intro _
    | (extract_lets +onlyGivenNames x; first | (clear_value (e : x = _); first | with_reducible refine Kept.byEq s0 e ?_ ?_ | with_reducible refine Kept.byEq2 s0 e ?_ ?_ | clear e) | skip)
    | split | with_reducible refine Kept.pair2 (by assumption) ?_ | with_reducible refine Kept.upd ?_

end Sys2Proof.Machine
end

