-- ==== Sys2Proof/Laws/KeptJob.lean ====
section
/-!
SUPPORT. What the operations of jobs, windows, dressers, reductions, links and hauls keep (`Kept`).
-/
set_option linter.tactic.unusedName false
namespace Sys2Proof.Machine

theorem State.setTabState_kept {s0 s : State} (hk : Kept s0 s) (x : Nat) :
    Kept s0 (State.setTabState s x) := by
  unfold State.setTabState
  repeat' first
    | with_reducible assumption | with_reducible apply State.setFld_kept

theorem State.loadCode_kept {s0 s : State} (hk : Kept s0 s) (code : Nat) (loc : Nat) :
    Kept s0 (State.loadCode s code loc) := by
  unfold State.loadCode
  repeat' first
    | with_reducible assumption | with_reducible apply State.setFld_kept

theorem State.setTabIds_kept {s0 s : State} (hk : Kept s0 s) (g : Option TabImage) :
    Kept s0 (State.setTabIds s g) := by
  unfold State.setTabIds
  repeat' first
    | with_reducible assumption | with_reducible apply State.setReg_kept | with_reducible refine Kept.foldl ?_ ?_ | intro _
    | split | with_reducible refine Kept.upd ?_

theorem State.placeStreams_kept {s0 s : State} (hk : Kept s0 s) (g : TabImage) (pos : Nat) :
    Kept s0 (State.placeStreams s g pos) := by
  unfold State.placeStreams
  repeat' first
    | with_reducible assumption | with_reducible apply State.storeLong_kept | split | with_reducible refine Kept.upd ?_

theorem State.setWords_kept {s0 s : State} (hk : Kept s0 s) (key : Nat → Nat) (bs : List Byte) :
    Kept s0 (State.setWords s key bs) := by
  unfold State.setWords
  repeat' first
    | with_reducible assumption | with_reducible apply State.setReg_kept | with_reducible refine Kept.foldl ?_ ?_ | intro _

theorem State.setRunMeas_kept {s0 s : State} (hk : Kept s0 s) (m : List Byte) :
    Kept s0 (State.setRunMeas s m) := by
  unfold State.setRunMeas
  repeat' first
    | with_reducible assumption | with_reducible apply State.setWords_kept | intro _
    | (extract_lets +onlyGivenNames x; first | (clear_value (e : x = _); first | with_reducible refine Kept.byEq s0 e ?_ ?_ | clear e) | skip)
    | with_reducible refine Kept.upd ?_

theorem State.ackReq_kept {s0 s : State} (hk : Kept s0 s) (code : Nat) :
    Kept s0 (State.ackReq s code) := by
  unfold State.ackReq
  repeat' first
    | with_reducible assumption | with_reducible apply State.say_kept | split

theorem State.loadRequest_kept {s0 s : State} (hk : Kept s0 s) (pos : Nat) (positions : Nat) :
    Kept s0 (State.loadRequest s pos positions) := by
  unfold State.loadRequest
  repeat' first
    | with_reducible assumption | with_reducible apply State.loadCode_kept | with_reducible apply State.say_kept
    | with_reducible apply State.setTabState_kept | intro _
    | (extract_lets +onlyGivenNames x; first | (clear_value (e : x = _); first | with_reducible refine Kept.byEq s0 e ?_ ?_ | clear e) | skip)
    | split | with_reducible refine Kept.upd ?_

theorem State.loadAbandon_kept {s0 s : State} (hk : Kept s0 s) :
    Kept s0 (State.loadAbandon s) := by
  unfold State.loadAbandon
  repeat' first
    | with_reducible assumption | with_reducible apply State.setTabState_kept | split | with_reducible refine Kept.upd ?_

theorem State.loadReported_kept {s0 s : State} (hk : Kept s0 s) (pos : Nat) (got : Option (BitVec 256)) :
    Kept s0 (State.loadReported s pos got) := by
  unfold State.loadReported
  repeat' first
    | with_reducible assumption | with_reducible apply State.say_kept | intro _
    | (extract_lets +onlyGivenNames x; first | (clear_value (e : x = _); first | with_reducible refine Kept.byEq s0 e ?_ ?_ | clear e) | skip)
    | split | with_reducible refine Kept.upd ?_

theorem State.checksDone_kept {s0 s : State} (hk : Kept s0 s) :
    Kept s0 (State.checksDone s) := by
  unfold State.checksDone
  repeat' first
    | with_reducible assumption | with_reducible apply State.load_kept | with_reducible apply State.setRunMeas_kept
    | with_reducible apply State.placeStreams_kept | with_reducible apply State.setTabIds_kept
    | with_reducible apply State.loadCode_kept | with_reducible apply State.setTabState_kept | with_reducible apply State.say_kept
    | with_reducible apply State.loadReported_kept | with_reducible apply State.loadAbandon_kept | intro _
    | (extract_lets +onlyGivenNames x; first | (clear_value (e : x = _); first | with_reducible refine Kept.byEq s0 e ?_ ?_ | with_reducible refine Kept.byEq3 s0 e ?_ ?_ | clear e) | skip)
    | split | with_reducible refine Kept.pair3 (by assumption) ?_ | with_reducible refine Kept.upd ?_

theorem State.discardTab_kept {s0 s : State} (hk : Kept s0 s) :
    Kept s0 (State.discardTab s) := by
  unfold State.discardTab
  repeat' first
    | with_reducible assumption | with_reducible apply State.loadAbandon_kept | with_reducible apply State.say_kept
    | with_reducible apply State.placeStreams_kept | with_reducible apply State.setTabIds_kept
    | with_reducible apply State.loadReported_kept | with_reducible apply State.setTabState_kept | intro _
    | (extract_lets +onlyGivenNames x; first | (clear_value (e : x = _); first | with_reducible refine Kept.byEq s0 e ?_ ?_ | clear e) | skip)
    | split | with_reducible refine Kept.upd ?_

theorem State.jobRegs_kept {s0 s : State} (hk : Kept s0 s) :
    Kept s0 (State.jobRegs s) := by
  unfold State.jobRegs
  repeat' first
    | with_reducible assumption | with_reducible apply State.setReg_kept | with_reducible refine Kept.foldl ?_ ?_ | intro _
    | (extract_lets +onlyGivenNames x; first | (clear_value (e : x = _); first | with_reducible refine Kept.byEq s0 e ?_ ?_ | clear e) | skip)
    | split | with_reducible refine Kept.upd ?_

theorem State.tbStep_kept {s0 s : State} (hk : Kept s0 s) :
    Kept s0 (State.tbStep s) := by
  unfold State.tbStep
  repeat' first
    | with_reducible assumption | split | with_reducible refine Kept.upd ?_

theorem State.clearStock_kept {s0 s : State} (hk : Kept s0 s) :
    Kept s0 (State.clearStock s) := by
  unfold State.clearStock
  repeat' first
    | with_reducible assumption | with_reducible apply State.storeLong_kept | with_reducible refine Kept.foldl ?_ ?_ | intro _
    | split | with_reducible refine Kept.upd ?_

theorem State.wakeHeld_kept {s0 s : State} (hk : Kept s0 s) :
    Kept s0 (State.wakeHeld s) := by
  unfold State.wakeHeld
  repeat' first
    | with_reducible assumption | intro _ | split | with_reducible refine Kept.upd ?_

theorem State.startJob_kept {s0 s : State} (hk : Kept s0 s) :
    Kept s0 (State.startJob s) := by
  unfold State.startJob
  repeat' first
    | with_reducible assumption | with_reducible apply State.say_kept | with_reducible apply State.clearStock_kept
    | with_reducible apply State.tbStep_kept | with_reducible apply State.wakeHeld_kept | with_reducible apply State.jobRegs_kept
    | with_reducible apply State.setTabState_kept | with_reducible apply State.ackReq_kept | intro _
    | (extract_lets +onlyGivenNames x; first | (clear_value (e : x = _); first | with_reducible refine Kept.byEq s0 e ?_ ?_ | clear e) | skip)
    | split | with_reducible refine Kept.upd ?_

theorem State.stopJob_kept {s0 s : State} (hk : Kept s0 s) :
    Kept s0 (State.stopJob s) := by
  unfold State.stopJob
  repeat' first
    | with_reducible assumption | with_reducible apply State.setTabState_kept | with_reducible apply State.say_kept | split
    | with_reducible refine Kept.upd ?_

theorem State.stopped_kept {s0 s : State} (hk : Kept s0 s) :
    Kept s0 (State.stopped s) := by
  unfold State.stopped
  repeat' first
    | with_reducible assumption | with_reducible apply State.thermal_kept | with_reducible apply State.setTabState_kept | intro _
    | (extract_lets +onlyGivenNames x; first | (clear_value (e : x = _); first | with_reducible refine Kept.byEq s0 e ?_ ?_ | clear e) | skip)
    | split | with_reducible refine Kept.upd ?_

theorem State.raiseTerm_kept {s0 s : State} (hk : Kept s0 s) (t : Nat) :
    Kept s0 (State.raiseTerm s t) := by
  unfold State.raiseTerm
  repeat' first
    | with_reducible assumption | with_reducible apply State.setFld_kept | intro _
    | (extract_lets +onlyGivenNames x; first | (clear_value (e : x = _); first | with_reducible refine Kept.byEq s0 e ?_ ?_ | clear e) | skip)
    | split | with_reducible refine Kept.upd ?_

theorem State.missStep_kept {s0 s : State} (hk : Kept s0 s) (n : Nat) :
    Kept s0 (State.missStep s n) := by
  unfold State.missStep
  repeat' first
    | with_reducible assumption | with_reducible apply State.say_kept | split | with_reducible refine Kept.upd ?_

theorem State.takeDesc_kept {s0 s : State} (hk : Kept s0 s) (d : StepDesc) :
    Kept s0 (State.takeDesc s d) := by
  unfold State.takeDesc
  repeat' first
    | with_reducible assumption | with_reducible apply State.raiseTerm_kept | with_reducible apply State.say_kept
    | with_reducible apply State.missStep_kept | intro _
    | (extract_lets +onlyGivenNames x; first | (clear_value (e : x = _); first | with_reducible refine Kept.byEq s0 e ?_ ?_ | clear e) | skip)
    | split | with_reducible refine Kept.upd ?_

theorem State.descDeadline_kept {s0 s : State} (hk : Kept s0 s) :
    Kept s0 (State.descDeadline s) := by
  unfold State.descDeadline
  repeat' first
    | with_reducible assumption | with_reducible apply State.reach_kept | with_reducible apply State.missStep_kept | split
    | with_reducible refine Kept.upd ?_

theorem State.sendDesc_kept {s0 s : State} (hk : Kept s0 s) (d : StepDesc) :
    Kept s0 (State.sendDesc s d) := by
  unfold State.sendDesc
  repeat' first
    | with_reducible assumption | with_reducible apply State.say_kept | intro _
    | (extract_lets +onlyGivenNames x; first | (clear_value (e : x = _); first | with_reducible refine Kept.byEq s0 e ?_ ?_ | clear e) | skip)
    | split | with_reducible refine Kept.upd ?_

theorem State.boundary_kept {s0 s : State} (hk : Kept s0 s) :
    Kept s0 (State.boundary s) := by
  unfold State.boundary
  repeat' first
    | with_reducible assumption | with_reducible apply State.lateTransfers_kept | with_reducible apply State.settle_kept
    | with_reducible apply State.applyBefore_kept | with_reducible apply State.regionEnd_kept
    | with_reducible apply State.coreFault_kept | with_reducible refine Kept.foldl ?_ ?_ | intro _
    | (extract_lets +onlyGivenNames x; first | (clear_value (e : x = _); first | with_reducible refine Kept.byEq s0 e ?_ ?_ | clear e) | skip)
    | split | with_reducible refine Kept.upd ?_

theorem State.fillCores_kept {s0 s : State} (hk : Kept s0 s) :
    Kept s0 (State.fillCores s) := by
  unfold State.fillCores
  repeat' first
    | with_reducible assumption | intro _
    | (extract_lets +onlyGivenNames x; first | (clear_value (e : x = _); first | with_reducible refine Kept.byEq s0 e ?_ ?_ | clear e) | skip)
    | split | with_reducible refine Kept.upd ?_

theorem State.loadBench_kept {s0 s : State} (hk : Kept s0 s) (b : BenchId) (im : List Nat) (sfs : Bool) :
    Kept s0 (State.loadBench s b im sfs) := by
  unfold State.loadBench
  repeat' first
    | with_reducible assumption | with_reducible apply State.setReg_kept | with_reducible apply State.updCore_kept
    | with_reducible apply State.countBench_kept | with_reducible apply State.load_kept
    | with_reducible apply State.dropRange_kept | with_reducible apply State.updBench_kept
    | with_reducible apply State.setFld_kept | with_reducible apply State.countCore_kept
    | with_reducible apply State.coreDeadline_kept | with_reducible refine Kept.foldl ?_ ?_
    | with_reducible refine Kept3.foldl ?_ ?_ | intro _
    | (extract_lets +onlyGivenNames x; first | (clear_value (e : x = _); first | with_reducible refine Kept.byEq s0 e ?_ ?_ | with_reducible refine Kept.byEq3 s0 e ?_ ?_ | clear e) | skip)
    | split | with_reducible refine Kept3.mk ?_ | with_reducible refine Kept3.of ?_ | with_reducible refine Kept.upd ?_

theorem State.snapshot_kept {s0 s : State} (hk : Kept s0 s) :
    Kept s0 (State.snapshot s) := by
  unfold State.snapshot
  repeat' first
    | with_reducible assumption | with_reducible apply State.setReg_kept | with_reducible refine Kept.foldl ?_ ?_ | intro _
    | (extract_lets +onlyGivenNames x; first | (clear_value (e : x = _); first | with_reducible refine Kept.byEq s0 e ?_ ?_ | clear e) | skip)
    | split | with_reducible refine Kept.upd ?_

theorem State.retireReady_kept {s0 s : State} (hk : Kept s0 s) :
    Kept s0 (State.retireReady s) := by
  unfold State.retireReady
  repeat' first
    | with_reducible assumption | with_reducible apply State.setFld_kept | with_reducible apply State.updHub_kept
    | with_reducible refine Kept.foldl ?_ ?_ | intro _
    | (extract_lets +onlyGivenNames x; first | (clear_value (e : x = _); first | with_reducible refine Kept.byEq s0 e ?_ ?_ | clear e) | skip)
    | split | with_reducible refine Kept.upd ?_

theorem State.freshFaults_kept {s0 s : State} (hk : Kept s0 s) :
    Kept s0 (State.freshFaults s) := by
  unfold State.freshFaults
  repeat' first
    | with_reducible assumption | intro _ | with_reducible refine Kept.upd ?_

theorem State.beginSegment_kept {s0 s : State} (hk : Kept s0 s) (k : Nat) (start : Nat) (g : Seg) :
    Kept s0 (State.beginSegment s k start g) := by
  unfold State.beginSegment
  repeat' first
    | with_reducible assumption | with_reducible apply State.freshFaults_kept | with_reducible apply State.snapshot_kept
    | with_reducible apply State.doSwap_kept | with_reducible apply State.retireReady_kept
    | with_reducible apply State.fillCores_kept | with_reducible apply State.loadBench_kept
    | with_reducible refine Kept.foldl ?_ ?_ | intro _
    | (extract_lets +onlyGivenNames x; first | (clear_value (e : x = _); first | with_reducible refine Kept.byEq s0 e ?_ ?_ | clear e) | skip)
    | split | with_reducible refine Kept.upd ?_

theorem State.endStep_kept {s0 s : State} (hk : Kept s0 s) (drop : Bool) :
    Kept s0 (State.endStep s drop) := by
  unfold State.endStep
  repeat' first
    | with_reducible assumption | intro _ | split | with_reducible refine Kept.upd ?_

theorem State.copyToStandby_kept {s0 s : State} (hk : Kept s0 s) :
    Kept s0 (State.copyToStandby s) := by
  unfold State.copyToStandby
  repeat' first
    | with_reducible assumption | with_reducible apply State.say_kept | intro _ | split

theorem State.startStep_kept {s0 s : State} (hk : Kept s0 s) (d : StepDesc) :
    Kept s0 (State.startStep s d) := by
  unfold State.startStep
  repeat' first
    | with_reducible assumption | with_reducible apply State.reach_kept | with_reducible apply State.beginSegment_kept | intro _
    | (extract_lets +onlyGivenNames x; first | (clear_value (e : x = _); first | with_reducible refine Kept.byEq s0 e ?_ ?_ | clear e) | skip)
    | split | with_reducible refine Kept.upd ?_

theorem State.segmentStart_kept {s0 s : State} (hk : Kept s0 s) :
    Kept s0 (State.segmentStart s) := by
  unfold State.segmentStart
  repeat' first
    | with_reducible assumption | with_reducible apply State.reach_kept | with_reducible apply State.boundary_kept
    | with_reducible apply State.copyToStandby_kept | with_reducible apply State.endStep_kept
    | with_reducible apply State.startStep_kept | with_reducible apply State.missStep_kept
    | with_reducible apply State.beginSegment_kept | intro _
    | (extract_lets +onlyGivenNames x; first | (clear_value (e : x = _); first | with_reducible refine Kept.byEq s0 e ?_ ?_ | clear e) | skip)
    | split | with_reducible refine Kept.upd ?_

theorem State.stopHere_kept {s0 s : State} (hk : Kept s0 s) (step : Nat) :
    Kept s0 (State.stopHere s step) := by
  unfold State.stopHere
  repeat' first
    | with_reducible assumption | with_reducible refine Kept.upd ?_

theorem State.managerFault_kept {s0 s : State} (hk : Kept s0 s) (u : UnitRef) (step : Nat) (applied : Bool) (skew : Bool) :
    Kept s0 (State.managerFault s u step applied skew) := by
  unfold State.managerFault
  repeat' first
    | with_reducible assumption | with_reducible apply State.stopHere_kept | with_reducible apply State.say_kept
    | with_reducible apply State.unitFailed_kept | intro _
    | (extract_lets +onlyGivenNames x; first | (clear_value (e : x = _); first | with_reducible refine Kept.byEq s0 e ?_ ?_ | clear e) | skip)
    | split | with_reducible refine Kept.upd ?_

theorem State.setErr_kept {s0 s : State} (hk : Kept s0 s) (st : StoreRef) (addr : Nat) (m : BitVec 288) :
    Kept s0 (State.setErr s st addr m) := by
  unfold State.setErr
  repeat' first
    | with_reducible assumption | intro _
    | (extract_lets +onlyGivenNames x; first | (clear_value (e : x = _); first | with_reducible refine Kept.byEq s0 e ?_ ?_ | clear e) | skip)
    | split | with_reducible refine Kept.upd ?_

theorem State.poisonWord_kept {s0 s : State} (hk : Kept s0 s) (st : StoreRef) (addr : Nat) :
    Kept s0 (State.poisonWord s st addr) := by
  unfold State.poisonWord
  repeat' first
    | with_reducible assumption | with_reducible apply State.updCore_kept | intro _ | split | with_reducible refine Kept.upd ?_

theorem State.scrubPass_kept {s0 s : State} (hk : Kept s0 s) (st : StoreRef) (addr : Nat) :
    Kept s0 (State.scrubPass s st addr) := by
  unfold State.scrubPass
  repeat' first
    | with_reducible assumption | intro _ | split | with_reducible refine Kept.upd ?_

theorem State.scrub_kept {s0 s : State} (hk : Kept s0 s) (st : StoreRef) (addr : Nat) (strike : BitVec 288) (claimed : Bool) (overwritten : Bool) :
    Kept s0 (State.scrub s st addr strike claimed overwritten) := by
  unfold State.scrub
  repeat' first
    | with_reducible assumption | with_reducible apply State.setErr_kept | with_reducible apply State.countStore_kept
    | with_reducible apply State.scrubPass_kept | with_reducible apply State.eccRecord_kept
    | with_reducible apply State.hardFail_kept | with_reducible apply State.foundUe_kept
    | with_reducible apply State.poisonWord_kept | with_reducible apply State.drew_kept | intro _
    | (extract_lets +onlyGivenNames x; first | (clear_value (e : x = _); first | with_reducible refine Kept.byEq s0 e ?_ ?_ | clear e) | skip)
    | split | with_reducible refine Kept.upd ?_

theorem State.lapEnd_kept {s0 s : State} (hk : Kept s0 s) (st : StoreRef) (secs : Nat) : Kept s0 (State.lapEnd s st secs) := by
  unfold State.lapEnd
  extract_lets +onlyGivenNames s1
  have h1 : Kept s0 s1 := Kept.upd hk
  clear_value s1
  split
  rename_i k t heq
  have ht : Kept s0 t := by
    split at heq
    · cases heq
      exact State.countBench_kept (State.setFld_kept h1 _ _ _ _) _ _ _ _
    · cases heq
      exact State.setFld_kept (State.setFld_kept (State.updHub_kept h1 _ _) _ _ _ _) _ _ _ _
    · cases heq
      exact h1
  clear heq
  extract_lets +onlyGivenNames s2
  have h2 : Kept s0 s2 := State.setFld_kept ht _ _ _ _
  clear_value s2
  split
  · exact State.say_kept (State.log_kept (State.countStore_kept (State.setFld_kept h2 _ _ _ _) _ _ _) _ _ _ _ _ _) _ _
  · exact h2

theorem State.criticalFault_kept {s0 s : State} (hk : Kept s0 s) (die : Nat) :
    Kept s0 (State.criticalFault s die) := by
  unfold State.criticalFault
  repeat' first
    | with_reducible assumption | with_reducible apply State.setFld_kept | with_reducible apply State.say_kept
    | with_reducible apply State.unitFailed_kept | with_reducible apply State.beyond_kept | intro _
    | (extract_lets +onlyGivenNames x; first | (clear_value (e : x = _); first | with_reducible refine Kept.byEq s0 e ?_ ?_ | clear e) | skip)
    | split

theorem State.vote_kept {s0 s : State} (hk : Kept s0 s) (k : Nat) (a b c : Word64) : Kept s0 (State.vote s k a b c) := by
  unfold State.vote
  extract_lets +onlyGivenNames put
  have hp : ∀ v, Kept s0 (put v) := fun v => Kept.ite hk (State.setReg_kept hk _ _)
  clear_value put
  with_reducible refine Kept.ite hk (Kept.ite hk (Kept.ite ?_ ?_))
  · with_reducible exact State.satFld_kept (hp _) _ _ _ _
  · with_reducible exact State.criticalFault_kept (hp _) _

theorem State.wFlip_kept {s0 s : State} (hk : Kept s0 s) (k : Nat) (v : Word64) :
    Kept s0 (State.wFlip s k v).2 := by
  show Kept2 s0 _
  unfold State.wFlip
  repeat' first
    | with_reducible assumption | with_reducible apply State.setReg_kept | with_reducible apply State.countBench_kept | intro _
    | (extract_lets +onlyGivenNames x; first | (clear_value (e : x = _); first | with_reducible refine Kept.byEq s0 e ?_ ?_ | with_reducible refine Kept.byEq2 s0 e ?_ ?_ | clear e) | skip)
    | split | with_reducible refine Kept.pair2 (by assumption) ?_ | with_reducible refine Kept2.mk ?_
    | with_reducible refine Kept2.of ?_ | with_reducible refine Kept.upd ?_

theorem State.flipWrite_kept {s0 s : State} (hk : Kept s0 s) (st : StoreRef) (addr : Nat) :
    Kept s0 (State.flipWrite s st addr) := by
  unfold State.flipWrite
  repeat' first
    | with_reducible assumption | with_reducible apply State.setErr_kept | with_reducible apply State.setReg_kept
    | with_reducible apply State.setFld_kept | with_reducible apply State.countStore_kept | intro _
    | (extract_lets +onlyGivenNames x; first | (clear_value (e : x = _); first | with_reducible refine Kept.byEq s0 e ?_ ?_ | clear e) | skip)
    | split | with_reducible refine Kept.upd ?_

theorem State.windowOpen_kept {s0 s : State} (hk : Kept s0 s) (entry : Nat) :
    Kept s0 (State.windowOpen s entry) := by
  unfold State.windowOpen
  repeat' first
    | with_reducible assumption | with_reducible apply State.reach_kept | intro _
    | (extract_lets +onlyGivenNames x; first | (clear_value (e : x = _); first | with_reducible refine Kept.byEq s0 e ?_ ?_ | clear e) | skip)
    | split | with_reducible refine Kept.upd ?_

theorem State.selfTestAsk_kept {s0 s : State} (hk : Kept s0 s) (rq : Rq) (us : List Nat) (cls : Nat) (deadline : Nat) :
    Kept s0 (State.selfTestAsk s rq us cls deadline) := by
  unfold State.selfTestAsk
  repeat' first
    | with_reducible assumption | with_reducible apply State.reply_kept | split | with_reducible refine Kept.upd ?_

theorem State.sweep_kept {s0 s : State} (hk : Kept s0 s) (die : Nat) (thermal : List (BitVec 16)) (volts : List (BitVec 16)) (amps : List (BitVec 16)) :
    Kept s0 (State.sweep s die thermal volts amps) := by
  unfold State.sweep
  repeat' first
    | with_reducible assumption | with_reducible apply State.thermal_kept | with_reducible apply State.countMd_kept
    | with_reducible apply State.setFld_kept | with_reducible apply State.countDie_kept | with_reducible apply State.log_kept
    | with_reducible refine Kept.foldl ?_ ?_ | intro _
    | (extract_lets +onlyGivenNames x; first | (clear_value (e : x = _); first | with_reducible refine Kept.byEq s0 e ?_ ?_ | clear e) | skip)
    | split | with_reducible refine Kept.upd ?_

theorem State.tested_kept {s0 s : State} (hk : Kept s0 s) (b : BenchId) (result : Nat) :
    Kept s0 (State.tested s b result) := by
  unfold State.tested
  repeat' first
    | with_reducible assumption | with_reducible apply State.setFld_kept | with_reducible apply State.satFld_kept
    | with_reducible apply State.updDie_kept | with_reducible apply State.service_kept | intro _
    | (extract_lets +onlyGivenNames x; first | (clear_value (e : x = _); first | with_reducible refine Kept.byEq s0 e ?_ ?_ | clear e) | skip)
    | split | with_reducible refine Kept.upd ?_

theorem State.served_kept {s0 s : State} (hk : Kept s0 s) (entry : Nat) (u : Nat) (cls : Nat) :
    Kept s0 (State.served s entry u cls) := by
  unfold State.served
  repeat' first
    | with_reducible assumption | intro _
    | (extract_lets +onlyGivenNames x; first | (clear_value (e : x = _); first | with_reducible refine Kept.byEq s0 e ?_ ?_ | clear e) | skip)
    | split | with_reducible refine Kept.upd ?_

theorem State.atom_kept {s0 s : State} (hk : Kept s0 s) (entry : Nat) (a : Atom) :
    Kept s0 (State.atom s entry a) := by
  unfold State.atom
  repeat' first
    | with_reducible assumption | with_reducible apply State.updHub_kept | with_reducible apply State.countHub_kept
    | with_reducible apply State.served_kept | with_reducible apply State.setFld_kept | with_reducible apply State.dramFault_kept
    | with_reducible apply State.sweep_kept | with_reducible apply State.scrub_kept | with_reducible apply State.countBench_kept
    | with_reducible apply State.tested_kept | with_reducible apply State.service_kept | intro _
    | (extract_lets +onlyGivenNames x; first | (clear_value (e : x = _); first | with_reducible refine Kept.byEq s0 e ?_ ?_ | clear e) | skip)
    | split | with_reducible refine Kept.upd ?_

theorem State.abandonTest_kept {s0 s : State} (hk : Kept s0 s) (u : Nat) :
    Kept s0 (State.abandonTest s u) := by
  unfold State.abandonTest
  repeat' first
    | with_reducible assumption | with_reducible apply State.setFld_kept | split | with_reducible refine Kept.upd ?_

theorem State.abandonAtom_kept {s0 s : State} (hk : Kept s0 s) (cls : Nat) (u : Nat) :
    Kept s0 (State.abandonAtom s cls u) := by
  unfold State.abandonAtom
  repeat' first
    | with_reducible assumption | with_reducible apply State.abandonTest_kept | with_reducible apply State.countHub_kept | intro _
    | (extract_lets +onlyGivenNames x; first | (clear_value (e : x = _); first | with_reducible refine Kept.byEq s0 e ?_ ?_ | clear e) | skip)
    | split | with_reducible refine Kept.upd ?_

theorem State.windowEnd_kept {s0 s : State} (hk : Kept s0 s) (entry : Nat) :
    Kept s0 (State.windowEnd s entry) := by
  unfold State.windowEnd
  repeat' first
    | with_reducible assumption | with_reducible apply State.reach_kept | with_reducible apply State.abandonAtom_kept
    | with_reducible refine Kept.foldl ?_ ?_ | intro _
    | (extract_lets +onlyGivenNames x; first | (clear_value (e : x = _); first | with_reducible refine Kept.byEq s0 e ?_ ?_ | clear e) | skip)
    | split | with_reducible refine Kept.upd ?_

theorem State.scr_kept {s0 s : State} (hk : Kept s0 s) (b : BenchId) (off : Nat) (n : Nat) :
    Kept s0 (State.scr s b off n).2.2 := by
  show Kept3 s0 _
  unfold State.scr
  repeat' first
    | with_reducible assumption | with_reducible apply State.load_kept | intro _
    | (extract_lets +onlyGivenNames x; first | (clear_value (e : x = _); first | with_reducible refine Kept.byEq s0 e ?_ ?_ | with_reducible refine Kept.byEq3 s0 e ?_ ?_ | clear e) | skip)
    | split | with_reducible refine Kept3.mk ?_ | with_reducible refine Kept3.of ?_

theorem State.scrAll_kept {s0 s : State} (hk : Kept s0 s) (b : BenchId) (a0 : List (Nat × Nat)) :
    Kept s0 (State.scrAll s b a0).2.2 := by
  induction a0 generalizing s with
  | nil =>
    unfold State.scrAll
    repeat' first
      | with_reducible assumption | with_reducible apply State.scr_kept | intro _
      | (extract_lets +onlyGivenNames x; first | (clear_value (e : x = _); first | with_reducible refine Kept.byEq s0 e ?_ ?_ | with_reducible refine Kept.byEq3 s0 e ?_ ?_ | clear e) | skip)
      | split | with_reducible refine Kept3.mk ?_ | with_reducible refine Kept3.of ?_
  | cons x0 xs ih =>
    show Kept3 s0 _
    unfold State.scrAll
    repeat' first
      | with_reducible assumption | with_reducible apply ih | with_reducible apply State.scr_kept | intro _
      | (extract_lets +onlyGivenNames x; first | (clear_value (e : x = _); first | with_reducible refine Kept.byEq s0 e ?_ ?_ | with_reducible refine Kept.byEq3 s0 e ?_ ?_ | clear e) | skip)
      | split | with_reducible refine Kept3.mk ?_ | with_reducible refine Kept3.of ?_

theorem State.putScr_kept {s0 s : State} (hk : Kept s0 s) (b : BenchId) (off : Nat) (bs : List Byte) :
    Kept s0 (State.putScr s b off bs) := by
  unfold State.putScr
  repeat' first
    | with_reducible assumption | with_reducible apply State.store_kept | with_reducible apply State.poisonRange_kept | intro _
    | (extract_lets +onlyGivenNames x; first | (clear_value (e : x = _); first | with_reducible refine Kept.byEq s0 e ?_ ?_ | with_reducible refine Kept.byEq2 s0 e ?_ ?_ | clear e) | skip)
    | split

theorem State.drsFault_kept {s0 s : State} (hk : Kept s0 s) (b : BenchId) (cause : Nat) (entry : Nat) :
    Kept s0 (State.drsFault s b cause entry) := by
  unfold State.drsFault
  repeat' first
    | with_reducible assumption | with_reducible apply State.countBench_kept | with_reducible apply State.setFld_kept
    | with_reducible apply State.setReg_kept | with_reducible apply State.updBench_kept | with_reducible apply State.say_kept
    | with_reducible apply State.managerFault_kept | with_reducible apply State.benchDeadline_kept | intro _
    | (extract_lets +onlyGivenNames x; first | (clear_value (e : x = _); first | with_reducible refine Kept.byEq s0 e ?_ ?_ | clear e) | skip)
    | split | with_reducible refine Kept.upd ?_

theorem State.poisonOuts_kept {s0 s : State} (hk : Kept s0 s) (b : BenchId) (outs : List (Nat × Nat)) :
    Kept s0 (State.poisonOuts s b outs) := by
  unfold State.poisonOuts
  repeat' first
    | with_reducible assumption | with_reducible apply State.poisonRange_kept | with_reducible refine Kept.foldl ?_ ?_ | intro _

theorem State.putBack_kept {s0 s : State} (hk : Kept s0 s) (b : BenchId) (r : OldRange) : Kept s0 (State.putBack s b r) :=
  hk.mem (putBytes_wf _ _ _)

theorem State.writeBlock_kept {s0 s : State} (hk : Kept s0 s) (b : BenchId) (e : Entry) (g : Group) (x : Scal) (j : Nat) (k : Block32) (new : List (Nat × Nat × Nat)) :
    Kept s0 (State.writeBlock s b e g x j k new) := by
  unfold State.writeBlock
  repeat' first
    | with_reducible assumption | with_reducible apply State.putScr_kept | with_reducible apply State.satFld_kept
    | with_reducible apply State.countBench_kept | intro _
    | (extract_lets +onlyGivenNames x; first | (clear_value (e : x = _); first | with_reducible refine Kept.byEq s0 e ?_ ?_ | clear e) | skip)
    | split

theorem State.passStart_kept {s0 s t : State} (hk : Kept s0 s) (b : BenchId) (pass : Nat) (h : State.passStart s b pass = some t) :
    Kept s0 t := by
  unfold State.passStart at h
  split at h
  · cases h
    exact State.countBench_kept (State.setFld_kept (State.setFld_kept (State.setFld_kept
      (State.updBench_kept (State.reach_kept hk _) _ _) _ _ _ _) _ _ _ _) _ _ _ _) _ _ _ _
  · cases h

theorem State.passRuns_kept {s0 s : State} (hk : Kept s0 s) (b : BenchId) (pass : Nat) (outs : List (Nat × Nat)) (blocks : List (List OldRange)) :
    Kept s0 (State.passRuns s b pass outs blocks) := by
  unfold State.passRuns
  repeat' first
    | with_reducible assumption | with_reducible apply State.updBench_kept | intro _ | with_reducible refine Kept.upd ?_

theorem State.passFault_kept {s0 s : State} (hk : Kept s0 s) (b : BenchId) (cause : Nat) (entry : Nat) (outs : List (Nat × Nat)) :
    Kept s0 (State.passFault s b cause entry outs) := by
  unfold State.passFault
  repeat' first
    | with_reducible assumption | with_reducible apply State.poisonOuts_kept | with_reducible apply State.drsFault_kept

theorem State.setup_kept {s0 s : State} (hk : Kept s0 s) (b : BenchId) :
    Kept s0 (State.setup s b).2.2.2 := by
  show Kept4 s0 _
  unfold State.setup
  repeat' first
    | with_reducible assumption | with_reducible apply State.scr_kept | intro _
    | (extract_lets +onlyGivenNames x; first | (clear_value (e : x = _); first | with_reducible refine Kept.byEq s0 e ?_ ?_ | with_reducible refine Kept.byEq3 s0 e ?_ ?_ | with_reducible refine Kept.byEq4 s0 e ?_ ?_ | clear e) | skip)
    | split | with_reducible refine Kept3.mk ?_ | with_reducible refine Kept3.of ?_ | with_reducible refine Kept4.mk ?_
    | with_reducible refine Kept4.of ?_

/-- The same of the state of a pass. -/
def KeptR (s0 : State) (r : Run) : Prop := Kept s0 r.s
theorem KeptR.mk {s0 s : State} {c e : Nat} {acc : NMap Nat} {o : List (Nat × Nat)} {bl : List (List OldRange)}
    (h : Kept s0 s) : KeptR s0 ⟨s, c, e, acc, o, bl⟩ := h
theorem KeptR.of {s0 : State} {r : Run} (h : Kept s0 r.s) : KeptR s0 r := h
theorem Run.note_kept {s0 : State} {r : Run} (h : Kept s0 r.s) (b : BenchId) (o : List (Nat × Nat)) : KeptR s0 (r.note b o) := h
theorem KeptR.byEq (s0 : State) {x A : Run} {P : Prop} (e : x = A) (h : KeptR s0 A) (k : Kept s0 x.s → P) : P := k (e ▸ h)
theorem KeptR.foldl {s0 : State} {α : Type} {f : Run → α → Run} {l : List α} {r : Run} (h : Kept s0 r.s)
    (hf : ∀ x a, Kept s0 x.s → KeptR s0 (f x a)) : KeptR s0 (l.foldl f r) := by
  induction l generalizing r with
  | nil => exact h
  | cons a l ih => exact ih (hf r a h)

theorem Run.block_kept {s0 : State} {r : Run} (hk : Kept s0 r.s) (norm : Bool) (b : BenchId) (e : Entry) (g : Group) (x : Scal) (j : Nat) :
    KeptR s0 (r.block norm b e g x j) := by
  unfold Run.block
  repeat' first
    | with_reducible assumption
    | with_reducible apply State.scrAll_kept
    | with_reducible apply State.writeBlock_kept
    | with_reducible refine Kept.foldl ?_ ?_ | with_reducible refine KeptR.foldl ?_ ?_ | intro _
    | (extract_lets +onlyGivenNames x; first | (clear_value (e : x = _); first | with_reducible refine Kept.byEq s0 e ?_ ?_ | with_reducible refine Kept.byEq3 s0 e ?_ ?_ | with_reducible refine KeptR.byEq s0 e ?_ ?_ | clear e) | skip)
    | split | with_reducible apply Run.note_kept | with_reducible refine KeptR.mk ?_ | with_reducible refine KeptR.of ?_ | with_reducible refine Kept3.of ?_

theorem Run.kron_kept {s0 : State} {r : Run} (hk : Kept s0 r.s) (norm : Bool) (b : BenchId) (e : Entry) (g : Group) (x : Scal) (n : Nat) :
    KeptR s0 (r.kron norm b e g x n) := by
  unfold Run.kron
  repeat' first
    | with_reducible assumption
    | with_reducible apply State.scrAll_kept
    | with_reducible apply State.putScr_kept
    | with_reducible apply State.countBench_kept
    | with_reducible apply State.satFld_kept
    | with_reducible apply State.writeBlock_kept
    | with_reducible refine Kept.foldl ?_ ?_ | with_reducible refine KeptR.foldl ?_ ?_ | intro _
    | (extract_lets +onlyGivenNames x; first | (clear_value (e : x = _); first | with_reducible refine Kept.byEq s0 e ?_ ?_ | with_reducible refine Kept.byEq3 s0 e ?_ ?_ | with_reducible refine KeptR.byEq s0 e ?_ ?_ | clear e) | skip)
    | split | with_reducible apply Run.note_kept | with_reducible refine KeptR.mk ?_ | with_reducible refine KeptR.of ?_ | with_reducible refine Kept3.of ?_

theorem Run.doEntry_kept {s0 : State} {r : Run} (hk : Kept s0 r.s) (norm : Bool) (b : BenchId) (list : Nat) (groups : List Group)
    (scal : Nat → Scal) (i : Nat) : KeptR s0 (r.doEntry norm b list groups scal i) := by
  unfold Run.doEntry
  repeat' first
    | with_reducible assumption
    | with_reducible apply State.scr_kept
    | with_reducible apply State.countBench_kept
    | with_reducible apply Run.kron_kept
    | with_reducible apply Run.block_kept
    | with_reducible refine Kept.foldl ?_ ?_ | with_reducible refine KeptR.foldl ?_ ?_ | intro _
    | (extract_lets +onlyGivenNames x; first | (clear_value (e : x = _); first | with_reducible refine Kept.byEq s0 e ?_ ?_ | with_reducible refine Kept.byEq3 s0 e ?_ ?_ | with_reducible refine KeptR.byEq s0 e ?_ ?_ | clear e) | skip)
    | split | with_reducible apply Run.note_kept | with_reducible refine KeptR.mk ?_ | with_reducible refine KeptR.of ?_ | with_reducible refine Kept3.of ?_

theorem State.normPass_kept {s0 s : State} (hk : Kept s0 s) (b : BenchId) : Kept s0 (State.normPass s b) := by
  unfold State.normPass
  repeat' first
    | with_reducible assumption
    | with_reducible apply State.setup_kept
    | with_reducible apply State.updBench_kept
    | with_reducible apply State.passFault_kept
    | with_reducible apply State.setFld_kept
    | with_reducible apply State.passRuns_kept
    | with_reducible apply State.putScr_kept
    | with_reducible apply Run.doEntry_kept
    | with_reducible refine Kept.foldl ?_ ?_ | with_reducible refine KeptR.foldl ?_ ?_ | intro _
    | (extract_lets +onlyGivenNames x; first | (clear_value (e : x = _); first | with_reducible refine Kept.byEq s0 e ?_ ?_ | with_reducible refine Kept.byEq4 s0 e ?_ ?_ | with_reducible refine KeptR.byEq s0 e ?_ ?_ | clear e) | skip)
    | split | with_reducible apply Run.note_kept | with_reducible refine KeptR.mk ?_ | with_reducible refine KeptR.of ?_ | with_reducible refine Kept3.of ?_

theorem State.applyPass_kept {s0 s : State} (hk : Kept s0 s) (b : BenchId) : Kept s0 (State.applyPass s b) := by
  unfold State.applyPass
  repeat' first
    | with_reducible assumption
    | with_reducible apply State.setup_kept
    | with_reducible apply State.updBench_kept
    | with_reducible apply State.passFault_kept
    | with_reducible apply State.setFld_kept
    | with_reducible apply State.passRuns_kept
    | with_reducible apply State.countBench_kept
    | with_reducible apply State.say_kept
    | with_reducible apply State.scr_kept
    | with_reducible apply State.putScr_kept
    | with_reducible apply Run.doEntry_kept
    | with_reducible refine Kept.foldl ?_ ?_ | with_reducible refine KeptR.foldl ?_ ?_ | intro _
    | (extract_lets +onlyGivenNames x; first | (clear_value (e : x = _); first | with_reducible refine Kept.byEq s0 e ?_ ?_ | with_reducible refine Kept.byEq3 s0 e ?_ ?_ | with_reducible refine Kept.byEq4 s0 e ?_ ?_ | with_reducible refine KeptR.byEq s0 e ?_ ?_ | clear e) | skip)
    | split | with_reducible apply Run.note_kept | with_reducible refine KeptR.mk ?_ | with_reducible refine KeptR.of ?_ | with_reducible refine Kept3.of ?_ | with_reducible refine Kept.upd ?_

theorem State.evalGroups_kept {s0 s : State} (hk : Kept s0 s) (b : BenchId) (base : Nat) (a0 : List Nat) :
    Kept s0 (State.evalGroups s b base a0).2.2 := by
  induction a0 generalizing s with
  | nil =>
    unfold State.evalGroups
    repeat' first
      | with_reducible assumption | with_reducible apply State.scr_kept | intro _
      | (extract_lets +onlyGivenNames x; first | (clear_value (e : x = _); first | with_reducible refine Kept.byEq s0 e ?_ ?_ | with_reducible refine Kept.byEq3 s0 e ?_ ?_ | clear e) | skip)
      | split | with_reducible refine Kept3.mk ?_ | with_reducible refine Kept3.of ?_
  | cons x0 xs ih =>
    show Kept3 s0 _
    unfold State.evalGroups
    repeat' first
      | with_reducible assumption | with_reducible apply ih | with_reducible apply State.scr_kept | intro _
      | (extract_lets +onlyGivenNames x; first | (clear_value (e : x = _); first | with_reducible refine Kept.byEq s0 e ?_ ?_ | with_reducible refine Kept.byEq3 s0 e ?_ ?_ | clear e) | skip)
      | split | with_reducible refine Kept3.mk ?_ | with_reducible refine Kept3.of ?_

theorem State.schedPass_kept {s0 s : State} (hk : Kept s0 s) (b : BenchId) :
    Kept s0 (State.schedPass s b) := by
  unfold State.schedPass
  repeat' first
    | with_reducible assumption | with_reducible apply State.scr_kept | with_reducible apply State.passFault_kept
    | with_reducible apply State.evalGroups_kept | with_reducible apply State.putScr_kept
    | with_reducible apply State.passRuns_kept | intro _
    | (extract_lets +onlyGivenNames x; first | (clear_value (e : x = _); first | with_reducible refine Kept.byEq s0 e ?_ ?_ | with_reducible refine Kept.byEq3 s0 e ?_ ?_ | clear e) | skip)
    | split

theorem State.passLate_kept {s0 s : State} (hk : Kept s0 s) (b : BenchId) (p : PassRec) :
    Kept s0 (State.passLate s b p) := by
  unfold State.passLate
  repeat' first
    | with_reducible assumption | with_reducible apply State.updBench_kept | with_reducible apply State.poisonOuts_kept
    | with_reducible apply State.drsFault_kept | intro _ | with_reducible refine Kept.upd ?_

theorem State.passDropped_kept {s0 s : State} (hk : Kept s0 s) (b : BenchId) (p : PassRec) :
    Kept s0 (State.passDropped s b p) := by
  unfold State.passDropped
  repeat' first
    | with_reducible assumption | with_reducible apply State.putBack_kept | with_reducible apply State.poisonOuts_kept
    | with_reducible apply State.drsFault_kept | with_reducible refine Kept.foldl ?_ ?_ | intro _
    | (extract_lets +onlyGivenNames x; first | (clear_value (e : x = _); first | with_reducible refine Kept.byEq s0 e ?_ ?_ | clear e) | skip)
    | split

theorem State.passEnd_kept {s0 s : State} (hk : Kept s0 s) (b : BenchId) :
    Kept s0 (State.passEnd s b) := by
  unfold State.passEnd
  repeat' first
    | with_reducible assumption | with_reducible apply State.passLate_kept | with_reducible apply State.updBench_kept
    | with_reducible apply State.passDropped_kept | with_reducible apply State.setFld_kept | intro _
    | (extract_lets +onlyGivenNames x; first | (clear_value (e : x = _); first | with_reducible refine Kept.byEq s0 e ?_ ?_ | clear e) | skip)
    | split | with_reducible refine Kept.upd ?_

theorem State.wDrsStep_kept {s0 s : State} (hk : Kept s0 s) (b : BenchId) (v : Word64) :
    Kept s0 (State.wDrsStep s b v).2 := by
  show Kept2 s0 _
  unfold State.wDrsStep
  repeat' first
    | with_reducible assumption | with_reducible apply State.setFld_kept | split | with_reducible refine Kept2.mk ?_
    | with_reducible refine Kept2.of ?_

theorem State.drsStepReset_kept {s0 s : State} (hk : Kept s0 s) (n : Nat) :
    Kept s0 (State.drsStepReset s n) := by
  unfold State.drsStepReset
  repeat' first
    | with_reducible assumption | with_reducible apply State.setFld_kept | with_reducible refine Kept.foldl ?_ ?_ | intro _
    | split

theorem State.bankSource_kept {s0 s : State} (hk : Kept s0 s) (src : Nat) :
    Kept s0 (State.bankSource s src).2 := by
  show Kept2 s0 _
  unfold State.bankSource
  repeat' first
    | with_reducible assumption | with_reducible apply State.translateBare_kept | with_reducible refine Kept.foldl ?_ ?_
    | with_reducible refine Kept.foldl2 ?_ ?_ | with_reducible refine Kept2.foldl ?_ ?_ | with_reducible refine Kept3.foldl ?_ ?_
    | with_reducible refine Kept4.foldl ?_ ?_ | intro _
    | (extract_lets +onlyGivenNames x; first | (clear_value (e : x = _); first | with_reducible refine Kept.byEq s0 e ?_ ?_ | with_reducible refine Kept.byEq2 s0 e ?_ ?_ | clear e) | skip)
    | split | with_reducible refine Kept.pair2 (by assumption) ?_ | with_reducible refine Kept2.mk ?_
    | with_reducible refine Kept2.of ?_ | with_reducible refine Kept.upd ?_

theorem State.wSchedCtl_kept {s0 s : State} (hk : Kept s0 s) (b : BenchId) (v : Word64) :
    Kept s0 (State.wSchedCtl s b v) := by
  unfold State.wSchedCtl
  repeat' first
    | with_reducible assumption | with_reducible apply State.setFld_kept | with_reducible apply State.bankSource_kept
    | with_reducible apply State.updBench_kept | intro _
    | (extract_lets +onlyGivenNames x; first | (clear_value (e : x = _); first | with_reducible refine Kept.byEq s0 e ?_ ?_ | with_reducible refine Kept.byEq2 s0 e ?_ ?_ | clear e) | skip)
    | split | with_reducible refine Kept.upd ?_

theorem State.schedDone_kept {s0 s : State} (hk : Kept s0 s) (b : BenchId) :
    Kept s0 (State.schedDone s b) := by
  unfold State.schedDone
  repeat' first
    | with_reducible assumption | with_reducible apply State.bankSource_kept | with_reducible apply State.loadAt_kept
    | with_reducible apply State.store_kept | with_reducible apply State.poisonRange_kept | with_reducible apply State.setFld_kept
    | with_reducible apply State.updBench_kept | with_reducible refine Kept.foldl ?_ ?_ | with_reducible refine Kept.foldl2 ?_ ?_
    | with_reducible refine Kept2.foldl ?_ ?_ | with_reducible refine Kept3.foldl ?_ ?_ | with_reducible refine Kept4.foldl ?_ ?_
    | intro _
    | (extract_lets +onlyGivenNames x; first | (clear_value (e : x = _); first | with_reducible refine Kept.byEq s0 e ?_ ?_ | with_reducible refine Kept.byEq2 s0 e ?_ ?_ | with_reducible refine Kept.byEq3 s0 e ?_ ?_ | clear e) | skip)
    | split | with_reducible refine Kept.pair2 (by assumption) ?_ | with_reducible refine Kept.pair3 (by assumption) ?_
    | with_reducible refine Kept2.mk ?_ | with_reducible refine Kept2.of ?_ | with_reducible refine Kept3.mk ?_
    | with_reducible refine Kept3.of ?_ | with_reducible refine Kept.upd ?_

theorem State.placeMsg_kept {s0 s : State} (hk : Kept s0 s) (out : Option (BitVec 24)) (poison : Bool) (bytes : List Byte) :
    Kept s0 (State.placeMsg s out poison bytes) := by
  unfold State.placeMsg
  repeat' first
    | with_reducible assumption | with_reducible apply State.storeLong_kept | intro _ | split | with_reducible refine Kept.upd ?_

theorem State.sendMsg_kept {s0 s : State} (hk : Kept s0 s) (kind : MsgKind) (dest : Nat) (out : Option (BitVec 24)) (poison : Bool) (bytes : List Byte) :
    Kept s0 (State.sendMsg s kind dest out poison bytes) := by
  unfold State.sendMsg
  repeat' first
    | with_reducible assumption | with_reducible apply State.placeMsg_kept | with_reducible apply State.say_kept

theorem State.takeMsg_kept {s0 s : State} (hk : Kept s0 s) (msg : MsgIn) :
    Kept s0 (State.takeMsg s msg).2.2.2 := by
  show Kept4 s0 _
  unfold State.takeMsg
  repeat' first
    | with_reducible assumption | with_reducible apply State.reach_kept | with_reducible apply State.loadLong_kept | intro _
    | (extract_lets +onlyGivenNames x; first | (clear_value (e : x = _); first | with_reducible refine Kept.byEq s0 e ?_ ?_ | with_reducible refine Kept.byEq3 s0 e ?_ ?_ | with_reducible refine Kept.byEq4 s0 e ?_ ?_ | clear e) | skip)
    | split | with_reducible refine Kept.pair3 (by assumption) ?_ | with_reducible refine Kept.pair4 (by assumption) ?_
    | with_reducible refine Kept3.mk ?_ | with_reducible refine Kept3.of ?_ | with_reducible refine Kept4.mk ?_
    | with_reducible refine Kept4.of ?_ | with_reducible refine Kept.upd ?_

theorem State.park_kept {s0 s : State} (hk : Kept s0 s) (m : MyBucket) (v : RedVal) :
    Kept s0 (State.park s m v) := by
  unfold State.park
  repeat' first
    | with_reducible assumption | with_reducible apply State.poisonRange_kept | with_reducible apply State.putScr_kept
    | with_reducible refine Kept.foldl ?_ ?_ | intro _
    | (extract_lets +onlyGivenNames x; first | (clear_value (e : x = _); first | with_reducible refine Kept.byEq s0 e ?_ ?_ | clear e) | skip)
    | split

theorem State.redFault_kept {s0 s : State} (hk : Kept s0 s) (b : BenchId) (cause : Nat) (bucket : Nat) (src : Nat) :
    Kept s0 (State.redFault s b cause bucket src) := by
  unfold State.redFault
  repeat' first
    | with_reducible assumption | with_reducible apply State.countBench_kept | with_reducible apply State.setReg_kept
    | with_reducible apply State.updBench_kept | with_reducible apply State.benchDeadline_kept | intro _
    | (extract_lets +onlyGivenNames x; first | (clear_value (e : x = _); first | with_reducible refine Kept.byEq s0 e ?_ ?_ | clear e) | skip)
    | split | with_reducible refine Kept.upd ?_

theorem State.redDone_kept {s0 s : State} (hk : Kept s0 s) (b : BenchId) (m : MyBucket) (out : List (BitVec 24)) (v : RedVal) :
    Kept s0 (State.redDone s b m out v) := by
  unfold State.redDone
  repeat' first
    | with_reducible assumption | with_reducible apply State.park_kept | with_reducible apply State.countBench_kept
    | with_reducible apply State.sendMsg_kept | intro _
    | (extract_lets +onlyGivenNames x; first | (clear_value (e : x = _); first | with_reducible refine Kept.byEq s0 e ?_ ?_ | clear e) | skip)
    | split | with_reducible refine Kept.upd ?_

theorem State.redAdvance_kept {s0 s : State} (hk : Kept s0 s) (b : BenchId) (m : MyBucket) (out : List (BitVec 24)) (a0 : List (Nat × Nat × Nat)) :
    Kept s0 (State.redAdvance s b m out a0) := by
  induction a0 generalizing s with
  | nil =>
    unfold State.redAdvance
    repeat' first
      | with_reducible assumption | with_reducible apply State.updBench_kept | with_reducible apply State.redDone_kept
      | with_reducible apply State.countBench_kept | intro _
      | (extract_lets +onlyGivenNames x; first | (clear_value (e : x = _); first | with_reducible refine Kept.byEq s0 e ?_ ?_ | clear e) | skip)
      | split | with_reducible refine Kept.upd ?_
  | cons x0 xs ih =>
    unfold State.redAdvance
    repeat' first
      | with_reducible assumption | with_reducible apply ih | with_reducible apply State.updBench_kept | with_reducible apply State.redDone_kept
      | with_reducible apply State.countBench_kept | intro _
      | (extract_lets +onlyGivenNames x; first | (clear_value (e : x = _); first | with_reducible refine Kept.byEq s0 e ?_ ?_ | clear e) | skip)
      | split | with_reducible refine Kept.upd ?_

theorem State.redStart_kept {s0 s : State} (hk : Kept s0 s) (b : BenchId) (m : MyBucket) (out : List (BitVec 24)) :
    Kept s0 (State.redStart s b m out) := by
  unfold State.redStart
  repeat' first
    | with_reducible assumption | with_reducible apply State.reach_kept | with_reducible apply State.loadLong_kept
    | with_reducible apply State.updBench_kept | with_reducible apply State.storeLong_kept
    | with_reducible apply State.countBench_kept | with_reducible apply State.redAdvance_kept | intro _
    | (extract_lets +onlyGivenNames x; first | (clear_value (e : x = _); first | with_reducible refine Kept.byEq s0 e ?_ ?_ | with_reducible refine Kept.byEq3 s0 e ?_ ?_ | clear e) | skip)
    | split | with_reducible refine Kept.upd ?_

theorem State.redMessage_kept {s0 s : State} (hk : Kept s0 s) (b : BenchId) (m : MyBucket) (src : Nat) (inp : MsgIn) (out : List (BitVec 24)) :
    Kept s0 (State.redMessage s b m src inp out) := by
  unfold State.redMessage
  repeat' first
    | with_reducible assumption | with_reducible apply State.takeMsg_kept | with_reducible apply State.countBench_kept
    | with_reducible apply State.benchDeadline_kept | with_reducible apply State.redFault_kept
    | with_reducible apply State.updBench_kept | with_reducible apply State.redAdvance_kept | intro _
    | (extract_lets +onlyGivenNames x; first | (clear_value (e : x = _); first | with_reducible refine Kept.byEq s0 e ?_ ?_ | with_reducible refine Kept.byEq4 s0 e ?_ ?_ | clear e) | skip)
    | split | with_reducible refine Kept.pair4 (by assumption) ?_ | with_reducible refine Kept.upd ?_

theorem State.moduleNorm_kept {s0 s : State} (hk : Kept s0 s) : Kept s0 (State.moduleNorm s).2.2 := by
  show Kept3 s0 _
  unfold State.moduleNorm
  extract_lets +onlyGivenNames ran ran2 r
  have hr : Kept s0 r.2 := Kept.foldl2 hk fun x a hx => State.load_kept hx _ _
  clear_value r ran2
  split
  · exact hk
  · exact hr

theorem State.normGlobal_kept {s0 s : State} (hk : Kept s0 s) (out : List (BitVec 24)) (v : List Nat) (poison : Bool) :
    Kept s0 (State.normGlobal s out v poison) := by
  unfold State.normGlobal
  repeat' first
    | with_reducible assumption | with_reducible apply State.poisonRange_kept | with_reducible apply State.putScr_kept
    | with_reducible apply State.sendMsg_kept | with_reducible refine Kept.foldl ?_ ?_ | intro _
    | (extract_lets +onlyGivenNames x; first | (clear_value (e : x = _); first | with_reducible refine Kept.byEq s0 e ?_ ?_ | clear e) | skip)
    | split

theorem State.normAdvance_kept {s0 s : State} (hk : Kept s0 s) (out : List (BitVec 24)) (a0 : List (Nat × Nat × Nat)) :
    Kept s0 (State.normAdvance s out a0) := by
  induction a0 generalizing s with
  | nil =>
    unfold State.normAdvance
    repeat' first
      | with_reducible assumption | with_reducible apply State.normGlobal_kept | with_reducible apply State.sendMsg_kept | intro _
      | (extract_lets +onlyGivenNames x; first | (clear_value (e : x = _); first | with_reducible refine Kept.byEq s0 e ?_ ?_ | clear e) | skip)
      | split | with_reducible refine Kept.upd ?_
  | cons x0 xs ih =>
    unfold State.normAdvance
    repeat' first
      | with_reducible assumption | with_reducible apply ih | with_reducible apply State.normGlobal_kept | with_reducible apply State.sendMsg_kept | intro _
      | (extract_lets +onlyGivenNames x; first | (clear_value (e : x = _); first | with_reducible refine Kept.byEq s0 e ?_ ?_ | clear e) | skip)
      | split | with_reducible refine Kept.upd ?_

theorem State.normMessage_kept {s0 s : State} (hk : Kept s0 s) (src : Nat) (down : Bool) (inp : MsgIn) (out : List (BitVec 24)) :
    Kept s0 (State.normMessage s src down inp out) := by
  unfold State.normMessage
  extract_lets +onlyGivenNames n me nodes
  split
  · exact hk
  · split
    · exact State.normAdvance_kept (Kept.upd (State.moduleNorm_kept hk)) _ _
    · have ht := State.takeMsg_kept hk inp
      generalize s.takeMsg inp = e at ht
      obtain ⟨msg, late, poison, t⟩ := e
      dsimp -zeta only at ht ⊢
      extract_lets +onlyGivenNames c bad fault v
      have hf : ∀ s, Kept s0 s → Kept s0 (fault s) := by
        intro s hs
        unfold fault; clear_value c
        split
        · split
          · exact State.benchDeadline_kept hs _
          · split
            · exact hs
            · exact State.redFault_kept hs _ _ _ _
        · exact hs
      clear_value fault v bad
      split
      · split
        · exact State.normGlobal_kept (hf _ ht) _ _ _
        · exact hk
      · split
        · exact hk
        · exact State.normAdvance_kept (Kept.upd (hf _ ht)) _ _

theorem State.ownerWeights_kept {s0 s : State} (hk : Kept s0 s) (m : MyBucket) :
    Kept s0 (State.ownerWeights s m).2.2 := by
  show Kept3 s0 _
  unfold State.ownerWeights
  repeat' first
    | with_reducible assumption | with_reducible apply State.load_kept | with_reducible refine Kept.foldl ?_ ?_
    | with_reducible refine Kept.foldl2 ?_ ?_ | with_reducible refine Kept2.foldl ?_ ?_ | with_reducible refine Kept3.foldl ?_ ?_
    | with_reducible refine Kept4.foldl ?_ ?_ | intro _
    | (extract_lets +onlyGivenNames x; first | (clear_value (e : x = _); first | with_reducible refine Kept.byEq s0 e ?_ ?_ | with_reducible refine Kept.byEq3 s0 e ?_ ?_ | clear e) | skip)
    | split | with_reducible refine Kept.pair3 (by assumption) ?_ | with_reducible refine Kept3.mk ?_
    | with_reducible refine Kept3.of ?_ | with_reducible refine Kept.upd ?_

theorem State.paramSend_kept {s0 s : State} (hk : Kept s0 s) (m : MyBucket) (out : List (BitVec 24)) (poison : Bool) (body : List Byte) :
    Kept s0 (State.paramSend s m out poison body) := by
  unfold State.paramSend
  repeat' first
    | with_reducible assumption | with_reducible apply State.sendMsg_kept | with_reducible refine Kept.foldl ?_ ?_ | intro _

theorem State.paramStep_kept {s0 s : State} (hk : Kept s0 s) (m : MyBucket) (src : Nat) (inp : MsgIn) (out : List (BitVec 24)) :
    Kept s0 (State.paramStep s m src inp out) := by
  unfold State.paramStep
  repeat' first
    | with_reducible assumption | with_reducible apply State.ownerWeights_kept | with_reducible apply State.paramSend_kept
    | with_reducible apply State.takeMsg_kept | with_reducible apply State.benchDeadline_kept
    | with_reducible apply State.redFault_kept | with_reducible apply State.storeLong_kept | intro _
    | (extract_lets +onlyGivenNames x; first | (clear_value (e : x = _); first | with_reducible refine Kept.byEq s0 e ?_ ?_ | with_reducible refine Kept.byEq3 s0 e ?_ ?_ | with_reducible refine Kept.byEq4 s0 e ?_ ?_ | clear e) | skip)
    | split | with_reducible refine Kept.pair3 (by assumption) ?_ | with_reducible refine Kept.pair4 (by assumption) ?_
    | with_reducible refine Kept.upd ?_

theorem State.digestWrite_kept {s0 s : State} (hk : Kept s0 s) (h : Hub) :
    Kept s0 (State.digestWrite s h) := by
  unfold State.digestWrite
  repeat' first
    | with_reducible assumption | with_reducible apply State.updPort_kept | with_reducible apply State.countHub_kept
    | with_reducible apply State.storeLong_kept | with_reducible refine Kept.foldl ?_ ?_ | intro _
    | (extract_lets +onlyGivenNames x; first | (clear_value (e : x = _); first | with_reducible refine Kept.byEq s0 e ?_ ?_ | clear e) | skip)
    | split | with_reducible refine Kept.upd ?_

theorem State.archiveDigest_kept {s0 s : State} (hk : Kept s0 s) (n : Nat) (pos : Nat) (v : Nat) (again : Bool) :
    Kept s0 (State.archiveDigest s n pos v again) := by
  unfold State.archiveDigest
  repeat' first
    | with_reducible assumption | intro _
    | (extract_lets +onlyGivenNames x; first | (clear_value (e : x = _); first | with_reducible refine Kept.byEq s0 e ?_ ?_ | clear e) | skip)
    | split | with_reducible refine Kept.upd ?_

theorem State.stepDigest_kept {s0 s : State} (hk : Kept s0 s) :
    Kept s0 (State.stepDigest s) := by
  unfold State.stepDigest
  repeat' first
    | with_reducible assumption | with_reducible apply State.setReg_kept | with_reducible apply State.archiveDigest_kept
    | with_reducible apply State.say_kept | with_reducible refine Kept.foldl ?_ ?_ | intro _
    | (extract_lets +onlyGivenNames x; first | (clear_value (e : x = _); first | with_reducible refine Kept.byEq s0 e ?_ ?_ | clear e) | skip)
    | split | with_reducible refine Kept.upd ?_

theorem State.digestCompare_kept {s0 s : State} (hk : Kept s0 s) (n : Nat) (pairs : List DigestPair) (first : List DigestRun) (replay : List DigestRun) :
    Kept s0 (State.digestCompare s n pairs first replay) := by
  unfold State.digestCompare
  repeat' first
    | with_reducible assumption | with_reducible apply State.say_kept | with_reducible apply State.log_kept
    | with_reducible refine Kept.foldl ?_ ?_ | intro _
    | (extract_lets +onlyGivenNames x; first | (clear_value (e : x = _); first | with_reducible refine Kept.byEq s0 e ?_ ?_ | clear e) | skip)
    | split | with_reducible refine Kept.upd ?_

theorem State.setLnk_kept {s0 s : State} (hk : Kept s0 s) (p : PortId) (x : Nat) :
    Kept s0 (State.setLnk s p x) := by
  unfold State.setLnk
  repeat' first
    | with_reducible assumption | with_reducible apply State.setFld_kept

theorem State.linkFault_kept {s0 s : State} (hk : Kept s0 s) (p : PortId) (cause : Nat) :
    Kept s0 (State.linkFault s p cause) := by
  unfold State.linkFault
  repeat' first
    | with_reducible assumption | with_reducible apply State.countHub_kept | with_reducible apply State.setReg_kept
    | with_reducible apply State.updPort_kept | intro _
    | (extract_lets +onlyGivenNames x; first | (clear_value (e : x = _); first | with_reducible refine Kept.byEq s0 e ?_ ?_ | clear e) | skip)
    | split | with_reducible refine Kept.upd ?_

theorem State.tbFollow_kept {s0 s : State} (hk : Kept s0 s) : Kept s0 (State.tbFollow s) := by
  unfold State.tbFollow
  split
  · exact State.setFld_kept hk _ _ _ _
  · extract_lets +onlyGivenNames s1
    have h1 : Kept s0 s1 := State.setFld_kept hk _ _ _ _
    clear_value s1
    have h2 : ∀ g, Kept s0 { s1 with mgt := g } := fun g => Kept.upd h1
    dsimp only
    split
    · exact h2 _
    · exact h1
    · split
      · exact State.setFld_kept (h2 _) _ _ _ _
      · exact h2 _

theorem State.fence_kept {s0 s : State} (hk : Kept s0 s) (p : PortId) (cause : Nat) :
    Kept s0 (State.fence s p cause) := by
  unfold State.fence
  repeat' first
    | with_reducible assumption | with_reducible apply State.linkFault_kept | with_reducible apply State.setLnk_kept
    | with_reducible apply State.updPort_kept | with_reducible apply State.say_kept | with_reducible apply State.tbFollow_kept
    | intro _
    | (extract_lets +onlyGivenNames x; first | (clear_value (e : x = _); first | with_reducible refine Kept.byEq s0 e ?_ ?_ | clear e) | skip)
    | split | with_reducible refine Kept.upd ?_

theorem State.retryFailed_kept {s0 s : State} (hk : Kept s0 s) (p : PortId) :
    Kept s0 (State.retryFailed s p) := by
  unfold State.retryFailed
  repeat' first
    | with_reducible assumption | with_reducible apply State.updPort_kept | with_reducible apply State.linkFault_kept
    | with_reducible apply State.fence_kept | intro _
    | (extract_lets +onlyGivenNames x; first | (clear_value (e : x = _); first | with_reducible refine Kept.byEq s0 e ?_ ?_ | clear e) | skip)
    | split | with_reducible refine Kept.upd ?_

theorem State.haulDone_kept {s0 s : State} (hk : Kept s0 s) (h : Hub) (entry : Nat) (bytes : Nat) (out : Bool) :
    Kept s0 (State.haulDone s h entry bytes out) := by
  unfold State.haulDone
  repeat' first
    | with_reducible assumption | with_reducible apply State.countHub_kept | with_reducible apply State.setReg_kept
    | with_reducible apply State.updHub_kept | intro _
    | (extract_lets +onlyGivenNames x; first | (clear_value (e : x = _); first | with_reducible refine Kept.byEq s0 e ?_ ?_ | clear e) | skip)
    | split | with_reducible refine Kept.upd ?_

theorem State.takeSlot_kept {s0 s : State} (hk : Kept s0 s) (p : PortId) (vc : Nat) :
    Kept s0 (State.takeSlot s p vc) := by
  unfold State.takeSlot
  repeat' first
    | with_reducible assumption | with_reducible apply State.reach_kept | with_reducible apply State.updPort_kept | intro _
    | split | with_reducible refine Kept.upd ?_

theorem State.wire_kept {s0 s : State} (hk : Kept s0 s) (p : PortId) (f : Flit) :
    Kept s0 (State.wire s p f) := by
  unfold State.wire
  repeat' first
    | with_reducible assumption | with_reducible apply State.say_kept

theorem State.sendFlit_kept {s0 s : State} (hk : Kept s0 s) (p : PortId) (vc : Nat) (xfer : Nat) (fidx : Nat) (last : Bool) (bytes : List Byte) :
    Kept s0 (State.sendFlit s p vc xfer fidx last bytes) := by
  unfold State.sendFlit
  repeat' first
    | with_reducible assumption | with_reducible apply State.updPort_kept | with_reducible apply State.countHub_kept
    | with_reducible apply State.wire_kept | intro _
    | (extract_lets +onlyGivenNames x; first | (clear_value (e : x = _); first | with_reducible refine Kept.byEq s0 e ?_ ?_ | clear e) | skip)
    | with_reducible refine Kept.upd ?_

theorem State.sendControl_kept {s0 s : State} (hk : Kept s0 s) (p : PortId) :
    Kept s0 (State.sendControl s p) := by
  unfold State.sendControl
  repeat' first
    | with_reducible assumption | with_reducible apply State.updPort_kept | with_reducible apply State.say_kept | intro _ | split
    | with_reducible refine Kept.upd ?_

theorem State.sendIdle_kept {s0 s : State} (hk : Kept s0 s) (p : PortId) :
    Kept s0 (State.sendIdle s p) := by
  unfold State.sendIdle
  repeat' first
    | with_reducible assumption | with_reducible apply State.updPort_kept | with_reducible apply State.say_kept | intro _
    | with_reducible refine Kept.upd ?_

theorem State.drain_kept {s0 a1 : State} (hk : Kept s0 a1) (a0 : Nat) (a2 : PortId) :
    Kept s0 (State.drain a0 a1 a2) := by
  induction a0 generalizing a1 a2 with
  | zero =>
    unfold State.drain
    repeat' first
      | with_reducible assumption | with_reducible apply State.takeSlot_kept | with_reducible apply State.updPort_kept
      | with_reducible apply State.sendFlit_kept | intro _
      | (extract_lets +onlyGivenNames x; first | (clear_value (e : x = _); first | with_reducible refine Kept.byEq s0 e ?_ ?_ | clear e) | skip)
      | split | with_reducible refine Kept.upd ?_
  | succ n0 ih =>
    unfold State.drain
    repeat' first
      | with_reducible assumption | with_reducible apply ih | with_reducible apply State.takeSlot_kept | with_reducible apply State.updPort_kept
      | with_reducible apply State.sendFlit_kept | intro _
      | (extract_lets +onlyGivenNames x; first | (clear_value (e : x = _); first | with_reducible refine Kept.byEq s0 e ?_ ?_ | clear e) | skip)
      | split | with_reducible refine Kept.upd ?_

theorem State.flitSend_kept {s0 s : State} (hk : Kept s0 s) (p : PortId) (entry : Nat) (vc : Nat) (last : Bool) (body : List Byte) :
    Kept s0 (State.flitSend s p entry vc last body) := by
  unfold State.flitSend
  repeat' first
    | with_reducible assumption | with_reducible apply State.countHub_kept | with_reducible apply State.reach_kept
    | with_reducible apply State.loadLong_kept | with_reducible apply State.log_kept | with_reducible apply State.haulFault_kept
    | with_reducible apply State.hubDeadline_kept | with_reducible apply State.updPort_kept
    | with_reducible apply State.haulDone_kept | with_reducible apply State.sendFlit_kept
    | with_reducible apply State.takeSlot_kept | intro _
    | (extract_lets +onlyGivenNames x; first | (clear_value (e : x = _); first | with_reducible refine Kept.byEq s0 e ?_ ?_ | with_reducible refine Kept.byEq3 s0 e ?_ ?_ | clear e) | skip)
    | split | with_reducible refine Kept.pair3 (by assumption) ?_ | with_reducible refine Kept.upd ?_

theorem State.landBytes_kept {s0 s : State} (hk : Kept s0 s) (a : Nat) (bs : List Byte) (poison : Bool) (fin : Bool) (deadline : Nat) :
    Kept s0 (State.landBytes s a bs poison fin deadline) := by
  unfold State.landBytes
  repeat' first
    | with_reducible assumption | with_reducible apply State.landAt_kept | with_reducible apply State.storeLong_kept
    | with_reducible refine Kept.foldl ?_ ?_ | intro _
    | (extract_lets +onlyGivenNames x; first | (clear_value (e : x = _); first | with_reducible refine Kept.byEq s0 e ?_ ?_ | clear e) | skip)
    | split | with_reducible refine Kept.upd ?_

theorem State.matchFlit_kept {s0 s : State} (hk : Kept s0 s) (p : PortId) (f : Flit) : Kept s0 (State.matchFlit s p f) := by
  unfold State.matchFlit
  extract_lets +onlyGivenNames vc xfer n body freeOne onward hold ent
  have hfree : ∀ s, Kept s0 s → Kept s0 (freeOne s) := fun _ h => State.updPort_kept h _ _
  have hon : ∀ s q, Kept s0 s → Kept s0 (onward s q) := fun _ _ h => State.updPort_kept h _ _
  have hhold : ∀ s, Kept s0 s → Kept s0 (hold s) := fun _ h => State.updPort_kept h _ _
  clear_value freeOne onward hold ent
  split
  · extract_lets +onlyGivenNames q g
    clear_value q g
    split
    · extract_lets +onlyGivenNames s1
      have h1 : Kept s0 s1 := State.updPort_kept (hhold _ hk) _ _
      clear_value s1
      split
      · exact State.drain_kept (hon _ _ h1) _ _
      · exact h1
    · extract_lets +onlyGivenNames a ok s1
      have h1 : Kept s0 s1 := hfree _ hk
      clear_value s1
      split
      · exact h1
      · split
        · exact State.poisonLong_kept (State.linkFault_kept h1 _ _) _ _
        · extract_lets +onlyGivenNames told late s2 s3 s4
          have h3 : Kept s0 s3 := State.landBytes_kept (State.updPort_kept h1 _ _) _ _ _ _ _
          clear_value s3
          have h4 : Kept s0 s4 := by
            unfold s4; split
            · exact State.haulDone_kept h3 _ _ _ _
            · exact h3
          clear_value s4
          split
          · exact State.consumerDeadline_kept h4.upd _
          · exact h4
  · split
    · extract_lets +onlyGivenNames kids s1
      have h1 : Kept s0 s1 := hfree _ hk
      clear_value s1
      refine Kept.foldl h1 fun x a hx => ?_
      split
      · exact State.drain_kept (State.updPort_kept hx _ _) _ _
      · exact hx
    · split
      · exact hfree _ hk
      · exact State.linkFault_kept (hfree _ hk) _ _

theorem State.retrained_kept {s0 s : State} (hk : Kept s0 s) (pos : Nat) (port : Nat) :
    Kept s0 (State.retrained s pos port) := by
  unfold State.retrained
  repeat' first
    | with_reducible assumption | with_reducible apply State.say_kept | intro _
    | (extract_lets +onlyGivenNames x; first | (clear_value (e : x = _); first | with_reducible refine Kept.byEq s0 e ?_ ?_ | clear e) | skip)
    | split | with_reducible refine Kept.upd ?_

theorem State.hear_kept {s0 s : State} (hk : Kept s0 s) (r : Report) : Kept s0 (State.hear s r) := by
  unfold State.hear
  repeat' first
    | with_reducible assumption | with_reducible apply State.loadReported_kept | with_reducible apply State.archiveDigest_kept
    | with_reducible apply State.retrained_kept | split | with_reducible refine Kept.upd ?_

theorem State.flitReceive_kept {s0 s : State} (hk : Kept s0 s) (p : PortId) (f : Flit) (rx : FlitIn) :
    Kept s0 (State.flitReceive s p f rx) := by
  unfold State.flitReceive
  repeat' first
    | with_reducible assumption | with_reducible apply State.satFld_kept | with_reducible apply State.countHub_kept
    | with_reducible apply State.linkFault_kept | with_reducible apply State.updPort_kept
    | with_reducible apply State.matchFlit_kept | with_reducible apply State.hear_kept | intro _
    | (extract_lets +onlyGivenNames x; first | (clear_value (e : x = _); first | with_reducible refine Kept.byEq s0 e ?_ ?_ | clear e) | skip)
    | split | with_reducible refine Kept.upd ?_

theorem State.resend_kept {s0 s : State} (hk : Kept s0 s) (p : PortId) (vc : Nat) (seq : Nat) :
    Kept s0 (State.resend s p vc seq) := by
  unfold State.resend
  repeat' first
    | with_reducible assumption | with_reducible apply State.retryFailed_kept | with_reducible apply State.satFld_kept
    | with_reducible apply State.countHub_kept | with_reducible apply State.updPort_kept
    | with_reducible apply State.sendControl_kept | with_reducible apply State.wire_kept | with_reducible refine Kept.foldl ?_ ?_
    | intro _
    | (extract_lets +onlyGivenNames x; first | (clear_value (e : x = _); first | with_reducible refine Kept.byEq s0 e ?_ ?_ | clear e) | skip)
    | split | with_reducible refine Kept.upd ?_

theorem State.tbFault_kept {s0 s : State} (hk : Kept s0 s) :
    Kept s0 (State.tbFault s) := by
  unfold State.tbFault
  repeat' first
    | with_reducible assumption | with_reducible apply State.setFld_kept | with_reducible apply State.beyond_kept
    | with_reducible apply State.say_kept | split

theorem State.syncTo_kept {s0 s : State} (hk : Kept s0 s) (ts : List (BitVec 64)) : Kept s0 (State.syncTo s ts) := by
  unfold State.syncTo
  extract_lets +onlyGivenNames o free lim step corr m s1 s2
  have h1 : Kept s0 s1 := hk.upd
  have h2 : Kept s0 s2 := State.setFld_kept h1 _ _ _ _
  clear_value s2 s1
  with_reducible refine Kept.ite ?_ (Kept.ite h2 ?_)
  · with_reducible exact State.setFld_kept h2 _ _ _ _
  · exact State.tbFault_kept h2

theorem State.controlReceive_kept {s0 s : State} (hk : Kept s0 s) (p : PortId) (f : CtrlFlit) (ok : Bool) :
    Kept s0 (State.controlReceive s p f ok) := by
  unfold State.controlReceive
  repeat' first
    | with_reducible assumption | with_reducible apply State.countHub_kept | with_reducible apply State.updPort_kept
    | with_reducible apply State.resend_kept | with_reducible apply State.raiseTerm_kept | with_reducible apply State.syncTo_kept
    | with_reducible apply State.drain_kept | with_reducible refine Kept.foldl ?_ ?_ | intro _
    | (extract_lets +onlyGivenNames x; first | (clear_value (e : x = _); first | with_reducible refine Kept.byEq s0 e ?_ ?_ | clear e) | skip)
    | split | with_reducible refine Kept.upd ?_

theorem State.trainStart_kept {s0 s : State} (hk : Kept s0 s) (p : PortId) (request : Bool) :
    Kept s0 (State.trainStart s p request) := by
  unfold State.trainStart
  repeat' first
    | with_reducible assumption | with_reducible apply State.setLnk_kept | with_reducible apply State.updPort_kept | intro _
    | (extract_lets +onlyGivenNames x; first | (clear_value (e : x = _); first | with_reducible refine Kept.byEq s0 e ?_ ?_ | clear e) | skip)
    | split | with_reducible refine Kept.upd ?_

theorem State.lanesLocked_kept {s0 s : State} (hk : Kept s0 s) (p : PortId) :
    Kept s0 (State.lanesLocked s p) := by
  unfold State.lanesLocked
  repeat' first
    | with_reducible assumption | with_reducible apply State.setLnk_kept | with_reducible apply State.say_kept | split

theorem State.trainTimeout_kept {s0 s : State} (hk : Kept s0 s) (p : PortId) :
    Kept s0 (State.trainTimeout s p) := by
  unfold State.trainTimeout
  repeat' first
    | with_reducible assumption | with_reducible apply State.reach_kept | with_reducible apply State.setLnk_kept
    | with_reducible apply State.linkFault_kept | split

theorem State.identity_kept {s0 s : State} (hk : Kept s0 s) (p : PortId) (mod : Nat) (hub : Nat) (port : Nat) :
    Kept s0 (State.identity s p mod hub port) := by
  unfold State.identity
  repeat' first
    | with_reducible assumption | with_reducible apply State.setFld_kept | with_reducible apply State.setLnk_kept
    | with_reducible apply State.updPort_kept | with_reducible apply State.tbFollow_kept
    | with_reducible apply State.retrained_kept | with_reducible apply State.linkFault_kept | with_reducible apply State.log_kept
    | intro _
    | (extract_lets +onlyGivenNames x; first | (clear_value (e : x = _); first | with_reducible refine Kept.byEq s0 e ?_ ?_ | clear e) | skip)
    | split | with_reducible refine Kept.upd ?_

theorem State.loseLane_kept {s0 s : State} (hk : Kept s0 s) (p : PortId) (lane : Nat) :
    Kept s0 (State.loseLane s p lane) := by
  unfold State.loseLane
  repeat' first
    | with_reducible assumption | with_reducible apply State.beyond_kept | with_reducible apply State.countHub_kept
    | with_reducible apply State.updPort_kept | with_reducible apply State.fence_kept | intro _
    | (extract_lets +onlyGivenNames x; first | (clear_value (e : x = _); first | with_reducible refine Kept.byEq s0 e ?_ ?_ | clear e) | skip)
    | split | with_reducible refine Kept.upd ?_

theorem State.spareSwitch_kept {s0 s : State} (hk : Kept s0 s) (p : PortId) :
    Kept s0 (State.spareSwitch s p) := by
  unfold State.spareSwitch
  repeat' first
    | with_reducible assumption | with_reducible apply State.setFld_kept | with_reducible apply State.updPort_kept
    | with_reducible apply State.service_kept | intro _ | split | with_reducible refine Kept.upd ?_

theorem State.moveModule_kept {s0 s : State} (hk : Kept s0 s) (m : Nat) :
    Kept s0 (State.moveModule s m) := by
  unfold State.moveModule
  repeat' first
    | with_reducible assumption | with_reducible apply State.say_kept | intro _ | split | with_reducible refine Kept.upd ?_

theorem State.stopAll_kept {s0 s : State} (hk : Kept s0 s) (why : Nat) : Kept s0 (State.stopAll s why) := by
  have h1 : ∀ j, Kept s0 { s with job := j } := fun j => Kept.upd hk
  unfold State.stopAll
  dsimp only
  refine State.say_kept ?_ _ _
  split
  · exact State.setTabState_kept (h1 _) _
  · exact h1 _

theorem State.portFenced_kept {s0 s : State} (hk : Kept s0 s) (u : UnitRef) (p : PortId) (carries : Bool) (neighbour : Nat) :
    Kept s0 (State.portFenced s u p carries neighbour) := by
  unfold State.portFenced
  repeat' first
    | with_reducible assumption | with_reducible apply State.stopAll_kept | with_reducible apply State.say_kept | intro _
    | (extract_lets +onlyGivenNames x; first | (clear_value (e : x = _); first | with_reducible refine Kept.byEq s0 e ?_ ?_ | clear e) | skip)
    | split | with_reducible refine Kept.upd ?_

theorem State.retrainFailed_kept {s0 s : State} (hk : Kept s0 s) (a : Nat) (b : Nat) (aOk : Bool) (bOk : Bool) :
    Kept s0 (State.retrainFailed s a b aOk bOk) := by
  unfold State.retrainFailed
  repeat' first
    | with_reducible assumption | with_reducible apply State.reach_kept | with_reducible apply State.beyond_kept
    | with_reducible apply State.moveModule_kept | with_reducible apply State.say_kept | intro _
    | (extract_lets +onlyGivenNames x; first | (clear_value (e : x = _); first | with_reducible refine Kept.byEq s0 e ?_ ?_ | clear e) | skip)
    | split | with_reducible refine Kept.upd ?_

theorem State.heartbeat_kept {s0 s : State} (hk : Kept s0 s) :
    Kept s0 (State.heartbeat s) := by
  unfold State.heartbeat
  repeat' first
    | with_reducible assumption | with_reducible apply State.reach_kept | with_reducible apply State.say_kept | intro _
    | (extract_lets +onlyGivenNames x; first | (clear_value (e : x = _); first | with_reducible refine Kept.byEq s0 e ?_ ?_ | clear e) | skip)
    | split | with_reducible refine Kept.upd ?_

theorem State.takeOver_kept {s0 s : State} (hk : Kept s0 s) :
    Kept s0 (State.takeOver s) := by
  unfold State.takeOver
  repeat' first
    | with_reducible assumption | with_reducible apply State.reach_kept | with_reducible apply State.raiseTerm_kept
    | with_reducible apply State.setFld_kept | with_reducible apply State.tbFollow_kept | with_reducible apply State.say_kept
    | with_reducible apply State.moveModule_kept | intro _
    | (extract_lets +onlyGivenNames x; first | (clear_value (e : x = _); first | with_reducible refine Kept.byEq s0 e ?_ ?_ | clear e) | skip)
    | split | with_reducible refine Kept.upd ?_

theorem State.holdTimeout_kept {s0 s : State} (hk : Kept s0 s) :
    Kept s0 (State.holdTimeout s) := by
  unfold State.holdTimeout
  repeat' first
    | with_reducible assumption | with_reducible apply State.reach_kept | with_reducible apply State.tbFault_kept | split
    | with_reducible refine Kept.upd ?_

theorem State.ucieFault_kept {s0 s : State} (hk : Kept s0 s) (die : Nat) :
    Kept s0 (State.ucieFault s die) := by
  unfold State.ucieFault
  repeat' first
    | with_reducible assumption | with_reducible apply State.countDie_kept | with_reducible apply State.log_kept
    | with_reducible apply State.countHub_kept | split | with_reducible refine Kept.upd ?_

theorem State.stage_kept {s0 a1 : State} (hk : Kept s0 a1) (h : Hub) (deadline : Nat) (a0 : Nat) (a2 : Nat) (a3 : Nat) :
    Kept s0 (State.stage h deadline a0 a1 a2 a3).2 := by
  induction a0 generalizing a1 a2 a3 with
  | zero =>
    unfold State.stage
    repeat' first
      | with_reducible assumption | with_reducible apply State.translate_kept | with_reducible apply State.loadAt_kept
      | with_reducible apply State.landLine_kept | with_reducible refine Kept.foldl ?_ ?_ | with_reducible refine Kept.foldl2 ?_ ?_
      | with_reducible refine Kept2.foldl ?_ ?_ | with_reducible refine Kept3.foldl ?_ ?_ | with_reducible refine Kept4.foldl ?_ ?_
      | intro _
      | (extract_lets +onlyGivenNames x; first | (clear_value (e : x = _); first | with_reducible refine Kept.byEq s0 e ?_ ?_ | with_reducible refine Kept.byEq2 s0 e ?_ ?_ | with_reducible refine Kept.byEq3 s0 e ?_ ?_ | clear e) | skip)
      | split | with_reducible refine Kept.pair2 (by assumption) ?_ | with_reducible refine Kept.pair3 (by assumption) ?_
      | with_reducible refine Kept2.mk ?_ | with_reducible refine Kept2.of ?_ | with_reducible refine Kept3.mk ?_
      | with_reducible refine Kept3.of ?_ | with_reducible refine Kept.upd ?_
  | succ n0 ih =>
    show Kept2 s0 _
    unfold State.stage
    repeat' first
      | with_reducible assumption | with_reducible apply ih | with_reducible apply State.translate_kept | with_reducible apply State.loadAt_kept
      | with_reducible apply State.landLine_kept | with_reducible refine Kept.foldl ?_ ?_ | with_reducible refine Kept.foldl2 ?_ ?_
      | with_reducible refine Kept2.foldl ?_ ?_ | with_reducible refine Kept3.foldl ?_ ?_ | with_reducible refine Kept4.foldl ?_ ?_
      | intro _
      | (extract_lets +onlyGivenNames x; first | (clear_value (e : x = _); first | with_reducible refine Kept.byEq s0 e ?_ ?_ | with_reducible refine Kept.byEq2 s0 e ?_ ?_ | with_reducible refine Kept.byEq3 s0 e ?_ ?_ | clear e) | skip)
      | split | with_reducible refine Kept.pair2 (by assumption) ?_ | with_reducible refine Kept.pair3 (by assumption) ?_
      | with_reducible refine Kept2.mk ?_ | with_reducible refine Kept2.of ?_ | with_reducible refine Kept3.mk ?_
      | with_reducible refine Kept3.of ?_ | with_reducible refine Kept.upd ?_

theorem State.stageVault_kept {s0 s : State} (hk : Kept s0 s) (h : Hub) (d : HaulDesc) :
    Kept s0 (State.stageVault s h d) := by
  unfold State.stageVault
  repeat' first
    | with_reducible assumption | with_reducible apply State.satFld_kept | with_reducible apply State.countHub_kept
    | with_reducible apply State.updHub_kept | with_reducible apply State.log_kept | with_reducible apply State.say_kept
    | with_reducible apply State.stage_kept | with_reducible apply State.haulFault_kept | intro _
    | (extract_lets +onlyGivenNames x; first | (clear_value (e : x = _); first | with_reducible refine Kept.byEq s0 e ?_ ?_ | with_reducible refine Kept.byEq2 s0 e ?_ ?_ | clear e) | skip)
    | split | with_reducible refine Kept.upd ?_

theorem State.haulStart_kept {s0 s : State} (hk : Kept s0 s) (h : Hub) (b : BitVec 512) : Kept s0 (State.haulStart s h b) := by
  have hg : ∀ s, Kept s0 s → Kept s0 (State.haulStart.go h b s) := by
    intro s hk
    unfold State.haulStart.go
    extract_lets +onlyGivenNames d
    with_reducible refine Kept.ite hk (Kept.ite ?_ ?_)
    · exact State.haulFault_kept hk _ _ _
    · extract_lets +onlyGivenNames f s1
      have h1 : Kept s0 s1 := State.fenceHit_kept hk _
      clear_value f s1
      with_reducible refine Kept.ite h1 (Kept.ite ?_ ?_)
      · exact State.stageVault_kept h1 _ _
      · exact State.updHub_kept (State.setReg_kept h1 _ _) _ _
  unfold State.haulStart
  split
  · with_reducible exact Kept.ite (hg _ (State.reach_kept hk _)) hk
  · exact hg _ hk

theorem State.hashAt_kept {s0 s : State} (hk : Kept s0 s) (a : Nat) (n : Nat) :
    Kept s0 (State.hashAt s a n).2.2 := by
  show Kept3 s0 _
  unfold State.hashAt
  repeat' first
    | with_reducible assumption | with_reducible apply State.loadLong_kept | intro _
    | (extract_lets +onlyGivenNames x; first | (clear_value (e : x = _); first | with_reducible refine Kept.byEq s0 e ?_ ?_ | with_reducible refine Kept.byEq3 s0 e ?_ ?_ | clear e) | skip)
    | with_reducible refine Kept3.mk ?_ | with_reducible refine Kept3.of ?_

theorem State.manifest_kept {s0 s : State} (hk : Kept s0 s) (n : Nat) :
    Kept s0 (State.manifest s n).2.2 := by
  show Kept3 s0 _
  unfold State.manifest
  repeat' first
    | with_reducible assumption | with_reducible apply State.hashAt_kept | with_reducible refine Kept.foldl ?_ ?_
    | with_reducible refine Kept.foldl2 ?_ ?_ | with_reducible refine Kept2.foldl ?_ ?_ | with_reducible refine Kept3.foldl ?_ ?_
    | with_reducible refine Kept4.foldl ?_ ?_ | intro _
    | (extract_lets +onlyGivenNames x; first | (clear_value (e : x = _); first | with_reducible refine Kept.byEq s0 e ?_ ?_ | with_reducible refine Kept.byEq3 s0 e ?_ ?_ | clear e) | skip)
    | with_reducible refine Kept3.mk ?_ | with_reducible refine Kept3.of ?_

theorem State.writeRecord_kept {s0 s : State} (hk : Kept s0 s) (kind : Nat) (epoch : Nat) (pos : Nat) (cursor : Nat) (man : List Byte) (maddr : Nat) :
    Kept s0 (State.writeRecord s kind epoch pos cursor man maddr) := by
  unfold State.writeRecord
  repeat' first
    | with_reducible assumption | with_reducible apply State.storeLong_kept | with_reducible refine Kept.foldl ?_ ?_ | intro _
    | (extract_lets +onlyGivenNames x; first | (clear_value (e : x = _); first | with_reducible refine Kept.byEq s0 e ?_ ?_ | clear e) | skip)
    | split | with_reducible refine Kept.upd ?_

theorem State.replicaOk_kept {s0 s : State} (hk : Kept s0 s) (man : List Byte) :
    Kept s0 (State.replicaOk s man).2 := by
  show Kept2 s0 _
  unfold State.replicaOk
  repeat' first
    | with_reducible assumption | with_reducible apply State.hashAt_kept | with_reducible refine Kept.foldl ?_ ?_
    | with_reducible refine Kept.foldl2 ?_ ?_ | with_reducible refine Kept2.foldl ?_ ?_ | with_reducible refine Kept3.foldl ?_ ?_
    | with_reducible refine Kept4.foldl ?_ ?_ | intro _
    | (extract_lets +onlyGivenNames x; first | (clear_value (e : x = _); first | with_reducible refine Kept.byEq s0 e ?_ ?_ | with_reducible refine Kept.byEq2 s0 e ?_ ?_ | with_reducible refine Kept.byEq3 s0 e ?_ ?_ | clear e) | skip)
    | with_reducible refine Kept2.mk ?_ | with_reducible refine Kept2.of ?_ | with_reducible refine Kept3.mk ?_
    | with_reducible refine Kept3.of ?_

theorem State.rowDone_kept {s0 s : State} (hk : Kept s0 s) (r : Nat) (f : State → State) (hff : ∀ x, Kept s0 x → Kept s0 (f x)) :
    Kept s0 (State.rowDone s r f) := by
  unfold State.rowDone
  repeat' first
    | with_reducible assumption | with_reducible apply hff | split | with_reducible refine Kept.upd ?_

theorem State.manifestRow_kept {s0 s : State} (hk : Kept s0 s) :
    Kept s0 (State.manifestRow s) := by
  unfold State.manifestRow
  repeat' first
    | with_reducible assumption | with_reducible apply State.manifest_kept | with_reducible apply State.haulFault_kept
    | with_reducible apply State.storeLong_kept | with_reducible apply State.rowDone_kept | with_reducible apply State.setFld_kept
    | with_reducible apply State.say_kept | intro _
    | (extract_lets +onlyGivenNames x; first | (clear_value (e : x = _); first | with_reducible refine Kept.byEq s0 e ?_ ?_ | with_reducible refine Kept.byEq3 s0 e ?_ ?_ | clear e) | skip)
    | split

theorem State.buddyCheck_kept {s0 s : State} (hk : Kept s0 s) (pos : Nat) (cursor : Nat) (man : List Byte) :
    Kept s0 (State.buddyCheck s pos cursor man) := by
  unfold State.buddyCheck
  repeat' first
    | with_reducible assumption | with_reducible apply State.replicaOk_kept | with_reducible apply State.storeLong_kept
    | with_reducible apply State.writeRecord_kept | with_reducible apply State.say_kept | with_reducible apply State.countHub_kept
    | with_reducible apply State.haulFault_kept | intro _
    | (extract_lets +onlyGivenNames x; first | (clear_value (e : x = _); first | with_reducible refine Kept.byEq s0 e ?_ ?_ | with_reducible refine Kept.byEq2 s0 e ?_ ?_ | clear e) | skip)
    | split | with_reducible refine Kept.upd ?_

theorem State.commitRow_kept {s0 s : State} (hk : Kept s0 s) (row : CommitRow) : Kept s0 (State.commitRow s row) := by
  unfold State.commitRow
  cases row with
  | copyOut => exact Kept.ite (State.rowDone_kept hk 1 id fun _ h => h) hk
  | replica => exact Kept.ite (State.rowDone_kept hk 2 id fun _ h => h) hk
  | manifest => exact State.manifestRow_kept hk
  | buddyCheck pos cursor man => exact State.buddyCheck_kept hk _ _ _
  | acknowledged => exact State.rowDone_kept hk 4 id fun _ h => h
  | ownRecord =>
    with_reducible refine State.rowDone_kept hk _ _ fun x h => ?_
    extract_lets +onlyGivenNames maddr man
    with_reducible exact State.setFld_kept (State.writeRecord_kept h _ _ _ _ _ _) _ _ _ _
  | report =>
    with_reducible refine State.rowDone_kept hk _ _ fun x h => ?_
    extract_lets +onlyGivenNames y
    have hy : Kept s0 y := Kept.foldl h fun y a hy => State.setReg_kept hy _ _
    clear_value y
    with_reducible exact State.say_kept (State.countHub_kept hy _ _ _) _ _

theorem State.commitLate_kept {s0 s : State} (hk : Kept s0 s) :
    Kept s0 (State.commitLate s) := by
  unfold State.commitLate
  repeat' first
    | with_reducible assumption | with_reducible apply State.reach_kept | with_reducible apply State.commitRow_kept
    | with_reducible apply State.haulFault_kept | with_reducible refine Kept.foldl ?_ ?_ | intro _
    | (extract_lets +onlyGivenNames x; first | (clear_value (e : x = _); first | with_reducible refine Kept.byEq s0 e ?_ ?_ | clear e) | skip)
    | split | with_reducible refine Kept.upd ?_

theorem State.commitReported_kept {s0 s : State} (hk : Kept s0 s) (pos : Nat) (epoch : Nat) :
    Kept s0 (State.commitReported s pos epoch) := by
  unfold State.commitReported
  repeat' first
    | with_reducible assumption | with_reducible apply State.say_kept | intro _
    | (extract_lets +onlyGivenNames x; first | (clear_value (e : x = _); first | with_reducible refine Kept.byEq s0 e ?_ ?_ | clear e) | skip)
    | split | with_reducible refine Kept.upd ?_

theorem State.commitNoticed_kept {s0 s : State} (hk : Kept s0 s) (epoch : Nat) :
    Kept s0 (State.commitNoticed s epoch) := by
  unfold State.commitNoticed
  repeat' first
    | with_reducible assumption | with_reducible apply State.setReg_kept | with_reducible refine Kept.foldl ?_ ?_ | intro _
    | (extract_lets +onlyGivenNames x; first | (clear_value (e : x = _); first | with_reducible refine Kept.byEq s0 e ?_ ?_ | clear e) | skip)
    | with_reducible refine Kept.upd ?_

theorem State.allHubFld_kept {s0 s : State} (hk : Kept s0 s) (off : Nat) (hi : Nat) (lo : Nat) (v : Nat) :
    Kept s0 (State.allHubFld s off hi lo v) := by
  unfold State.allHubFld
  repeat' first
    | with_reducible assumption | with_reducible apply State.setFld_kept | with_reducible refine Kept.foldl ?_ ?_ | intro _

theorem State.vaultDrain_kept {s0 s : State} (hk : Kept s0 s) :
    Kept s0 (State.vaultDrain s) := by
  unfold State.vaultDrain
  repeat' first
    | with_reducible assumption | with_reducible apply State.allHubFld_kept | intro _
    | (extract_lets +onlyGivenNames x; first | (clear_value (e : x = _); first | with_reducible refine Kept.byEq s0 e ?_ ?_ | clear e) | skip)
    | split | with_reducible refine Kept.upd ?_

theorem State.trimLog_kept {s0 s : State} (hk : Kept s0 s) :
    Kept s0 (State.trimLog s) := by
  unfold State.trimLog
  repeat' first
    | with_reducible assumption | with_reducible refine Kept.foldl ?_ ?_ | intro _
    | (extract_lets +onlyGivenNames x; first | (clear_value (e : x = _); first | with_reducible refine Kept.byEq s0 e ?_ ?_ | clear e) | skip)
    | split | with_reducible refine Kept.upd ?_

theorem State.vaultCommit_kept {s0 s : State} (hk : Kept s0 s) (exported : Bool) :
    Kept s0 (State.vaultCommit s exported) := by
  unfold State.vaultCommit
  repeat' first
    | with_reducible assumption | with_reducible apply State.countHub_kept | with_reducible apply State.trimLog_kept
    | with_reducible apply State.setFld_kept | with_reducible refine Kept.foldl ?_ ?_ | intro _
    | (extract_lets +onlyGivenNames x; first | (clear_value (e : x = _); first | with_reducible refine Kept.byEq s0 e ?_ ?_ | clear e) | skip)
    | split | with_reducible refine Kept.upd ?_

theorem State.restoreRegion_kept {s0 s : State} (hk : Kept s0 s) (epoch : Nat) (r : RestoreRegion) :
    Kept s0 (State.restoreRegion s epoch r) := by
  unfold State.restoreRegion
  repeat' first
    | with_reducible assumption | with_reducible apply State.haulFault_kept | with_reducible apply State.storeLong_kept
    | with_reducible apply State.countHub_kept | intro _
    | (extract_lets +onlyGivenNames x; first | (clear_value (e : x = _); first | with_reducible refine Kept.byEq s0 e ?_ ?_ | clear e) | skip)
    | split | with_reducible refine Kept.upd ?_

theorem State.restoreFrom_kept {s0 s : State} (hk : Kept s0 s) (variant : Nat) (c : RestoreCandidate) :
    Kept s0 (State.restoreFrom s variant c) := by
  unfold State.restoreFrom
  repeat' first
    | with_reducible assumption | with_reducible apply State.restoreRegion_kept | with_reducible apply State.setFld_kept
    | with_reducible apply State.say_kept | with_reducible refine Kept.foldl ?_ ?_ | intro _
    | (extract_lets +onlyGivenNames x; first | (clear_value (e : x = _); first | with_reducible refine Kept.byEq s0 e ?_ ?_ | clear e) | skip)
    | split | with_reducible refine Kept.upd ?_

theorem State.restart_kept {s0 s : State} (hk : Kept s0 s) (variant : Nat) (cands : List RestoreCandidate) :
    Kept s0 (State.restart s variant cands) := by
  unfold State.restart
  repeat' first
    | with_reducible assumption | with_reducible apply State.haulFault_kept | with_reducible apply State.say_kept
    | with_reducible apply State.restoreFrom_kept | split | with_reducible refine Kept.upd ?_

end Sys2Proof.Machine
end

