-- ==== Sys2Proof/Laws/KeptModule.lean ====
section
/-!
SUPPORT. What the operations of absorption, CSRs, boot, sessions and the loader keep (`Kept`).
-/
set_option linter.tactic.unusedName false
namespace Sys2Proof.Machine

theorem State.flushRecord_kept {s0 s : State} (hk : Kept s0 s) :
    Kept s0 (State.flushRecord s) := by
  unfold State.flushRecord
  repeat' first
    | with_reducible assumption | intro _
    | (extract_lets +onlyGivenNames x; first | (clear_value (e : x = _); first | with_reducible refine Kept.byEq s0 e ?_ ?_ | clear e) | skip)
    | with_reducible refine Kept.upd ?_

theorem State.updRecord_kept {s0 s : State} (hk : Kept s0 s) (f : RecordBody → RecordBody) :
    Kept s0 (State.updRecord s f) := by
  unfold State.updRecord
  repeat' first
    | with_reducible assumption | with_reducible refine Kept.upd ?_

theorem State.noteService_kept {s0 s : State} (hk : Kept s0 s) :
    Kept s0 (State.noteService s) := by
  unfold State.noteService
  repeat' first
    | with_reducible assumption | with_reducible apply State.updRecord_kept | with_reducible apply State.service_kept | intro _
    | with_reducible refine Kept.upd ?_

theorem State.noteSpares_kept {s0 s : State} (hk : Kept s0 s) :
    Kept s0 (State.noteSpares s) := by
  unfold State.noteSpares
  repeat' first
    | with_reducible assumption | with_reducible apply State.updRecord_kept | with_reducible apply State.service_kept | intro _
    | (extract_lets +onlyGivenNames x; first | (clear_value (e : x = _); first | with_reducible refine Kept.byEq s0 e ?_ ?_ | clear e) | skip)
    | split | with_reducible refine Kept.upd ?_

theorem State.poll_kept {s0 s : State} (hk : Kept s0 s) (d : Die) (b : Option (Fin 180)) (answered : Bool) :
    Kept s0 (State.poll s d b answered) := by
  unfold State.poll
  repeat' first
    | with_reducible assumption | with_reducible apply State.updDie_kept | with_reducible apply State.unitFailed_kept | intro _
    | (extract_lets +onlyGivenNames x; first | (clear_value (e : x = _); first | with_reducible refine Kept.byEq s0 e ?_ ?_ | clear e) | skip)
    | split | with_reducible refine Kept.upd ?_

theorem State.setAbsorbed_kept {s0 s : State} (hk : Kept s0 s) (u : Nat) (n : Nat) :
    Kept s0 (State.setAbsorbed s u n) := by
  unfold State.setAbsorbed
  repeat' first
    | with_reducible assumption | with_reducible refine Kept.upd ?_

theorem State.beginAbsorb_kept {s0 s : State} (hk : Kept s0 s) (u : Nat) :
    Kept s0 (State.beginAbsorb s u) := by
  unfold State.beginAbsorb
  repeat' first
    | with_reducible assumption | with_reducible apply State.setAbsorbed_kept | intro _
    | (extract_lets +onlyGivenNames x; first | (clear_value (e : x = _); first | with_reducible refine Kept.byEq s0 e ?_ ?_ | clear e) | skip)
    | split | with_reducible refine Kept.upd ?_

theorem State.faultReported_kept {s0 s : State} (hk : Kept s0 s) (die : Nat) (bench : Nat) :
    Kept s0 (State.faultReported s die bench) := by
  unfold State.faultReported
  repeat' first
    | with_reducible assumption | with_reducible apply State.unitFailed_kept

theorem State.stepStopped_kept {s0 s : State} (hk : Kept s0 s) :
    Kept s0 (State.stepStopped s) := by
  unfold State.stepStopped
  repeat' first
    | with_reducible assumption | with_reducible apply State.say_kept | intro _
    | (extract_lets +onlyGivenNames x; first | (clear_value (e : x = _); first | with_reducible refine Kept.byEq s0 e ?_ ?_ | clear e) | skip)
    | split | with_reducible refine Kept.upd ?_

theorem State.benchOff_kept {s0 s : State} (hk : Kept s0 s) (b : BenchId) :
    Kept s0 (State.benchOff s b) := by
  unfold State.benchOff
  repeat' first
    | with_reducible assumption | with_reducible apply State.dropRange_kept | with_reducible apply State.updBench_kept | intro _
    | (extract_lets +onlyGivenNames x; first | (clear_value (e : x = _); first | with_reducible refine Kept.byEq s0 e ?_ ?_ | clear e) | skip)
    | with_reducible refine Kept.upd ?_

theorem State.setPhys_kept {s0 s : State} (hk : Kept s0 s) (l : Nat) (p : Nat) :
    Kept s0 (State.setPhys s l p) := by
  unfold State.setPhys
  repeat' first
    | with_reducible assumption | with_reducible apply State.setFld_kept

theorem State.dropTowards_kept {s0 s : State} (hk : Kept s0 s) (d : Die) :
    Kept s0 (State.dropTowards s d) := by
  unfold State.dropTowards
  repeat' first
    | with_reducible assumption | with_reducible apply State.store_kept | intro _
    | (extract_lets +onlyGivenNames x; first | (clear_value (e : x = _); first | with_reducible refine Kept.byEq s0 e ?_ ?_ | with_reducible refine Kept.byEq2 s0 e ?_ ?_ | clear e) | skip)
    | split | with_reducible refine Kept.pair2 (by assumption) ?_ | with_reducible refine Kept.upd ?_

theorem State.mapStack_kept {s0 s : State} (hk : Kept s0 s) (d : Die) :
    Kept s0 (State.mapStack s d) := by
  unfold State.mapStack
  split
  · exact State.beginAbsorb_kept hk _
  · extract_lets +onlyGivenNames off
    have hoff : ∀ x, Kept s0 x → Kept s0 (off x) := fun x hx =>
      State.updDie_kept (Kept.foldl (State.dropTowards_kept hx d) fun y b hy => State.benchOff_kept hy b) _ _
    clear_value off
    repeat' first
      | with_reducible assumption | with_reducible apply State.beginAbsorb_kept | with_reducible apply State.beyond_kept
      | with_reducible apply State.setPhys_kept | with_reducible apply State.setFld_kept | with_reducible apply State.noteSpares_kept
      | with_reducible apply State.service_kept | with_reducible apply hoff
      | (extract_lets +onlyGivenNames x; (clear_value (e : x = _); with_reducible refine Kept.byEq s0 e ?_ ?_))
      | intro _ | split

theorem State.mapBench_kept {s0 s : State} (hk : Kept s0 s) (b : BenchId) :
    Kept s0 (State.mapBench s b) := by
  unfold State.mapBench
  repeat' first
    | with_reducible assumption | with_reducible apply State.beginAbsorb_kept | with_reducible apply State.benchOff_kept
    | with_reducible apply State.updDie_kept | with_reducible apply State.service_kept | with_reducible apply State.setFld_kept
    | with_reducible apply State.beyond_kept | intro _
    | (extract_lets +onlyGivenNames x; first | (clear_value (e : x = _); first | with_reducible refine Kept.byEq s0 e ?_ ?_ | clear e) | skip)
    | split | with_reducible refine Kept.upd ?_

theorem State.spareRuns_kept {s0 s : State} (hk : Kept s0 s) (b : BenchId) :
    Kept s0 (State.spareRuns s b) := by
  unfold State.spareRuns
  repeat' first
    | with_reducible assumption | with_reducible apply State.updBench_kept | intro _
    | (extract_lets +onlyGivenNames x; first | (clear_value (e : x = _); first | with_reducible refine Kept.byEq s0 e ?_ ?_ | clear e) | skip)
    | split | with_reducible refine Kept.upd ?_

theorem State.absorbRestore_kept {s0 s : State} (hk : Kept s0 s) (mine : Nat × Nat → Bool) (applied : Bool) (rs : List RestoreRegion) :
    Kept s0 (State.absorbRestore s mine applied rs) := by
  unfold State.absorbRestore
  repeat' first
    | with_reducible assumption | with_reducible apply State.restoreRegion_kept | with_reducible refine Kept.foldl ?_ ?_ | intro _
    | (extract_lets +onlyGivenNames x; first | (clear_value (e : x = _); first | with_reducible refine Kept.byEq s0 e ?_ ?_ | clear e) | skip)
    | split | with_reducible refine Kept.upd ?_

theorem State.commitSpares_kept {s0 s : State} (hk : Kept s0 s) :
    Kept s0 (State.commitSpares s) := by
  unfold State.commitSpares
  repeat' first
    | with_reducible assumption | with_reducible apply State.noteService_kept | with_reducible apply State.noteSpares_kept
    | with_reducible apply State.flushRecord_kept

theorem State.absorbEnd_kept {s0 s : State} (hk : Kept s0 s) (cls : Nat) :
    Kept s0 (State.absorbEnd s cls) := by
  unfold State.absorbEnd
  repeat' first
    | with_reducible assumption | with_reducible apply State.drsStepReset_kept | with_reducible apply State.service_kept
    | with_reducible apply State.say_kept | intro _
    | (extract_lets +onlyGivenNames x; first | (clear_value (e : x = _); first | with_reducible refine Kept.byEq s0 e ?_ ?_ | clear e) | skip)
    | split

theorem State.finishAbsorb_kept {s0 s : State} (hk : Kept s0 s) (u : Nat) :
    Kept s0 (State.finishAbsorb s u) := by
  unfold State.finishAbsorb
  repeat' first
    | with_reducible assumption | with_reducible refine Kept.upd ?_

theorem State.absorbStack_kept {s0 s : State} (hk : Kept s0 s) (d : Die) (order : Nat) (applied : Bool) (rs : List RestoreRegion) :
    Kept s0 (State.absorbStack s d order applied rs) := by
  unfold State.absorbStack
  repeat' first
    | with_reducible assumption | with_reducible apply State.faultReported_kept | with_reducible apply State.stepStopped_kept
    | with_reducible apply State.mapStack_kept | with_reducible apply State.boundary_kept | with_reducible apply State.log_kept
    | with_reducible apply State.stopped_kept | with_reducible apply State.setAbsorbed_kept
    | with_reducible apply State.spareRuns_kept | with_reducible apply State.absorbRestore_kept
    | with_reducible apply State.commitSpares_kept | with_reducible apply State.setFld_kept
    | with_reducible apply State.absorbEnd_kept | with_reducible apply State.finishAbsorb_kept
    | with_reducible refine Kept.foldl ?_ ?_ | intro _
    | (extract_lets +onlyGivenNames x; first | (clear_value (e : x = _); first | with_reducible refine Kept.byEq s0 e ?_ ?_ | clear e) | skip)
    | split | with_reducible refine Kept.upd ?_

theorem State.absorbBench_kept {s0 s : State} (hk : Kept s0 s) (b : BenchId) (order : Nat) (applied : Bool) (rs : List RestoreRegion) :
    Kept s0 (State.absorbBench s b order applied rs) := by
  unfold State.absorbBench
  repeat' first
    | with_reducible assumption | with_reducible apply State.faultReported_kept | with_reducible apply State.stepStopped_kept
    | with_reducible apply State.mapBench_kept | with_reducible apply State.setAbsorbed_kept
    | with_reducible apply State.spareRuns_kept | with_reducible apply State.absorbRestore_kept
    | with_reducible apply State.commitSpares_kept | with_reducible apply State.absorbEnd_kept
    | with_reducible apply State.finishAbsorb_kept | intro _
    | (extract_lets +onlyGivenNames x; first | (clear_value (e : x = _); first | with_reducible refine Kept.byEq s0 e ?_ ?_ | clear e) | skip)
    | split | with_reducible refine Kept.upd ?_

theorem State.retirePackage_kept {s0 s : State} (hk : Kept s0 s) (pkg : Nat) (root : Word64) (tables : List (Nat × Word64)) (rebuilt : List (Nat × Byte)) :
    Kept s0 (State.retirePackage s pkg root tables rebuilt) := by
  unfold State.retirePackage
  repeat' first
    | with_reducible assumption | with_reducible apply State.beyond_kept | with_reducible apply State.setFld_kept
    | with_reducible apply State.dropRange_kept | with_reducible apply State.storeLong_kept
    | with_reducible apply State.service_kept | with_reducible apply State.noteService_kept
    | with_reducible apply State.flushRecord_kept | with_reducible apply State.drsStepReset_kept
    | with_reducible apply State.say_kept | with_reducible refine Kept.foldl ?_ ?_ | intro _
    | (extract_lets +onlyGivenNames x; first | (clear_value (e : x = _); first | with_reducible refine Kept.byEq s0 e ?_ ?_ | clear e) | skip)
    | split | with_reducible refine Kept.upd ?_

theorem State.beyondFault_kept {s0 s : State} (hk : Kept s0 s) (u : UnitRef) :
    Kept s0 (State.beyondFault s u) := by
  unfold State.beyondFault
  repeat' first
    | with_reducible assumption | with_reducible apply State.beyond_kept | with_reducible apply State.stopAll_kept
    | with_reducible apply State.moveModule_kept | with_reducible apply State.say_kept | intro _
    | (extract_lets +onlyGivenNames x; first | (clear_value (e : x = _); first | with_reducible refine Kept.byEq s0 e ?_ ?_ | clear e) | skip)
    | split

theorem State.wPend_kept {s0 s : State} (hk : Kept s0 s) (k : Nat) (v : Word64) (bit : Nat) (also : List (Nat × Word64)) (fresh : Word64) :
    Kept s0 (State.wPend s k v bit also fresh) := by
  unfold State.wPend
  repeat' first
    | with_reducible assumption | with_reducible apply State.setReg_kept | with_reducible refine Kept.foldl ?_ ?_ | intro _
    | split

theorem State.wCoreFault_kept {s0 s : State} (hk : Kept s0 s) (c : CoreId) (v : Word64) :
    Kept s0 (State.wCoreFault s c v) := by
  unfold State.wCoreFault
  repeat' first
    | with_reducible assumption | with_reducible apply State.wPend_kept

theorem State.wCoreDesc_kept {s0 s : State} (hk : Kept s0 s) (c : CoreId) (v : Word64) :
    Kept s0 (State.wCoreDesc s c v) := by
  unfold State.wCoreDesc
  repeat' first
    | with_reducible assumption | with_reducible apply State.wPend_kept

theorem State.wArrayFault_kept {s0 s : State} (hk : Kept s0 s) (b : BenchId) (v : Word64) :
    Kept s0 (State.wArrayFault s b v) := by
  unfold State.wArrayFault
  repeat' first
    | with_reducible assumption | with_reducible apply State.settle_kept | with_reducible apply State.wPend_kept

theorem State.wRingFault_kept {s0 s : State} (hk : Kept s0 s) (b : BenchId) (v : Word64) :
    Kept s0 (State.wRingFault s b v) := by
  unfold State.wRingFault
  repeat' first
    | with_reducible assumption | with_reducible apply State.settle_kept | with_reducible apply State.wPend_kept

theorem State.wRedFault_kept {s0 s : State} (hk : Kept s0 s) (b : BenchId) (v : Word64) :
    Kept s0 (State.wRedFault s b v) := by
  unfold State.wRedFault
  repeat' first
    | with_reducible assumption | with_reducible apply State.wPend_kept

theorem State.wPwrFault_kept {s0 s : State} (hk : Kept s0 s) (b : BenchId) (v : Word64) :
    Kept s0 (State.wPwrFault s b v) := by
  unfold State.wPwrFault
  repeat' first
    | with_reducible assumption | with_reducible apply State.wPend_kept

theorem State.wDrsFault_kept {s0 s : State} (hk : Kept s0 s) (b : BenchId) (v : Word64) :
    Kept s0 (State.wDrsFault s b v) := by
  unfold State.wDrsFault
  repeat' first
    | with_reducible assumption | with_reducible apply State.wPend_kept

theorem State.wCopyStatus_kept {s0 s : State} (hk : Kept s0 s) (h : Hub) (v : Word64) :
    Kept s0 (State.wCopyStatus s h v) := by
  unfold State.wCopyStatus
  repeat' first
    | with_reducible assumption | with_reducible apply State.wPend_kept

theorem State.wDramFault_kept {s0 s : State} (hk : Kept s0 s) (h : Hub) (v : Word64) :
    Kept s0 (State.wDramFault s h v) := by
  unfold State.wDramFault
  repeat' first
    | with_reducible assumption | with_reducible apply State.wPend_kept

theorem State.wHaulFault_kept {s0 s : State} (hk : Kept s0 s) (h : Hub) (v : Word64) :
    Kept s0 (State.wHaulFault s h v) := by
  unfold State.wHaulFault
  repeat' first
    | with_reducible assumption | with_reducible apply State.wPend_kept

theorem State.wLnkFault_kept {s0 s : State} (hk : Kept s0 s) (p : PortId) (v : Word64) :
    Kept s0 (State.wLnkFault s p v) := by
  unfold State.wLnkFault
  repeat' first
    | with_reducible assumption | with_reducible apply State.wPend_kept

theorem State.wEccAddr_kept {s0 s : State} (hk : Kept s0 s) (u : BenchId ⊕ Hub) (v : Word64) :
    Kept s0 (State.wEccAddr s u v) := by
  unfold State.wEccAddr
  repeat' first
    | with_reducible assumption | with_reducible apply State.wPend_kept | split | with_reducible refine Kept.upd ?_

theorem State.wTherm_kept {s0 s : State} (hk : Kept s0 s) (v : Word64) :
    Kept s0 (State.wTherm s v) := by
  unfold State.wTherm
  repeat' first
    | with_reducible assumption | with_reducible apply State.setFld_kept | intro _
    | (extract_lets +onlyGivenNames x; first | (clear_value (e : x = _); first | with_reducible refine Kept.byEq s0 e ?_ ?_ | clear e) | skip)
    | split

theorem State.wAccessErr_kept {s0 s : State} (hk : Kept s0 s) (md : Md) (v : Word64) :
    Kept s0 (State.wAccessErr s md v) := by
  unfold State.wAccessErr
  repeat' first
    | with_reducible assumption | with_reducible apply State.setFld_kept | with_reducible apply State.setReg_kept | split

theorem State.wCopyTags_kept {s0 s : State} (hk : Kept s0 s) (h : Hub) (v : Word64) :
    Kept s0 (State.wCopyTags s h v) := by
  unfold State.wCopyTags
  repeat' first
    | with_reducible assumption | with_reducible apply State.setFld_kept | split

theorem State.wChord_kept {s0 s : State} (hk : Kept s0 s) (b : BenchId) (v : Word64) :
    Kept s0 (State.wChord s b v).2 := by
  show Kept2 s0 _
  unfold State.wChord
  repeat' first
    | with_reducible assumption | with_reducible apply State.setReg_kept | split | with_reducible refine Kept2.mk ?_
    | with_reducible refine Kept2.of ?_

theorem State.sfsRefuse_kept {s0 s : State} (hk : Kept s0 s) (c : CoreId) (last : Nat) :
    Kept s0 (State.sfsRefuse s c last) := by
  unfold State.sfsRefuse
  repeat' first
    | with_reducible assumption | with_reducible apply State.setFld_kept | with_reducible apply State.satFld_kept
    | with_reducible apply State.countCore_kept

theorem State.wSfsLoad_kept {s0 s : State} (hk : Kept s0 s) (c : CoreId) (v : Word64) :
    Kept s0 (State.wSfsLoad s c v) := by
  unfold State.wSfsLoad
  repeat' first
    | with_reducible assumption | with_reducible apply State.store_kept | with_reducible apply State.sfsRefuse_kept
    | with_reducible apply State.setFld_kept | with_reducible apply State.countCore_kept | with_reducible apply State.updCore_kept
    | intro _
    | (extract_lets +onlyGivenNames x; first | (clear_value (e : x = _); first | with_reducible refine Kept.byEq s0 e ?_ ?_ | with_reducible refine Kept.byEq2 s0 e ?_ ?_ | clear e) | skip)
    | split | with_reducible refine Kept.pair2 (by assumption) ?_ | with_reducible refine Kept.upd ?_

theorem State.wWdog_kept {s0 s : State} (hk : Kept s0 s) (md : Md) (v : Word64) :
    Kept s0 (State.wWdog s md v).2 := by
  show Kept2 s0 _
  unfold State.wWdog
  repeat' first
    | with_reducible assumption | with_reducible apply State.setFld_kept | intro _
    | (extract_lets +onlyGivenNames x; first | (clear_value (e : x = _); first | with_reducible refine Kept.byEq s0 e ?_ ?_ | with_reducible refine Kept.byEq2 s0 e ?_ ?_ | clear e) | skip)
    | split | with_reducible refine Kept2.mk ?_ | with_reducible refine Kept2.of ?_ | with_reducible refine Kept.upd ?_

theorem State.wScrubCfg_kept {s0 s : State} (hk : Kept s0 s) (v : Word64) :
    Kept s0 (State.wScrubCfg s v).2 := by
  show Kept2 s0 _
  unfold State.wScrubCfg
  repeat' first
    | with_reducible assumption | with_reducible apply State.setFld_kept | split | with_reducible refine Kept2.mk ?_
    | with_reducible refine Kept2.of ?_

theorem State.wPlain_kept {s0 s : State} (hk : Kept s0 s) (k : Nat) (v : Word64) :
    Kept s0 (State.wPlain s k v) := by
  unfold State.wPlain
  repeat' first
    | with_reducible assumption | with_reducible apply State.setReg_kept | intro _ | split | with_reducible refine Kept.upd ?_

theorem State.writeCore_kept {s0 s : State} (hk : Kept s0 s) (c : CoreId) (k : Nat) (v : Word64) :
    Kept s0 (State.writeCore s c k v).2 := by
  show Kept2 s0 _
  unfold State.writeCore
  repeat' first
    | with_reducible assumption | with_reducible apply State.wCoreFault_kept | with_reducible apply State.wSfsLoad_kept
    | with_reducible apply State.wCoreDesc_kept | with_reducible apply State.wFlip_kept | with_reducible apply State.wPlain_kept
    | split | with_reducible refine Kept.pair2 (by assumption) ?_ | with_reducible refine Kept2.mk ?_
    | with_reducible refine Kept2.of ?_ | with_reducible refine Kept.upd ?_

theorem State.writeBench_kept {s0 s : State} (hk : Kept s0 s) (b : BenchId) (k : Nat) (v : Word64) :
    Kept s0 (State.writeBench s b k v).2 := by
  show Kept2 s0 _
  unfold State.writeBench
  repeat' first
    | with_reducible assumption | with_reducible apply State.wArrayFault_kept | with_reducible apply State.wRingFault_kept
    | with_reducible apply State.wRedFault_kept | with_reducible apply State.wPwrFault_kept
    | with_reducible apply State.wEccAddr_kept | with_reducible apply State.wFlip_kept | with_reducible apply State.wChord_kept
    | with_reducible apply State.wDrsStep_kept | with_reducible apply State.wSchedCtl_kept
    | with_reducible apply State.wDrsFault_kept | with_reducible apply State.wPlain_kept | split
    | with_reducible refine Kept.pair2 (by assumption) ?_ | with_reducible refine Kept2.mk ?_ | with_reducible refine Kept2.of ?_
    | with_reducible refine Kept.upd ?_

theorem State.writeHub_kept {s0 s : State} (hk : Kept s0 s) (h : Hub) (k : Nat) (v : Word64) :
    Kept s0 (State.writeHub s h k v).2 := by
  show Kept2 s0 _
  unfold State.writeHub
  repeat' first
    | with_reducible assumption | with_reducible apply State.wCopyStatus_kept | with_reducible apply State.wCopyTags_kept
    | with_reducible apply State.wDramFault_kept | with_reducible apply State.wHaulFault_kept
    | with_reducible apply State.wEccAddr_kept | with_reducible apply State.wFlip_kept | with_reducible apply State.wLnkFault_kept
    | with_reducible apply State.wPlain_kept | split | with_reducible refine Kept.pair2 (by assumption) ?_
    | with_reducible refine Kept2.mk ?_ | with_reducible refine Kept2.of ?_ | with_reducible refine Kept.upd ?_

theorem State.writeMgmt_kept {s0 s : State} (hk : Kept s0 s) (k : Nat) (v : Word64) :
    Kept s0 (State.writeMgmt s k v).2 := by
  show Kept2 s0 _
  unfold State.writeMgmt
  repeat' first
    | with_reducible assumption | with_reducible apply State.wXlatRoot_kept | with_reducible apply State.wXlatCtl_kept
    | with_reducible apply State.wTherm_kept | with_reducible apply State.wScrubCfg_kept | with_reducible apply State.wWdog_kept
    | with_reducible apply State.wAccessErr_kept | with_reducible apply State.wPlain_kept | split
    | with_reducible refine Kept.pair2 (by assumption) ?_ | with_reducible refine Kept2.mk ?_ | with_reducible refine Kept2.of ?_
    | with_reducible refine Kept.upd ?_

theorem State.writeReg_kept {s0 s : State} (hk : Kept s0 s) (k : Nat) (v : Word64) :
    Kept s0 (State.writeReg s k v).2 := by
  show Kept2 s0 _
  unfold State.writeReg
  repeat' first
    | with_reducible assumption | with_reducible apply State.writeCore_kept | with_reducible apply State.writeBench_kept
    | with_reducible apply State.wDomReset_kept | with_reducible apply State.wPlain_kept
    | with_reducible apply State.writeHub_kept | with_reducible apply State.writeMgmt_kept | split
    | with_reducible refine Kept.pair2 (by assumption) ?_ | with_reducible refine Kept2.mk ?_ | with_reducible refine Kept2.of ?_
    | with_reducible refine Kept.upd ?_

theorem State.readReg_kept {s0 s : State} (hk : Kept s0 s) (k : Nat) :
    Kept s0 (State.readReg s k).2 := by
  show Kept2 s0 _
  unfold State.readReg
  repeat' first
    | with_reducible assumption | with_reducible apply State.settle_kept | intro _
    | (extract_lets +onlyGivenNames x; first | (clear_value (e : x = _); first | with_reducible refine Kept.byEq s0 e ?_ ?_ | with_reducible refine Kept.byEq2 s0 e ?_ ?_ | clear e) | skip)
    | split | with_reducible refine Kept.pair2 (by assumption) ?_ | with_reducible refine Kept2.mk ?_
    | with_reducible refine Kept2.of ?_ | with_reducible refine Kept.upd ?_

theorem State.writeAll_kept {s0 s : State} (hk : Kept s0 s) (ks : List Nat) (v : Word64) :
    Kept s0 (State.writeAll s ks v).2 := by
  show Kept2 s0 _
  unfold State.writeAll
  repeat' first
    | with_reducible assumption | with_reducible apply State.writeReg_kept | with_reducible refine Kept.foldl ?_ ?_
    | with_reducible refine Kept.foldl2 ?_ ?_ | with_reducible refine Kept2.foldl ?_ ?_ | with_reducible refine Kept3.foldl ?_ ?_
    | with_reducible refine Kept4.foldl ?_ ?_ | intro _
    | (extract_lets +onlyGivenNames x; first | (clear_value (e : x = _); first | with_reducible refine Kept.byEq s0 e ?_ ?_ | with_reducible refine Kept.byEq2 s0 e ?_ ?_ | clear e) | skip)
    | with_reducible refine Kept2.mk ?_ | with_reducible refine Kept2.of ?_

theorem State.broadcast_kept {s0 s : State} (hk : Kept s0 s) (o : Origin) (addr : Nat) (v : Word64) :
    Kept s0 (State.broadcast s o addr v) := by
  unfold State.broadcast
  extract_lets +onlyGivenNames act
  have hact : ∀ x, Kept s0 x → Kept2 s0 (act x) := by
    intro x hx
    unfold act
    extract_lets +onlyGivenNames y c r
    have hy : Kept s0 y := State.enter_kept hx _
    have hr : Kept s0 r.2 := State.writeAll_kept hy _ _
    clear_value r c y
    split
    · exact State.accessError_kept hy _ _ _ _
    · exact Kept2.mk (Kept.upd hr)
  clear_value act
  split
  · exact hact _ hk
  · refine State.onRequest_kept hk _ _ _ _ ?_
    intro x hx
    extract_lets +onlyGivenNames r
    have hr : Kept s0 r.2 := hact x hx
    clear_value r
    split
    · exact hr
    · exact State.reply_kept hr _ _ _

theorem State.broadcastDone_kept {s0 s : State} (hk : Kept s0 s) :
    Kept s0 (State.broadcastDone s) := by
  unfold State.broadcastDone
  repeat' first
    | with_reducible assumption | with_reducible apply State.accessError_kept | with_reducible apply State.say_kept
    | with_reducible apply State.reply_kept | intro _
    | (extract_lets +onlyGivenNames x; first | (clear_value (e : x = _); first | with_reducible refine Kept.byEq s0 e ?_ ?_ | clear e) | skip)
    | split | with_reducible refine Kept.upd ?_

theorem State.csrAccess_kept {s0 s : State} (hk : Kept s0 s) (o : Origin) (addr : Nat) (v : Word64) :
    Kept s0 (State.csrAccess s o addr v) := by
  unfold State.csrAccess
  repeat' first
    | with_reducible assumption | with_reducible apply State.storeAt_kept | with_reducible apply State.poisonAt_kept
    | with_reducible apply State.broadcast_kept | with_reducible apply State.originWrite_kept
    | with_reducible apply State.writeReg_kept | intro _
    | (extract_lets +onlyGivenNames x; first | (clear_value (e : x = _); first | with_reducible refine Kept.byEq s0 e ?_ ?_ | with_reducible refine Kept.byEq2 s0 e ?_ ?_ | clear e) | skip)
    | split

theorem State.csrReadAt_kept {s0 s : State} (hk : Kept s0 s) (o : Origin) (addr : Nat) :
    Kept s0 (State.csrReadAt s o addr) := by
  unfold State.csrReadAt
  extract_lets +onlyGivenNames k act
  have hact : ∀ x, Kept s0 x → Kept3 s0 (act x) := by
    intro x hx
    unfold act
    extract_lets +onlyGivenNames y c
    have hy : Kept s0 y := State.enter_kept hx _
    clear_value c y
    split
    · exact Kept3.mk (State.accessError_kept hy _ _ _ _)
    · extract_lets +onlyGivenNames r
      have hr : Kept s0 r.2 := State.readReg_kept hy _
      clear_value r
      exact Kept3.mk hr
  clear_value act
  split
  · split
    · extract_lets +onlyGivenNames r
      have hr : Kept s0 r.2.2 := State.loadAt_kept hk _ _
      clear_value r
      exact State.say_kept hr _ _
    · extract_lets +onlyGivenNames r
      have hr : Kept s0 r.2.2 := hact _ hk
      clear_value r
      exact State.say_kept hr _ _
  · refine State.onRequest_kept hk _ _ _ _ ?_
    intro x hx
    extract_lets +onlyGivenNames r
    have hr : Kept s0 r.2.2 := hact x hx
    clear_value r
    split
    · exact State.reply_kept hr _ _ _
    · exact State.reply_kept hr _ _ _

theorem State.afterReset_kept {s0 s : State} (hk : Kept s0 s) (warm : Bool) :
    Kept s0 (State.afterReset s warm) := by
  unfold State.afterReset
  generalize (0x0a8000000000 : Nat) = big
  refine ⟨hk.queue, hk.clock, fun w => ?_⟩
  cases warm
  · rfl
  · exact memFilter_wf _ (hk.memory w)

theorem State.porst_kept {s0 s : State} (hk : Kept s0 s) :
    Kept s0 (State.porst s) := by
  unfold State.porst
  repeat' first
    | with_reducible assumption | with_reducible apply State.afterReset_kept | intro _
    | (extract_lets +onlyGivenNames x; first | (clear_value (e : x = _); first | with_reducible refine Kept.byEq s0 e ?_ ?_ | clear e) | skip)
    | with_reducible refine Kept.upd ?_

theorem State.warmReset_kept {s0 s : State} (hk : Kept s0 s) :
    Kept s0 (State.warmReset s) := by
  unfold State.warmReset
  repeat' first
    | with_reducible assumption | with_reducible apply State.afterReset_kept

theorem State.bothMd_kept {s0 s : State} (hk : Kept s0 s) (off : Nat) (hi : Nat) (lo : Nat) (v : Nat) :
    Kept s0 (State.bothMd s off hi lo v) := by
  unfold State.bothMd
  repeat' first
    | with_reducible assumption | with_reducible apply State.setFld_kept | with_reducible refine Kept.foldl ?_ ?_ | intro _

theorem State.bootState_kept {s0 s : State} (hk : Kept s0 s) (x : Nat) :
    Kept s0 (State.bootState s x) := by
  unfold State.bootState
  repeat' first
    | with_reducible assumption | with_reducible apply State.bothMd_kept

theorem State.powerAll_kept {s0 s : State} (hk : Kept s0 s) (bs : List (BenchId × Nat)) :
    Kept s0 (State.powerAll s bs) := by
  unfold State.powerAll
  repeat' first
    | with_reducible assumption | intro _
    | (extract_lets +onlyGivenNames x; first | (clear_value (e : x = _); first | with_reducible refine Kept.byEq s0 e ?_ ?_ | clear e) | skip)
    | with_reducible refine Kept.upd ?_

theorem State.hold_kept {s0 s : State} (hk : Kept s0 s) (ra : Nat) (rb : Nat) :
    Kept s0 (State.hold s ra rb) := by
  unfold State.hold
  repeat' first
    | with_reducible assumption | with_reducible apply State.bootState_kept | with_reducible apply State.bothMd_kept
    | with_reducible apply State.powerAll_kept | with_reducible apply State.dropRange_kept | intro _
    | (extract_lets +onlyGivenNames x; first | (clear_value (e : x = _); first | with_reducible refine Kept.byEq s0 e ?_ ?_ | clear e) | skip)
    | with_reducible refine Kept.upd ?_

theorem State.bootIdentity_kept {s0 s : State} (hk : Kept s0 s) :
    Kept s0 (State.bootIdentity s) := by
  unfold State.bootIdentity
  repeat' first
    | with_reducible assumption | with_reducible apply State.setFld_kept | with_reducible apply State.setWords_kept
    | with_reducible refine Kept.foldl ?_ ?_ | intro _
    | (extract_lets +onlyGivenNames x; first | (clear_value (e : x = _); first | with_reducible refine Kept.byEq s0 e ?_ ?_ | clear e) | skip)
    | split

theorem State.bootRecord_kept {s0 s : State} (hk : Kept s0 s) (c : RecordCopy) :
    Kept s0 (State.bootRecord s c) := by
  unfold State.bootRecord
  repeat' first
    | with_reducible assumption | with_reducible apply State.bothMd_kept | with_reducible apply State.updRecord_kept
    | with_reducible apply State.flushRecord_kept | with_reducible apply State.setFld_kept | intro _
    | (extract_lets +onlyGivenNames x; first | (clear_value (e : x = _); first | with_reducible refine Kept.byEq s0 e ?_ ?_ | clear e) | skip)
    | split | with_reducible refine Kept.upd ?_

theorem State.bootOrder_kept {s0 s : State} (hk : Kept s0 s) :
    Kept s0 (State.bootOrder s).2.2 := by
  show Kept3 s0 _
  unfold State.bootOrder
  repeat' first
    | with_reducible assumption | with_reducible apply State.updRecord_kept | with_reducible apply State.flushRecord_kept
    | with_reducible apply State.log_kept | intro _
    | (extract_lets +onlyGivenNames x; first | (clear_value (e : x = _); first | with_reducible refine Kept.byEq s0 e ?_ ?_ | with_reducible refine Kept.byEq3 s0 e ?_ ?_ | clear e) | skip)
    | split | with_reducible refine Kept3.mk ?_ | with_reducible refine Kept3.of ?_ | with_reducible refine Kept.upd ?_

theorem State.bootSlot_kept {s0 s : State} (hk : Kept s0 s) :
    Kept s0 (State.bootSlot s).2 := by
  show Kept2 s0 _
  unfold State.bootSlot
  repeat' first
    | with_reducible assumption | with_reducible apply State.bootOrder_kept | with_reducible apply State.bothMd_kept
    | with_reducible refine Kept.foldl ?_ ?_ | with_reducible refine Kept.foldl2 ?_ ?_ | with_reducible refine Kept2.foldl ?_ ?_
    | with_reducible refine Kept3.foldl ?_ ?_ | intro _
    | (extract_lets +onlyGivenNames x; first | (clear_value (e : x = _); first | with_reducible refine Kept.byEq s0 e ?_ ?_ | with_reducible refine Kept.byEq2 s0 e ?_ ?_ | with_reducible refine Kept.byEq3 s0 e ?_ ?_ | clear e) | skip)
    | split | with_reducible refine Kept.pair2 (by assumption) ?_ | with_reducible refine Kept.pair3 (by assumption) ?_
    | with_reducible refine Kept2.mk ?_ | with_reducible refine Kept2.of ?_ | with_reducible refine Kept3.mk ?_
    | with_reducible refine Kept3.of ?_ | with_reducible refine Kept.upd ?_

theorem State.setMeas_kept {s0 s : State} (hk : Kept s0 s) (m : List Byte) :
    Kept s0 (State.setMeas s m) := by
  unfold State.setMeas
  repeat' first
    | with_reducible assumption | with_reducible apply State.setWords_kept | intro _
    | (extract_lets +onlyGivenNames x; first | (clear_value (e : x = _); first | with_reducible refine Kept.byEq s0 e ?_ ?_ | clear e) | skip)
    | with_reducible refine Kept.upd ?_

theorem State.bootImage_kept {s0 s : State} (hk : Kept s0 s) (p : Nat) :
    Kept s0 (State.bootImage s p) := by
  unfold State.bootImage
  repeat' first
    | with_reducible assumption | with_reducible apply State.setFld_kept | with_reducible apply State.setMeas_kept | intro _
    | (extract_lets +onlyGivenNames x; first | (clear_value (e : x = _); first | with_reducible refine Kept.byEq s0 e ?_ ?_ | clear e) | skip)
    | split | with_reducible refine Kept.upd ?_

theorem State.bootUnits_kept {s0 s : State} (hk : Kept s0 s) :
    Kept s0 (State.bootUnits s) := by
  unfold State.bootUnits
  repeat' first
    | with_reducible assumption | with_reducible apply State.setPhys_kept | with_reducible apply State.setFld_kept
    | with_reducible apply State.updDie_kept | with_reducible apply State.setReg_kept | with_reducible apply State.service_kept
    | with_reducible apply State.powerAll_kept | with_reducible refine Kept.foldl ?_ ?_ | intro _
    | (extract_lets +onlyGivenNames x; first | (clear_value (e : x = _); first | with_reducible refine Kept.byEq s0 e ?_ ?_ | clear e) | skip)
    | split | with_reducible refine Kept.upd ?_

theorem State.trainFailed_kept {s0 s : State} (hk : Kept s0 s) (c : ChanId) :
    Kept s0 (State.trainFailed s c) := by
  unfold State.trainFailed
  repeat' first
    | with_reducible assumption | with_reducible apply State.dramFault_kept | with_reducible apply State.setFld_kept
    | with_reducible apply State.service_kept | with_reducible apply State.noteService_kept
    | with_reducible apply State.flushRecord_kept | with_reducible apply State.beyond_kept | intro _
    | (extract_lets +onlyGivenNames x; first | (clear_value (e : x = _); first | with_reducible refine Kept.byEq s0 e ?_ ?_ | clear e) | skip)
    | split | with_reducible refine Kept.upd ?_

theorem State.bootTrain_kept {s0 s : State} (hk : Kept s0 s) (failed : List ChanId) :
    Kept s0 (State.bootTrain s failed) := by
  unfold State.bootTrain
  repeat' first
    | with_reducible assumption | with_reducible apply State.updHub_kept | with_reducible apply State.trainFailed_kept
    | with_reducible refine Kept.foldl ?_ ?_ | intro _
    | (extract_lets +onlyGivenNames x; first | (clear_value (e : x = _); first | with_reducible refine Kept.byEq s0 e ?_ ?_ | clear e) | skip)
    | split | with_reducible refine Kept.upd ?_

theorem State.bootSfs_kept {s0 s : State} (hk : Kept s0 s) :
    Kept s0 (State.bootSfs s) := by
  unfold State.bootSfs
  repeat' first
    | with_reducible assumption | intro _ | with_reducible refine Kept.upd ?_

theorem State.bootPorts_kept {s0 s : State} (hk : Kept s0 s) :
    Kept s0 (State.bootPorts s) := by
  unfold State.bootPorts
  repeat' first
    | with_reducible assumption | with_reducible apply State.setLnk_kept | with_reducible apply State.updPort_kept
    | with_reducible refine Kept.foldl ?_ ?_ | intro _ | with_reducible refine Kept.upd ?_

theorem State.bootReady_kept {s0 s : State} (hk : Kept s0 s) :
    Kept s0 (State.bootReady s) := by
  unfold State.bootReady
  repeat' first
    | with_reducible assumption | with_reducible apply State.bootState_kept | with_reducible apply State.setRunMeas_kept
    | with_reducible apply State.updRecord_kept | with_reducible apply State.flushRecord_kept
    | with_reducible apply State.setFld_kept | intro _
    | (extract_lets +onlyGivenNames x; first | (clear_value (e : x = _); first | with_reducible refine Kept.byEq s0 e ?_ ?_ | clear e) | skip)
    | split | with_reducible refine Kept.upd ?_

theorem State.bringUp_kept {s0 s : State} (hk : Kept s0 s) (p : Nat) (upTo : Nat) (failed : List ChanId) :
    Kept s0 (State.bringUp s p upTo failed) := by
  unfold State.bringUp
  repeat' first
    | with_reducible assumption | with_reducible apply State.bootImage_kept | with_reducible apply State.bootState_kept
    | with_reducible apply State.bootUnits_kept | with_reducible apply State.bootSfs_kept
    | with_reducible apply State.bootTrain_kept | with_reducible apply State.bootPorts_kept
    | with_reducible apply State.bootReady_kept | intro _
    | (extract_lets +onlyGivenNames x; first | (clear_value (e : x = _); first | with_reducible refine Kept.byEq s0 e ?_ ?_ | clear e) | skip)
    | split

theorem State.boot_kept {s0 s : State} (hk : Kept s0 s) (upTo : Nat) (failed : List ChanId) :
    Kept s0 (State.boot s upTo failed) := by
  unfold State.boot
  repeat' first
    | with_reducible assumption | with_reducible apply State.satFld_kept | with_reducible apply State.bootIdentity_kept
    | with_reducible apply State.hold_kept | with_reducible apply State.bootRecord_kept
    | with_reducible apply State.bootState_kept | with_reducible apply State.bootSlot_kept
    | with_reducible apply State.bringUp_kept | with_reducible refine Kept.foldl ?_ ?_ | with_reducible refine Kept.foldl2 ?_ ?_
    | with_reducible refine Kept2.foldl ?_ ?_ | intro _
    | (extract_lets +onlyGivenNames x; first | (clear_value (e : x = _); first | with_reducible refine Kept.byEq s0 e ?_ ?_ | with_reducible refine Kept.byEq2 s0 e ?_ ?_ | clear e) | skip)
    | split | with_reducible refine Kept.pair2 (by assumption) ?_ | with_reducible refine Kept2.mk ?_
    | with_reducible refine Kept2.of ?_ | with_reducible refine Kept.upd ?_

theorem State.writeSlot_kept {s0 s : State} (hk : Kept s0 s) (step : Nat) (b : LenBucket) (i : Nat) (j : Nat) (p : Packing) :
    Kept s0 (State.writeSlot s step b i j p) := by
  unfold State.writeSlot
  repeat' first
    | with_reducible assumption | with_reducible apply State.storeLong_kept | intro _
    | (extract_lets +onlyGivenNames x; first | (clear_value (e : x = _); first | with_reducible refine Kept.byEq s0 e ?_ ?_ | clear e) | skip)
    | split | with_reducible refine Kept.upd ?_

theorem State.writeSlots_kept {s0 s : State} (hk : Kept s0 s) (step : Nat) (bs : List LenBucket) (p : Packing) :
    Kept s0 (State.writeSlots s step bs p) := by
  unfold State.writeSlots
  repeat' first
    | with_reducible assumption | with_reducible apply State.writeSlot_kept | with_reducible refine Kept.foldl ?_ ?_ | intro _

theorem State.writeMaps_kept {s0 s : State} (hk : Kept s0 s) (maps : List (Nat × List Byte)) :
    Kept s0 (State.writeMaps s maps) := by
  unfold State.writeMaps
  repeat' first
    | with_reducible assumption | with_reducible apply State.storeLong_kept | with_reducible refine Kept.foldl ?_ ?_ | intro _
    | split | with_reducible refine Kept.upd ?_

theorem State.loaderPack_kept {s0 s : State} (hk : Kept s0 s) (step : Nat) (xs : List Sample) (maps : List (Nat × List Byte)) :
    Kept s0 (State.loaderPack s step xs maps) := by
  unfold State.loaderPack
  repeat' first
    | with_reducible assumption | with_reducible apply State.writeSlots_kept | with_reducible apply State.writeMaps_kept | intro _
    | (extract_lets +onlyGivenNames x; first | (clear_value (e : x = _); first | with_reducible refine Kept.byEq s0 e ?_ ?_ | clear e) | skip)
    | split | with_reducible refine Kept.upd ?_

theorem State.hostRestart_kept {s0 s : State} (hk : Kept s0 s) (md : Md) :
    Kept s0 (State.hostRestart s md) := by
  unfold State.hostRestart
  repeat' first
    | with_reducible assumption | with_reducible apply State.log_kept | with_reducible apply State.beyond_kept | intro _
    | (extract_lets +onlyGivenNames x; first | (clear_value (e : x = _); first | with_reducible refine Kept.byEq s0 e ?_ ?_ | clear e) | skip)
    | split | with_reducible refine Kept.upd ?_

theorem State.i3cPoll_kept {s0 s : State} (hk : Kept s0 s) (dev : Fin 32) (answer : Option (BitVec 16)) :
    Kept s0 (State.i3cPoll s dev answer) := by
  unfold State.i3cPoll
  repeat' first
    | with_reducible assumption | with_reducible apply State.countMd_kept | with_reducible apply State.log_kept | intro _
    | (extract_lets +onlyGivenNames x; first | (clear_value (e : x = _); first | with_reducible refine Kept.byEq s0 e ?_ ?_ | clear e) | skip)
    | split | with_reducible refine Kept.upd ?_

theorem State.driveOut_kept {s0 s : State} (hk : Kept s0 s) (d : Nat) :
    Kept s0 (State.driveOut s d) := by
  unfold State.driveOut
  repeat' first
    | with_reducible assumption | with_reducible apply State.log_kept | with_reducible refine Kept.upd ?_

theorem State.sessionRefused_kept {s0 s : State} (hk : Kept s0 s) (md : Md) (session : Nat) (status : Nat) :
    Kept s0 (State.sessionRefused s md session status) := by
  unfold State.sessionRefused
  repeat' first
    | with_reducible assumption | with_reducible apply State.countMd_kept | with_reducible apply State.say_kept

theorem State.sessionOpen_kept {s0 s : State} (hk : Kept s0 s) (md : Md) (session : Nat) (ek : List Byte) (nonce : List Byte) :
    Kept s0 (State.sessionOpen s md session ek nonce) := by
  unfold State.sessionOpen
  repeat' first
    | with_reducible assumption | with_reducible apply State.sessionRefused_kept | with_reducible apply State.say_kept | intro _
    | (extract_lets +onlyGivenNames x; first | (clear_value (e : x = _); first | with_reducible refine Kept.byEq s0 e ?_ ?_ | clear e) | skip)
    | split | with_reducible refine Kept.upd ?_

theorem State.sessionConfirm_kept {s0 s : State} (hk : Kept s0 s) (md : Md) (session : Nat) (sig : List Byte) :
    Kept s0 (State.sessionConfirm s md session sig) := by
  unfold State.sessionConfirm
  repeat' first
    | with_reducible assumption | with_reducible apply State.discard_kept | with_reducible apply State.putSession_kept
    | with_reducible apply State.countMd_kept | with_reducible apply State.say_kept | with_reducible apply State.dropSession_kept
    | with_reducible apply State.sessionRefused_kept | intro _
    | (extract_lets +onlyGivenNames x; first | (clear_value (e : x = _); first | with_reducible refine Kept.byEq s0 e ?_ ?_ | clear e) | skip)
    | split | with_reducible refine Kept.upd ?_

theorem State.sessionIdle_kept {s0 s : State} (hk : Kept s0 s) (md : Md) (session : Nat) :
    Kept s0 (State.sessionIdle s md session) := by
  unfold State.sessionIdle
  repeat' first
    | with_reducible assumption | with_reducible apply State.requests_kept | with_reducible apply State.reach_kept
    | with_reducible apply State.dropSession_kept | split | with_reducible refine Kept.pair2 (by assumption) ?_
    | with_reducible refine Kept.upd ?_

theorem State.setSlot_kept {s0 s : State} (hk : Kept s0 s) (slot : Nat) (g : Option ImageSlot) :
    Kept s0 (State.setSlot s slot g) := by
  unfold State.setSlot
  repeat' first
    | with_reducible assumption | with_reducible refine Kept.upd ?_

theorem State.updateField_kept {s0 s : State} (hk : Kept s0 s) (hi : Nat) (lo : Nat) (v : Nat) :
    Kept s0 (State.updateField s hi lo v) := by
  unfold State.updateField
  repeat' first
    | with_reducible assumption | with_reducible apply State.bothMd_kept

theorem State.upload_kept {s0 s : State} (hk : Kept s0 s) (rq : Rq) (slot : Fin 2) (img : ImageSlot) :
    Kept s0 (State.upload s rq slot img) := by
  unfold State.upload
  repeat' first
    | with_reducible assumption | with_reducible apply State.updateField_kept | with_reducible apply State.reply_kept
    | with_reducible apply State.setSlot_kept | intro _
    | (extract_lets +onlyGivenNames x; first | (clear_value (e : x = _); first | with_reducible refine Kept.byEq s0 e ?_ ?_ | clear e) | skip)
    | split | with_reducible refine Kept.upd ?_

theorem State.verified_kept {s0 s : State} (hk : Kept s0 s) :
    Kept s0 (State.verified s) := by
  unfold State.verified
  repeat' first
    | with_reducible assumption | with_reducible apply State.upload_kept | with_reducible apply State.updateField_kept
    | with_reducible apply State.updRecord_kept | with_reducible apply State.flushRecord_kept
    | with_reducible apply State.reply_kept | intro _
    | (extract_lets +onlyGivenNames x; first | (clear_value (e : x = _); first | with_reducible refine Kept.byEq s0 e ?_ ?_ | clear e) | skip)
    | split | with_reducible refine Kept.upd ?_

theorem State.attest_kept {s0 s : State} (hk : Kept s0 s) (rq : Rq) (nonce : List Byte) :
    Kept s0 (State.attest s rq nonce) := by
  unfold State.attest
  repeat' first
    | with_reducible assumption | with_reducible apply State.countMd_kept | with_reducible apply State.reply_kept | intro _
    | (extract_lets +onlyGivenNames x; first | (clear_value (e : x = _); first | with_reducible refine Kept.byEq s0 e ?_ ?_ | clear e) | skip)
    | split | with_reducible refine Kept.upd ?_

theorem State.noteRead_kept {s0 s : State} (hk : Kept s0 s) (rq : Rq) (first : Nat) (count : Nat) :
    Kept s0 (State.noteRead s rq first count) := by
  unfold State.noteRead
  repeat' first
    | with_reducible assumption | with_reducible apply State.putSession_kept | intro _
    | (extract_lets +onlyGivenNames x; first | (clear_value (e : x = _); first | with_reducible refine Kept.byEq s0 e ?_ ?_ | clear e) | skip)
    | split | with_reducible refine Kept.upd ?_

theorem State.logRead_kept {s0 s : State} (hk : Kept s0 s) (rq : Rq) (ring : Bool) (first : Nat) (count : Nat) :
    Kept s0 (State.logRead s rq ring first count) := by
  unfold State.logRead
  repeat' first
    | with_reducible assumption | with_reducible apply State.log_kept | with_reducible apply State.noteRead_kept
    | with_reducible apply State.reply_kept | intro _
    | (extract_lets +onlyGivenNames x; first | (clear_value (e : x = _); first | with_reducible refine Kept.byEq s0 e ?_ ?_ | clear e) | skip)
    | split

theorem State.logErase_kept {s0 s : State} (hk : Kept s0 s) (rq : Rq) :
    Kept s0 (State.logErase s rq) := by
  unfold State.logErase
  repeat' first
    | with_reducible assumption | with_reducible apply State.log_kept | with_reducible apply State.setFld_kept
    | with_reducible apply State.reply_kept | intro _
    | (extract_lets +onlyGivenNames x; first | (clear_value (e : x = _); first | with_reducible refine Kept.byEq s0 e ?_ ?_ | clear e) | skip)
    | split | with_reducible refine Kept.upd ?_

end Sys2Proof.Machine
end

