-- ==== Sys2Proof/Laws/KeptArms.lean ====
section
/-!
SUPPORT. Each meaning answers a next state, and what it keeps (`Kept`).
-/
set_option linter.tactic.unusedName false
namespace Sys2Proof.Machine

/-- The answer is a next state that has kept the queue, the order of time and the form of memory. -/
def KeptNext (s : State) (o : Out) : Prop := ∃ t, o = .next t ∧ Kept s t

theorem execSnop_kept (c : CoreId) (b : Bundle) (s : State) : KeptNext s (execSnop c b s) := by
  refine ⟨_, rfl, ?_⟩
  have hk := Kept.refl s
  repeat' first
    | with_reducible assumption | with_reducible apply State.slotDo_kept | intro _

theorem execSalu_kept (c : CoreId) (b : Bundle) (s : State) : KeptNext s (execSalu c b s) := by
  refine ⟨_, rfl, ?_⟩
  have hk := Kept.refl s
  repeat' first
    | with_reducible assumption | with_reducible apply State.slotDo_kept | with_reducible apply State.saluEff_kept | intro _

theorem execAddi_kept (c : CoreId) (b : Bundle) (s : State) : KeptNext s (execAddi c b s) := by
  refine ⟨_, rfl, ?_⟩
  have hk := Kept.refl s
  repeat' first
    | with_reducible assumption | with_reducible apply State.slotDo_kept | with_reducible apply State.scalarImm_kept | intro _

theorem execAndi_kept (c : CoreId) (b : Bundle) (s : State) : KeptNext s (execAndi c b s) := by
  refine ⟨_, rfl, ?_⟩
  have hk := Kept.refl s
  repeat' first
    | with_reducible assumption | with_reducible apply State.slotDo_kept | with_reducible apply State.scalarImm_kept | intro _

theorem execOri_kept (c : CoreId) (b : Bundle) (s : State) : KeptNext s (execOri c b s) := by
  refine ⟨_, rfl, ?_⟩
  have hk := Kept.refl s
  repeat' first
    | with_reducible assumption | with_reducible apply State.slotDo_kept | with_reducible apply State.scalarImm_kept | intro _

theorem execXori_kept (c : CoreId) (b : Bundle) (s : State) : KeptNext s (execXori c b s) := by
  refine ⟨_, rfl, ?_⟩
  have hk := Kept.refl s
  repeat' first
    | with_reducible assumption | with_reducible apply State.slotDo_kept | with_reducible apply State.scalarImm_kept | intro _

theorem execShi_kept (c : CoreId) (b : Bundle) (s : State) : KeptNext s (execShi c b s) := by
  refine ⟨_, rfl, ?_⟩
  have hk := Kept.refl s
  repeat' first
    | with_reducible assumption | with_reducible apply State.slotDo_kept | with_reducible apply State.scalarImm_kept | intro _

theorem execLim_kept (c : CoreId) (b : Bundle) (s : State) : KeptNext s (execLim c b s) := by
  refine ⟨_, rfl, ?_⟩
  have hk := Kept.refl s
  repeat' first
    | with_reducible assumption | with_reducible apply State.slotDo_kept | with_reducible apply State.limEff_kept | intro _

theorem execBr_kept (c : CoreId) (b : Bundle) (s : State) : KeptNext s (execBr c b s) := by
  refine ⟨_, rfl, ?_⟩
  have hk := Kept.refl s
  repeat' first
    | with_reducible assumption | with_reducible apply State.slotDo_kept | with_reducible apply State.brEff_kept | intro _

theorem execLoop_kept (c : CoreId) (b : Bundle) (s : State) : KeptNext s (execLoop c b s) := by
  refine ⟨_, rfl, ?_⟩
  have hk := Kept.refl s
  repeat' first
    | with_reducible assumption | with_reducible apply State.slotDo_kept | with_reducible apply State.loopEff_kept | intro _

theorem execRdsr_kept (c : CoreId) (b : Bundle) (s : State) : KeptNext s (execRdsr c b s) := by
  refine ⟨_, rfl, ?_⟩
  have hk := Kept.refl s
  repeat' first
    | with_reducible assumption | with_reducible apply State.slotDo_kept | with_reducible apply State.rdsrEff_kept | intro _

theorem execRegisterWriteback_kept (c : CoreId) (s : State) : KeptNext s (execRegisterWriteback c s) := by
  refine ⟨_, rfl, ?_⟩
  have hk := Kept.refl s
  repeat' first
    | with_reducible assumption | with_reducible apply State.reach_kept | with_reducible apply State.applyBefore_kept | intro _
    | (extract_lets +onlyGivenNames x; first | (clear_value (e : x = _); first | with_reducible refine Kept.byEq s e ?_ ?_ | clear e) | skip)
    | split | with_reducible refine Kept.upd ?_

theorem execMnop_kept (c : CoreId) (b : Bundle) (s : State) : KeptNext s (execMnop c b s) := by
  refine ⟨_, rfl, ?_⟩
  have hk := Kept.refl s
  repeat' first
    | with_reducible assumption | with_reducible apply State.slotDo_kept | intro _

theorem execMwld_kept (c : CoreId) (b : Bundle) (s : State) : KeptNext s (execMwld c b s) := by
  refine ⟨_, rfl, ?_⟩
  have hk := Kept.refl s
  repeat' first
    | with_reducible assumption | with_reducible apply State.slotDo_kept | with_reducible apply State.mwldEff_kept | intro _

theorem execMscl_kept (c : CoreId) (b : Bundle) (s : State) : KeptNext s (execMscl c b s) := by
  refine ⟨_, rfl, ?_⟩
  have hk := Kept.refl s
  repeat' first
    | with_reducible assumption | with_reducible apply State.slotDo_kept | with_reducible apply State.msclEff_kept | intro _

theorem execMstep_kept (c : CoreId) (b : Bundle) (s : State) : KeptNext s (execMstep c b s) := by
  refine ⟨_, rfl, ?_⟩
  have hk := Kept.refl s
  repeat' first
    | with_reducible assumption | with_reducible apply State.slotDo_kept | with_reducible apply State.mstepEff_kept | intro _

theorem execMmask_kept (c : CoreId) (b : Bundle) (s : State) : KeptNext s (execMmask c b s) := by
  refine ⟨_, rfl, ?_⟩
  have hk := Kept.refl s
  repeat' first
    | with_reducible assumption | with_reducible apply State.slotDo_kept | with_reducible apply State.mmaskEff_kept | intro _

theorem execArrayResultWrite_kept (b : BenchId) (s : State) : KeptNext s (execArrayResultWrite b s) := by
  refine ⟨_, rfl, ?_⟩
  have hk := Kept.refl s
  repeat' first
    | with_reducible assumption | with_reducible apply State.settle_kept | with_reducible apply State.reach_kept
    | with_reducible apply State.writeSteps_kept | intro _
    | (extract_lets +onlyGivenNames x; first | (clear_value (e : x = _); first | with_reducible refine Kept.byEq s e ?_ ?_ | clear e) | skip)
    | split | with_reducible refine Kept.upd ?_

theorem execVnop_kept (c : CoreId) (b : Bundle) (s : State) : KeptNext s (execVnop c b s) := by
  refine ⟨_, rfl, ?_⟩
  have hk := Kept.refl s
  repeat' first
    | with_reducible assumption | with_reducible apply State.slotDo_kept | intro _

theorem execVarith_kept (c : CoreId) (b : Bundle) (s : State) : KeptNext s (execVarith c b s) := by
  refine ⟨_, rfl, ?_⟩
  have hk := Kept.refl s
  repeat' first
    | with_reducible assumption | with_reducible apply State.slotDo_kept | with_reducible apply State.v3Sel_kept | intro _

theorem execVfma_kept (c : CoreId) (b : Bundle) (s : State) : KeptNext s (execVfma c b s) := by
  refine ⟨_, rfl, ?_⟩
  have hk := Kept.refl s
  repeat' first
    | with_reducible assumption | with_reducible apply State.slotDo_kept | with_reducible apply State.v4Eff_kept | intro _

theorem execVfms_kept (c : CoreId) (b : Bundle) (s : State) : KeptNext s (execVfms c b s) := by
  refine ⟨_, rfl, ?_⟩
  have hk := Kept.refl s
  repeat' first
    | with_reducible assumption | with_reducible apply State.slotDo_kept | with_reducible apply State.v4Eff_kept | intro _

theorem execVfnma_kept (c : CoreId) (b : Bundle) (s : State) : KeptNext s (execVfnma c b s) := by
  refine ⟨_, rfl, ?_⟩
  have hk := Kept.refl s
  repeat' first
    | with_reducible assumption | with_reducible apply State.slotDo_kept | with_reducible apply State.v4Eff_kept | intro _

theorem execVcmp_kept (c : CoreId) (b : Bundle) (s : State) : KeptNext s (execVcmp c b s) := by
  refine ⟨_, rfl, ?_⟩
  have hk := Kept.refl s
  repeat' first
    | with_reducible assumption | with_reducible apply State.slotDo_kept | with_reducible apply State.v3Sel_kept | intro _

theorem execVsel_kept (c : CoreId) (b : Bundle) (s : State) : KeptNext s (execVsel c b s) := by
  refine ⟨_, rfl, ?_⟩
  have hk := Kept.refl s
  repeat' first
    | with_reducible assumption | with_reducible apply State.slotDo_kept | with_reducible apply State.v4Eff_kept | intro _

theorem execVcvt_kept (c : CoreId) (b : Bundle) (s : State) : KeptNext s (execVcvt c b s) := by
  refine ⟨_, rfl, ?_⟩
  have hk := Kept.refl s
  repeat' first
    | with_reducible assumption | with_reducible apply State.slotDo_kept | with_reducible apply State.vcvtEff_kept | intro _

theorem execVbit_kept (c : CoreId) (b : Bundle) (s : State) : KeptNext s (execVbit c b s) := by
  refine ⟨_, rfl, ?_⟩
  have hk := Kept.refl s
  repeat' first
    | with_reducible assumption | with_reducible apply State.slotDo_kept | with_reducible apply State.v3Sel_kept | intro _

theorem execVshuf_kept (c : CoreId) (b : Bundle) (s : State) : KeptNext s (execVshuf c b s) := by
  refine ⟨_, rfl, ?_⟩
  have hk := Kept.refl s
  repeat' first
    | with_reducible assumption | with_reducible apply State.slotDo_kept | with_reducible apply State.v3Sel_kept | intro _

theorem execVred_kept (c : CoreId) (b : Bundle) (s : State) : KeptNext s (execVred c b s) := by
  refine ⟨_, rfl, ?_⟩
  have hk := Kept.refl s
  repeat' first
    | with_reducible assumption | with_reducible apply State.slotDo_kept | with_reducible apply State.vredEff_kept | intro _

theorem execVscan_kept (c : CoreId) (b : Bundle) (s : State) : KeptNext s (execVscan c b s) := by
  refine ⟨_, rfl, ?_⟩
  have hk := Kept.refl s
  repeat' first
    | with_reducible assumption | with_reducible apply State.slotDo_kept | with_reducible apply State.vscanEff_kept | intro _

theorem execVbfly_kept (c : CoreId) (b : Bundle) (s : State) : KeptNext s (execVbfly c b s) := by
  refine ⟨_, rfl, ?_⟩
  have hk := Kept.refl s
  repeat' first
    | with_reducible assumption | with_reducible apply State.slotDo_kept | with_reducible apply State.vbflyEff_kept | intro _

theorem execVgact_kept (c : CoreId) (b : Bundle) (s : State) : KeptNext s (execVgact c b s) := by
  refine ⟨_, rfl, ?_⟩
  have hk := Kept.refl s
  repeat' first
    | with_reducible assumption | with_reducible apply State.slotDo_kept | with_reducible apply State.v3Eff_kept
    | with_reducible apply State.countCore_kept | intro _

theorem execVbcast_kept (c : CoreId) (b : Bundle) (s : State) : KeptNext s (execVbcast c b s) := by
  refine ⟨_, rfl, ?_⟩
  have hk := Kept.refl s
  repeat' first
    | with_reducible assumption | with_reducible apply State.slotDo_kept | with_reducible apply State.v3Eff_kept | intro _

theorem execVsfn_kept (c : CoreId) (b : Bundle) (s : State) : KeptNext s (execVsfn c b s) := by
  refine ⟨_, rfl, ?_⟩
  have hk := Kept.refl s
  repeat' first
    | with_reducible assumption | with_reducible apply State.slotDo_kept | with_reducible apply State.vsfnEff_kept | intro _

theorem execVmvdot_kept (c : CoreId) (b : Bundle) (s : State) : KeptNext s (execVmvdot c b s) := by
  refine ⟨_, rfl, ?_⟩
  have hk := Kept.refl s
  repeat' first
    | with_reducible assumption | with_reducible apply State.slotDo_kept | with_reducible apply State.v4Eff_kept
    | with_reducible apply State.countCore_kept | intro _

theorem execXlatRootWrite_kept (o : Origin) (n : Fin 2) (v : Word64) (s : State) : KeptNext s (execXlatRootWrite o n v s) := by
  refine ⟨_, rfl, ?_⟩
  have hk := Kept.refl s
  repeat' first
    | with_reducible assumption | with_reducible apply State.originWrite_kept | with_reducible apply State.wXlatRoot_kept
    | intro _

theorem execXlatSwapRequest_kept (o : Origin) (s : State) : KeptNext s (execXlatSwapRequest o s) := by
  refine ⟨_, rfl, ?_⟩
  have hk := Kept.refl s
  repeat' first
    | with_reducible assumption | with_reducible apply State.originWrite_kept | with_reducible apply State.wXlatCtl_kept | intro _

theorem execXlatSwap_kept (s : State) : KeptNext s (execXlatSwap s) := by
  refine ⟨_, rfl, ?_⟩
  have hk := Kept.refl s
  repeat' first
    | with_reducible assumption | with_reducible apply State.doSwap_kept | split

theorem execTranslationWalkComplete_kept (p : XPath) (addr : Addr) (s : State) : KeptNext s (execTranslationWalkComplete p addr s) := by
  refine ⟨_, rfl, ?_⟩
  have hk := Kept.refl s
  repeat' first
    | with_reducible assumption | with_reducible apply State.lookup_kept

theorem execPluckTableFire_kept (entry : Nat) (s : State) : KeptNext s (execPluckTableFire entry s) := by
  refine ⟨_, rfl, ?_⟩
  have hk := Kept.refl s
  repeat' first
    | with_reducible assumption | with_reducible apply State.reach_kept | with_reducible apply State.countDie_kept
    | with_reducible apply State.updDie_kept | intro _
    | (extract_lets +onlyGivenNames x; first | (clear_value (e : x = _); first | with_reducible refine Kept.byEq s e ?_ ?_ | clear e) | skip)
    | split | with_reducible refine Kept.upd ?_

theorem execPluckArrival_kept (b : BenchId) (bridge : Bool) (s : State) : KeptNext s (execPluckArrival b bridge s) := by
  refine ⟨_, rfl, ?_⟩
  have hk := Kept.refl s
  repeat' first
    | with_reducible assumption | with_reducible apply State.wakeRequest_kept | with_reducible apply State.updDie_kept | intro _
    | split | with_reducible refine Kept.upd ?_

theorem execBenchParkComplete_kept (b : BenchId) (s : State) : KeptNext s (execBenchParkComplete b s) := by
  refine ⟨_, rfl, ?_⟩
  have hk := Kept.refl s
  repeat' first
    | with_reducible assumption | with_reducible apply State.tryPark_kept | with_reducible apply State.entryDone_kept

theorem execBenchWakeComplete_kept (b : BenchId) (s : State) : KeptNext s (execBenchWakeComplete b s) := by
  refine ⟨_, rfl, ?_⟩
  have hk := Kept.refl s
  repeat' first
    | with_reducible assumption | with_reducible apply State.wakeDone_kept

theorem execBenchReentry_kept (b : BenchId) (s : State) : KeptNext s (execBenchReentry b s) := by
  refine ⟨_, rfl, ?_⟩
  have hk := Kept.refl s
  repeat' first
    | with_reducible assumption | with_reducible apply State.setBench_kept | with_reducible apply State.tryPark_kept | intro _
    | (extract_lets +onlyGivenNames x; first | (clear_value (e : x = _); first | with_reducible refine Kept.byEq s e ?_ ?_ | clear e) | skip)
    | split | with_reducible refine Kept.upd ?_

theorem execWakeTimeout_kept (b : BenchId) (s : State) : KeptNext s (execWakeTimeout b s) := by
  refine ⟨_, rfl, ?_⟩
  have hk := Kept.refl s
  repeat' first
    | with_reducible assumption | with_reducible apply State.reach_kept | with_reducible apply State.powerFault_kept
    | with_reducible apply State.unitFailed_kept | split

theorem execDomainResetRequest_kept (o : Origin) (die : Die) (v : Word64) (s : State) : KeptNext s (execDomainResetRequest o die v s) := by
  refine ⟨_, rfl, ?_⟩
  have hk := Kept.refl s
  repeat' first
    | with_reducible assumption | with_reducible apply State.originWrite_kept | with_reducible apply State.wDomReset_kept
    | intro _

theorem execDomainResetComplete_kept (die : Die) (s : State) : KeptNext s (execDomainResetComplete die s) := by
  refine ⟨_, rfl, ?_⟩
  have hk := Kept.refl s
  repeat' first
    | with_reducible assumption | with_reducible apply State.domResetDone_kept

theorem execPllLockLoss_kept (die : Fin 64) (pll : Fin 3) (s : State) : KeptNext s (execPllLockLoss die pll s) := by
  refine ⟨_, rfl, ?_⟩
  have hk := Kept.refl s
  repeat' first
    | with_reducible assumption | with_reducible apply State.lockLoss_kept

theorem execDroopStretch_kept (die : Die) (s : State) : KeptNext s (execDroopStretch die s) := by
  refine ⟨_, rfl, ?_⟩
  have hk := Kept.refl s
  repeat' first
    | with_reducible assumption | with_reducible apply State.satFld_kept | with_reducible apply State.countDie_kept
    | with_reducible apply State.setDie_kept | intro _
    | (extract_lets +onlyGivenNames x; first | (clear_value (e : x = _); first | with_reducible refine Kept.byEq s e ?_ ?_ | clear e) | skip)
    | split | with_reducible refine Kept.upd ?_

theorem execDroopFault_kept (die : Die) (s : State) : KeptNext s (execDroopFault die s) := by
  refine ⟨_, rfl, ?_⟩
  have hk := Kept.refl s
  repeat' first
    | with_reducible assumption | with_reducible apply State.setFld_kept | with_reducible apply State.countDie_kept
    | with_reducible apply State.envelopeFault_kept

theorem execPowerWindow_kept (draw : Nat) (perStack : List Nat) (s : State) : KeptNext s (execPowerWindow draw perStack s) := by
  refine ⟨_, rfl, ?_⟩
  have hk := Kept.refl s
  repeat' first
    | with_reducible assumption | with_reducible apply State.window_kept

theorem execThermalFault_kept (u : UnitRef) (s : State) : KeptNext s (execThermalFault u s) := by
  refine ⟨_, rfl, ?_⟩
  extract_lets +onlyGivenNames a
  have ha : Kept s a := State.log_kept (Kept.refl s) _ _ _ _ _ _
  clear_value a
  extract_lets +onlyGivenNames j m b c
  have hb : Kept s b := Kept.upd ha
  have hc : Kept s c := by
    unfold c; clear_value b; split
    · exact State.setFld_kept hb _ _ _ _
    · exact hb
  clear_value c
  exact State.say_kept hc _ _

theorem execThermalTrip_kept (s : State) : KeptNext s (execThermalTrip s) := by
  refine ⟨_, rfl, ?_⟩
  have hk := Kept.refl s
  repeat' first
    | with_reducible assumption | with_reducible apply State.setFld_kept | with_reducible apply State.dropRange_kept
    | with_reducible refine Kept.foldl ?_ ?_ | intro _
    | (extract_lets +onlyGivenNames x; first | (clear_value (e : x = _); first | with_reducible refine Kept.byEq s e ?_ ?_ | clear e) | skip)
    | with_reducible refine Kept.upd ?_

theorem execMsnop_kept (c : CoreId) (b : Bundle) (s : State) : KeptNext s (execMsnop c b s) := by
  refine ⟨_, rfl, ?_⟩
  have hk := Kept.refl s
  repeat' first
    | with_reducible assumption | with_reducible apply State.slotDo_kept | intro _

theorem execLdv_kept (c : CoreId) (b : Bundle) (s : State) : KeptNext s (execLdv c b s) := by
  refine ⟨_, rfl, ?_⟩
  have hk := Kept.refl s
  repeat' first
    | with_reducible assumption | with_reducible apply State.slotDo_kept | with_reducible apply State.ldvEff_kept | intro _

theorem execStv_kept (c : CoreId) (b : Bundle) (s : State) : KeptNext s (execStv c b s) := by
  refine ⟨_, rfl, ?_⟩
  have hk := Kept.refl s
  repeat' first
    | with_reducible assumption | with_reducible apply State.slotDo_kept | with_reducible apply State.stvEff_kept | intro _

theorem execLds_kept (c : CoreId) (b : Bundle) (s : State) : KeptNext s (execLds c b s) := by
  refine ⟨_, rfl, ?_⟩
  have hk := Kept.refl s
  repeat' first
    | with_reducible assumption | with_reducible apply State.slotDo_kept | with_reducible apply State.ldsEff_kept | intro _

theorem execSts_kept (c : CoreId) (b : Bundle) (s : State) : KeptNext s (execSts c b s) := by
  refine ⟨_, rfl, ?_⟩
  have hk := Kept.refl s
  repeat' first
    | with_reducible assumption | with_reducible apply State.slotDo_kept | with_reducible apply State.stsEff_kept | intro _

theorem execTfill_kept (c : CoreId) (b : Bundle) (s : State) : KeptNext s (execTfill c b s) := by
  refine ⟨_, rfl, ?_⟩
  have hk := Kept.refl s
  repeat' first
    | with_reducible assumption | with_reducible apply State.slotDo_kept | with_reducible apply State.tfillEff_kept | intro _

theorem execWaitu_kept (c : CoreId) (b : Bundle) (s : State) : KeptNext s (execWaitu c b s) := by
  refine ⟨_, rfl, ?_⟩
  have hk := Kept.refl s
  repeat' first
    | with_reducible assumption | with_reducible apply State.slotDo_kept | with_reducible apply State.waituEff_kept | intro _

theorem execDeadline_kept (c : CoreId) (b : Bundle) (s : State) : KeptNext s (execDeadline c b s) := by
  refine ⟨_, rfl, ?_⟩
  have hk := Kept.refl s
  repeat' first
    | with_reducible assumption | with_reducible apply State.slotDo_kept | with_reducible apply State.deadlineEff_kept | intro _

theorem execEclose_kept (c : CoreId) (b : Bundle) (s : State) : KeptNext s (execEclose c b s) := by
  refine ⟨_, rfl, ?_⟩
  have hk := Kept.refl s
  repeat' first
    | with_reducible assumption | with_reducible apply State.slotDo_kept | with_reducible apply State.ecloseEff_kept | intro _

theorem execSegend_kept (c : CoreId) (b : Bundle) (s : State) : KeptNext s (execSegend c b s) := by
  refine ⟨_, rfl, ?_⟩
  have hk := Kept.refl s
  repeat' first
    | with_reducible assumption | with_reducible apply State.slotDo_kept | with_reducible apply State.segendEff_kept | intro _

theorem execPluck_kept (c : CoreId) (b : Bundle) (s : State) : KeptNext s (execPluck c b s) := by
  refine ⟨_, rfl, ?_⟩
  have hk := Kept.refl s
  repeat' first
    | with_reducible assumption | with_reducible apply State.slotDo_kept | with_reducible apply State.pluckEff_kept | intro _

theorem execPark_kept (c : CoreId) (b : Bundle) (s : State) : KeptNext s (execPark c b s) := by
  refine ⟨_, rfl, ?_⟩
  have hk := Kept.refl s
  repeat' first
    | with_reducible assumption | with_reducible apply State.slotDo_kept | with_reducible apply State.parkEff_kept | intro _

theorem execWaituTargetReached_kept (c : CoreId) (s : State) : KeptNext s (execWaituTargetReached c s) := by
  refine ⟨_, rfl, ?_⟩
  have hk := Kept.refl s
  repeat' first
    | with_reducible assumption | with_reducible apply State.hold_kept | with_reducible apply State.reach_kept
    | with_reducible apply State.updCore_kept | intro _
    | (extract_lets +onlyGivenNames x; first | (clear_value (e : x = _); first | with_reducible refine Kept.byEq s e ?_ ?_ | clear e) | skip)
    | split | with_reducible refine Kept.upd ?_

theorem execRegionDeadline_kept (c : CoreId) (s : State) : KeptNext s (execRegionDeadline c s) := by
  refine ⟨_, rfl, ?_⟩
  have hk := Kept.refl s
  repeat' first
    | with_reducible assumption | with_reducible apply State.regionEnd_kept

theorem execTfillComplete_kept (c : CoreId) (half : Fin 2) (s : State) : KeptNext s (execTfillComplete c half s) := by
  refine ⟨_, rfl, ?_⟩
  have hk := Kept.refl s
  repeat' first
    | with_reducible assumption | with_reducible apply State.fillDone_kept

theorem execDiss_kept (c : CoreId) (b : Bundle) (s : State) : KeptNext s (execDiss c b s) := by
  refine ⟨_, rfl, ?_⟩
  have hk := Kept.refl s
  repeat' first
    | with_reducible assumption | with_reducible apply State.slotDo_kept | with_reducible apply State.dissEff_kept | intro _

theorem execLandingWrite_kept (c : CoreId) (arr : Option (Fin 1024 × Vec × BitVec 26 × Bool)) (s : State) : KeptNext s (execLandingWrite c arr s) := by
  refine ⟨_, rfl, ?_⟩
  have hk := Kept.refl s
  repeat' first
    | with_reducible assumption | with_reducible apply State.landingWrite_kept

theorem execLdc_kept (c : CoreId) (b : Bundle) (s : State) : KeptNext s (execLdc c b s) := by
  refine ⟨_, rfl, ?_⟩
  have hk := Kept.refl s
  repeat' first
    | with_reducible assumption | with_reducible apply State.slotDo_kept | with_reducible apply State.ldcEff_kept | intro _

theorem execStc_kept (c : CoreId) (b : Bundle) (s : State) : KeptNext s (execStc c b s) := by
  refine ⟨_, rfl, ?_⟩
  have hk := Kept.refl s
  repeat' first
    | with_reducible assumption | with_reducible apply State.slotDo_kept | with_reducible apply State.stcEff_kept | intro _

theorem execGstr_kept (c : CoreId) (b : Bundle) (s : State) : KeptNext s (execGstr c b s) := by
  refine ⟨_, rfl, ?_⟩
  have hk := Kept.refl s
  repeat' first
    | with_reducible assumption | with_reducible apply State.slotDo_kept | with_reducible apply State.gstrEff_kept | intro _

theorem execGwait_kept (c : CoreId) (b : Bundle) (s : State) : KeptNext s (execGwait c b s) := by
  refine ⟨_, rfl, ?_⟩
  have hk := Kept.refl s
  repeat' first
    | with_reducible assumption | with_reducible apply State.slotDo_kept | with_reducible apply State.gwaitEff_kept | intro _

theorem execCacheAccessComplete_kept (c : CoreId) (s : State) : KeptNext s (execCacheAccessComplete c s) := by
  refine ⟨_, rfl, ?_⟩
  have hk := Kept.refl s
  repeat' first
    | with_reducible assumption | with_reducible apply State.cacheDone_kept

theorem execPrefetchIssue_kept (b : BenchId) (line : BitVec 48) (up : Bool) (s : State) : KeptNext s (execPrefetchIssue b line up s) := by
  refine ⟨_, rfl, ?_⟩
  have hk := Kept.refl s
  repeat' first
    | with_reducible assumption | with_reducible apply State.prefetch_kept

theorem execGatherLineIssue_kept (c : CoreId) (s : State) : KeptNext s (execGatherLineIssue c s) := by
  refine ⟨_, rfl, ?_⟩
  have hk := Kept.refl s
  repeat' first
    | with_reducible assumption | with_reducible apply State.gatherIssue_kept

theorem execGatherLineComplete_kept (c : CoreId) (i : Nat) (s : State) : KeptNext s (execGatherLineComplete c i s) := by
  refine ⟨_, rfl, ?_⟩
  have hk := Kept.refl s
  repeat' first
    | with_reducible assumption | with_reducible apply State.gatherLand_kept

theorem execDescriptorComplete_kept (u : DescUnit) (s : State) : KeptNext s (execDescriptorComplete u s) := by
  refine ⟨_, rfl, ?_⟩
  have hk := Kept.refl s
  repeat' first
    | with_reducible assumption | with_reducible apply State.coreDescDone_kept | with_reducible apply State.engineDone_kept
    | split | with_reducible refine Kept.upd ?_

theorem execLandingDeadline_kept (c : CoreId) (line : Fin 1024) (s : State) : KeptNext s (execLandingDeadline c line s) := by
  refine ⟨_, rfl, ?_⟩
  have hk := Kept.refl s
  repeat' first
    | with_reducible assumption | with_reducible apply State.lineDeadline_kept

theorem execCopyStart_kept (h : Hub) (e : Fin 16) (entry : BitVec 32) (d : BitVec 1536) (s : State) : KeptNext s (execCopyStart h e entry d s) := by
  refine ⟨_, rfl, ?_⟩
  have hk := Kept.refl s
  repeat' first
    | with_reducible assumption | with_reducible apply State.copyStart_kept

theorem execMissSlotService_kept (c : ChanId) (die : Die) (s : State) : KeptNext s (execMissSlotService c die s) := by
  refine ⟨_, rfl, ?_⟩
  have hk := Kept.refl s
  repeat' first
    | with_reducible assumption | with_reducible apply State.chanStart_kept | with_reducible apply State.miss_kept

theorem execChannelStart_kept (c : ChanId) (use : StartUse) (s : State) : KeptNext s (execChannelStart c use s) := by
  refine ⟨_, rfl, ?_⟩
  have hk := Kept.refl s
  repeat' first
    | with_reducible assumption | with_reducible apply State.chanStart_kept

theorem execChannelRequestComplete_kept (h : Hub) (tag : Fin 4096) (s : State) : KeptNext s (execChannelRequestComplete h tag s) := by
  refine ⟨_, rfl, ?_⟩
  have hk := Kept.refl s
  repeat' first
    | with_reducible assumption | with_reducible apply State.reqDone_kept

theorem execRefreshDebtTick_kept (c : ChanId) (sub : Fin 2) (s : State) : KeptNext s (execRefreshDebtTick c sub s) := by
  refine ⟨_, rfl, ?_⟩
  have hk := Kept.refl s
  repeat' first
    | with_reducible assumption | with_reducible apply State.debtTick_kept

theorem execTabLoadRequest_kept (pos : Nat) (positions : Nat) (s : State) : KeptNext s (execTabLoadRequest pos positions s) := by
  refine ⟨_, rfl, ?_⟩
  have hk := Kept.refl s
  repeat' first
    | with_reducible assumption | with_reducible apply State.loadRequest_kept

theorem execTabSectionsReceived_kept (img : TabImage) (s : State) : KeptNext s (execTabSectionsReceived img s) := by
  refine ⟨_, rfl, ?_⟩
  have hk := Kept.refl s
  repeat' first
    | with_reducible assumption | with_reducible apply State.setTabState_kept | with_reducible apply State.say_kept | split
    | with_reducible refine Kept.upd ?_

theorem execTabTransferAborted_kept (s : State) : KeptNext s (execTabTransferAborted s) := by
  refine ⟨_, rfl, ?_⟩
  have hk := Kept.refl s
  repeat' first
    | with_reducible assumption | with_reducible apply State.loadAbandon_kept | with_reducible apply State.say_kept | split

theorem execTabReceiveTimeout_kept (s : State) : KeptNext s (execTabReceiveTimeout s) := by
  refine ⟨_, rfl, ?_⟩
  have hk := Kept.refl s
  repeat' first
    | with_reducible assumption | with_reducible apply State.reach_kept | with_reducible apply State.loadAbandon_kept
    | with_reducible apply State.say_kept | split

theorem execTabChecksComplete_kept (s : State) : KeptNext s (execTabChecksComplete s) := by
  refine ⟨_, rfl, ?_⟩
  have hk := Kept.refl s
  repeat' first
    | with_reducible assumption | with_reducible apply State.checksDone_kept

theorem execTabDiscard_kept (s : State) : KeptNext s (execTabDiscard s) := by
  refine ⟨_, rfl, ?_⟩
  have hk := Kept.refl s
  repeat' first
    | with_reducible assumption | with_reducible apply State.discardTab_kept

theorem execJobStart_kept (s : State) : KeptNext s (execJobStart s) := by
  refine ⟨_, rfl, ?_⟩
  have hk := Kept.refl s
  repeat' first
    | with_reducible assumption | with_reducible apply State.startJob_kept

theorem execJobStop_kept (byFault : Bool) (s : State) : KeptNext s (execJobStop byFault s) := by
  refine ⟨_, rfl, ?_⟩
  have hk := Kept.refl s
  repeat' first
    | with_reducible assumption | with_reducible apply State.setTabState_kept | with_reducible apply State.stopJob_kept | split
    | with_reducible refine Kept.upd ?_

theorem execStoppingIdle_kept (s : State) : KeptNext s (execStoppingIdle s) := by
  refine ⟨_, rfl, ?_⟩
  have hk := Kept.refl s
  repeat' first
    | with_reducible assumption | with_reducible apply State.stopped_kept | with_reducible apply State.say_kept | split

theorem execStepDescriptorSend_kept (d : StepDesc) (s : State) : KeptNext s (execStepDescriptorSend d s) := by
  refine ⟨_, rfl, ?_⟩
  have hk := Kept.refl s
  repeat' first
    | with_reducible assumption | with_reducible apply State.sendDesc_kept

theorem execStepDescriptor_kept (d : StepDesc) (s : State) : KeptNext s (execStepDescriptor d s) := by
  refine ⟨_, rfl, ?_⟩
  have hk := Kept.refl s
  repeat' first
    | with_reducible assumption | with_reducible apply State.takeDesc_kept

theorem execDescriptorDeadline_kept (s : State) : KeptNext s (execDescriptorDeadline s) := by
  refine ⟨_, rfl, ?_⟩
  have hk := Kept.refl s
  repeat' first
    | with_reducible assumption | with_reducible apply State.descDeadline_kept

theorem execSegmentStart_kept (s : State) : KeptNext s (execSegmentStart s) := by
  refine ⟨_, rfl, ?_⟩
  have hk := Kept.refl s
  repeat' first
    | with_reducible assumption | with_reducible apply State.segmentStart_kept

theorem execDeadlineFault_kept (u : UnitRef) (fault : StepFault) (s : State) : KeptNext s (execDeadlineFault u fault s) := by
  refine ⟨_, rfl, ?_⟩
  have hk := Kept.refl s
  repeat' first
    | with_reducible assumption | with_reducible apply State.managerFault_kept

theorem execScrubAccess_kept (st : StoreRef) (addr : Nat) (strike : BitVec 288) (claimed : Bool) (overwritten : Bool) (s : State) : KeptNext s (execScrubAccess st addr strike claimed overwritten s) := by
  refine ⟨_, rfl, ?_⟩
  have hk := Kept.refl s
  repeat' first
    | with_reducible assumption | with_reducible apply State.scrub_kept

theorem execScrubLapEnd_kept (st : StoreRef) (seconds : BitVec 32) (s : State) : KeptNext s (execScrubLapEnd st seconds s) := by
  refine ⟨_, rfl, ?_⟩
  have hk := Kept.refl s
  repeat' first
    | with_reducible assumption | with_reducible apply State.lapEnd_kept

theorem execVoteRepair_kept (addr : Addr) (c0 : Word64) (c1 : Word64) (c2 : Word64) (s : State) : KeptNext s (execVoteRepair addr c0 c1 c2 s) := by
  refine ⟨_, rfl, ?_⟩
  have hk := Kept.refl s
  repeat' first
    | with_reducible assumption | with_reducible apply State.vote_kept

theorem execPageRetireCopy_kept (c : ChanId) (k : Fin 8) (s : State) : KeptNext s (execPageRetireCopy c k s) := by
  refine ⟨_, rfl, ?_⟩
  have hk := Kept.refl s
  repeat' first
    | with_reducible assumption | with_reducible apply State.load_kept | with_reducible apply State.storeUnit_kept
    | with_reducible apply State.countHub_kept | with_reducible apply State.updHub_kept | with_reducible refine Kept.foldl ?_ ?_
    | with_reducible refine Kept.foldl2 ?_ ?_ | with_reducible refine Kept2.foldl ?_ ?_ | with_reducible refine Kept3.foldl ?_ ?_
    | intro _
    | (extract_lets +onlyGivenNames x; first | (clear_value (e : x = _); first | with_reducible refine Kept.byEq s e ?_ ?_ | with_reducible refine Kept.byEq2 s e ?_ ?_ | with_reducible refine Kept.byEq3 s e ?_ ?_ | clear e) | skip)
    | split | with_reducible refine Kept2.mk ?_ | with_reducible refine Kept2.of ?_ | with_reducible refine Kept3.mk ?_
    | with_reducible refine Kept3.of ?_ | with_reducible refine Kept.upd ?_

theorem execFlipArm_kept (o : Origin) (addr : Addr) (v : Word64) (s : State) : KeptNext s (execFlipArm o addr v s) := by
  refine ⟨_, rfl, ?_⟩
  have hk := Kept.refl s
  repeat' first
    | with_reducible assumption | with_reducible apply State.originWrite_kept | with_reducible apply State.wFlip_kept | intro _

theorem execFlipCorruptWrite_kept (st : StoreRef) (addr : Nat) (s : State) : KeptNext s (execFlipCorruptWrite st addr s) := by
  refine ⟨_, rfl, ?_⟩
  have hk := Kept.refl s
  repeat' first
    | with_reducible assumption | with_reducible apply State.flipWrite_kept

theorem execTuningWindowOpen_kept (entry : Nat) (s : State) : KeptNext s (execTuningWindowOpen entry s) := by
  refine ⟨_, rfl, ?_⟩
  have hk := Kept.refl s
  repeat' first
    | with_reducible assumption | with_reducible apply State.windowOpen_kept

theorem execMaintenanceAtom_kept (entry : Nat) (a : Atom) (s : State) : KeptNext s (execMaintenanceAtom entry a s) := by
  refine ⟨_, rfl, ?_⟩
  have hk := Kept.refl s
  repeat' first
    | with_reducible assumption | with_reducible apply State.atom_kept

theorem execTuningWindowEnd_kept (entry : Nat) (s : State) : KeptNext s (execTuningWindowEnd entry s) := by
  refine ⟨_, rfl, ?_⟩
  have hk := Kept.refl s
  repeat' first
    | with_reducible assumption | with_reducible apply State.windowEnd_kept

theorem execSelftestRequest_kept (rq : Rq) (units : List (BitVec 32)) (cls : Fin 6) (deadline : BitVec 64) (s : State) : KeptNext s (execSelftestRequest rq units cls deadline s) := by
  refine ⟨_, rfl, ?_⟩
  have hk := Kept.refl s
  repeat' first
    | with_reducible assumption | with_reducible apply State.onRequest_kept | with_reducible apply State.selfTestAsk_kept
    | intro _

theorem execDresserNorm_kept (b : BenchId) (s : State) : KeptNext s (execDresserNorm b s) := by
  refine ⟨_, rfl, ?_⟩
  split
  · exact State.normPass_kept (State.passStart_kept (Kept.refl s) _ _ (by assumption)) _
  · exact Kept.refl s

theorem execDresserApply_kept (b : BenchId) (s : State) : KeptNext s (execDresserApply b s) := by
  refine ⟨_, rfl, ?_⟩
  split
  · exact State.applyPass_kept (State.passStart_kept (Kept.refl s) _ _ (by assumption)) _
  · exact Kept.refl s

theorem execDresserSched_kept (b : BenchId) (s : State) : KeptNext s (execDresserSched b s) := by
  refine ⟨_, rfl, ?_⟩
  split
  · exact State.schedPass_kept (State.passStart_kept (Kept.refl s) _ _ (by assumption)) _
  · exact Kept.refl s

theorem execDresserPassEnd_kept (b : BenchId) (s : State) : KeptNext s (execDresserPassEnd b s) := by
  refine ⟨_, rfl, ?_⟩
  have hk := Kept.refl s
  repeat' first
    | with_reducible assumption | with_reducible apply State.passEnd_kept

theorem execDresserPassDeadline_kept (b : BenchId) (s : State) : KeptNext s (execDresserPassDeadline b s) := by
  refine ⟨_, rfl, ?_⟩
  have hk := Kept.refl s
  repeat' first
    | with_reducible assumption | with_reducible apply State.reach_kept | with_reducible apply State.passLate_kept | split
    | with_reducible refine Kept.upd ?_

theorem execDrsStepWrite_kept (o : Origin) (b : BenchId) (v : Word64) (s : State) : KeptNext s (execDrsStepWrite o b v s) := by
  refine ⟨_, rfl, ?_⟩
  have hk := Kept.refl s
  repeat' first
    | with_reducible assumption | with_reducible apply State.originWrite_kept | with_reducible apply State.wDrsStep_kept | intro _

theorem execDrsStepReset_kept (n : BitVec 40) (s : State) : KeptNext s (execDrsStepReset n s) := by
  refine ⟨_, rfl, ?_⟩
  have hk := Kept.refl s
  repeat' first
    | with_reducible assumption | with_reducible apply State.drsStepReset_kept

theorem execSchedBankLoad_kept (o : Origin) (b : BenchId) (v : Word64) (s : State) : KeptNext s (execSchedBankLoad o b v s) := by
  refine ⟨_, rfl, ?_⟩
  have hk := Kept.refl s
  repeat' first
    | with_reducible assumption | with_reducible apply State.originWrite_kept | with_reducible apply State.wSchedCtl_kept
    | intro _

theorem execSchedBankLoadDone_kept (b : BenchId) (s : State) : KeptNext s (execSchedBankLoadDone b s) := by
  refine ⟨_, rfl, ?_⟩
  have hk := Kept.refl s
  repeat' first
    | with_reducible assumption | with_reducible apply State.schedDone_kept

theorem execReductionStart_kept (b : BenchId) (bucket : BucketOut) (s : State) : KeptNext s (execReductionStart b bucket s) := by
  refine ⟨_, rfl, ?_⟩
  have hk := Kept.refl s
  repeat' first
    | with_reducible assumption | with_reducible apply State.redStart_kept | split | with_reducible refine Kept.upd ?_

theorem execReductionMessage_kept (b : BenchId) (bucket : BitVec 32) (src : Nat) (msg : MsgHop) (s : State) : KeptNext s (execReductionMessage b bucket src msg s) := by
  refine ⟨_, rfl, ?_⟩
  have hk := Kept.refl s
  repeat' first
    | with_reducible assumption | with_reducible apply State.redMessage_kept | split | with_reducible refine Kept.upd ?_

theorem execNormRecordMessage_kept (src : Nat) (down : Bool) (msg : MsgHop) (s : State) : KeptNext s (execNormRecordMessage src down msg s) := by
  refine ⟨_, rfl, ?_⟩
  have hk := Kept.refl s
  repeat' first
    | with_reducible assumption | with_reducible apply State.normMessage_kept | split

theorem execParamDistribution_kept (bucket : BitVec 32) (src : Nat) (msg : MsgHop) (s : State) : KeptNext s (execParamDistribution bucket src msg s) := by
  refine ⟨_, rfl, ?_⟩
  have hk := Kept.refl s
  repeat' first
    | with_reducible assumption | with_reducible apply State.paramStep_kept | split | with_reducible refine Kept.upd ?_

theorem execDigestRecordsWrite_kept (h : Hub) (s : State) : KeptNext s (execDigestRecordsWrite h s) := by
  refine ⟨_, rfl, ?_⟩
  have hk := Kept.refl s
  repeat' first
    | with_reducible assumption | with_reducible apply State.digestWrite_kept

theorem execStepDigest_kept (s : State) : KeptNext s (execStepDigest s) := by
  refine ⟨_, rfl, ?_⟩
  have hk := Kept.refl s
  repeat' first
    | with_reducible assumption | with_reducible apply State.stepDigest_kept

theorem execDigestCompare_kept (n : BitVec 40) (pairs : List DigestPair) (first : List DigestRun) (replay : List DigestRun) (s : State) : KeptNext s (execDigestCompare n pairs first replay s) := by
  refine ⟨_, rfl, ?_⟩
  have hk := Kept.refl s
  repeat' first
    | with_reducible assumption | with_reducible apply State.digestCompare_kept

theorem execFlitSend_kept (p : PortId) (entry : BitVec 24) (vc : BitVec 2) (last : Bool) (body : List Byte) (s : State) : KeptNext s (execFlitSend p entry vc last body s) := by
  refine ⟨_, rfl, ?_⟩
  have hk := Kept.refl s
  repeat' first
    | with_reducible assumption | with_reducible apply State.flitSend_kept

theorem execControlFlitSend_kept (p : PortId) (s : State) : KeptNext s (execControlFlitSend p s) := by
  refine ⟨_, rfl, ?_⟩
  have hk := Kept.refl s
  repeat' first
    | with_reducible assumption | with_reducible apply State.sendControl_kept | with_reducible apply State.drain_kept
    | with_reducible apply State.sendIdle_kept | intro _
    | (extract_lets +onlyGivenNames x; first | (clear_value (e : x = _); first | with_reducible refine Kept.byEq s e ?_ ?_ | clear e) | skip)
    | split

theorem execFlitReceive_kept (p : PortId) (f : Flit) (rx : FlitIn) (s : State) : KeptNext s (execFlitReceive p f rx s) := by
  refine ⟨_, rfl, ?_⟩
  have hk := Kept.refl s
  repeat' first
    | with_reducible assumption | with_reducible apply State.flitReceive_kept

theorem execControlFlitReceive_kept (p : PortId) (f : CtrlFlit) (ok : Bool) (s : State) : KeptNext s (execControlFlitReceive p f ok s) := by
  refine ⟨_, rfl, ?_⟩
  have hk := Kept.refl s
  repeat' first
    | with_reducible assumption | with_reducible apply State.controlReceive_kept

theorem execPortTrainingStart_kept (p : PortId) (request : Bool) (s : State) : KeptNext s (execPortTrainingStart p request s) := by
  refine ⟨_, rfl, ?_⟩
  have hk := Kept.refl s
  repeat' first
    | with_reducible assumption | with_reducible apply State.trainStart_kept

theorem execPortLanesLocked_kept (p : PortId) (s : State) : KeptNext s (execPortLanesLocked p s) := by
  refine ⟨_, rfl, ?_⟩
  have hk := Kept.refl s
  repeat' first
    | with_reducible assumption | with_reducible apply State.lanesLocked_kept

theorem execPortTrainingTimeout_kept (p : PortId) (s : State) : KeptNext s (execPortTrainingTimeout p s) := by
  refine ⟨_, rfl, ?_⟩
  have hk := Kept.refl s
  repeat' first
    | with_reducible assumption | with_reducible apply State.trainTimeout_kept

theorem execPortIdentityResult_kept (p : PortId) (mod : BitVec 12) (hub : Hub) (port : Fin 8) (s : State) : KeptNext s (execPortIdentityResult p mod hub port s) := by
  refine ⟨_, rfl, ?_⟩
  have hk := Kept.refl s
  repeat' first
    | with_reducible assumption | with_reducible apply State.identity_kept

theorem execLaneLost_kept (p : PortId) (lane : Fin 8) (s : State) : KeptNext s (execLaneLost p lane s) := by
  refine ⟨_, rfl, ?_⟩
  have hk := Kept.refl s
  repeat' first
    | with_reducible assumption | with_reducible apply State.loseLane_kept

theorem execSpareLaneSwitch_kept (p : PortId) (s : State) : KeptNext s (execSpareLaneSwitch p s) := by
  refine ⟨_, rfl, ?_⟩
  have hk := Kept.refl s
  repeat' first
    | with_reducible assumption | with_reducible apply State.spareSwitch_kept

theorem execPortFenceFault_kept (u : UnitRef) (p : PortId) (carries : Bool) (neighbour : BitVec 12) (s : State) : KeptNext s (execPortFenceFault u p carries neighbour s) := by
  refine ⟨_, rfl, ?_⟩
  have hk := Kept.refl s
  repeat' first
    | with_reducible assumption | with_reducible apply State.portFenced_kept

theorem execPortRetrainTimeout_kept (a : BitVec 12) (b : BitVec 12) (aLocked : Bool) (bLocked : Bool) (s : State) : KeptNext s (execPortRetrainTimeout a b aLocked bLocked s) := by
  refine ⟨_, rfl, ?_⟩
  have hk := Kept.refl s
  repeat' first
    | with_reducible assumption | with_reducible apply State.retrainFailed_kept

theorem execUcieLinkFault_kept (die : Fin 64) (s : State) : KeptNext s (execUcieLinkFault die s) := by
  refine ⟨_, rfl, ?_⟩
  have hk := Kept.refl s
  repeat' first
    | with_reducible assumption | with_reducible apply State.ucieFault_kept

theorem execHeartbeatSend_kept (s : State) : KeptNext s (execHeartbeatSend s) := by
  refine ⟨_, rfl, ?_⟩
  have hk := Kept.refl s
  repeat' first
    | with_reducible assumption | with_reducible apply State.heartbeat_kept

theorem execManagerTakeover_kept (s : State) : KeptNext s (execManagerTakeover s) := by
  refine ⟨_, rfl, ?_⟩
  have hk := Kept.refl s
  repeat' first
    | with_reducible assumption | with_reducible apply State.takeOver_kept

theorem execTimebaseHoldTimeout_kept (s : State) : KeptNext s (execTimebaseHoldTimeout s) := by
  refine ⟨_, rfl, ?_⟩
  have hk := Kept.refl s
  repeat' first
    | with_reducible assumption | with_reducible apply State.holdTimeout_kept

theorem execHaulStart_kept (h : Hub) (d : BitVec 512) (s : State) : KeptNext s (execHaulStart h d s) := by
  refine ⟨_, rfl, ?_⟩
  have hk := Kept.refl s
  repeat' first
    | with_reducible assumption | with_reducible apply State.haulStart_kept

theorem execCommitEpoch_kept (row : CommitRow) (s : State) : KeptNext s (execCommitEpoch row s) := by
  refine ⟨_, rfl, ?_⟩
  have hk := Kept.refl s
  repeat' first
    | with_reducible assumption | with_reducible apply State.commitRow_kept

theorem execCommitDeadline_kept (s : State) : KeptNext s (execCommitDeadline s) := by
  refine ⟨_, rfl, ?_⟩
  have hk := Kept.refl s
  repeat' first
    | with_reducible assumption | with_reducible apply State.commitLate_kept

theorem execCommitReport_kept (pos : Nat) (epoch : BitVec 40) (s : State) : KeptNext s (execCommitReport pos epoch s) := by
  refine ⟨_, rfl, ?_⟩
  have hk := Kept.refl s
  repeat' first
    | with_reducible assumption | with_reducible apply State.commitReported_kept

theorem execJobCommitNotice_kept (epoch : BitVec 40) (s : State) : KeptNext s (execJobCommitNotice epoch s) := by
  refine ⟨_, rfl, ?_⟩
  have hk := Kept.refl s
  repeat' first
    | with_reducible assumption | with_reducible apply State.commitNoticed_kept

theorem execVaultDrain_kept (s : State) : KeptNext s (execVaultDrain s) := by
  refine ⟨_, rfl, ?_⟩
  have hk := Kept.refl s
  repeat' first
    | with_reducible assumption | with_reducible apply State.vaultDrain_kept

theorem execVaultDrainCommit_kept (exported : Bool) (s : State) : KeptNext s (execVaultDrainCommit exported s) := by
  refine ⟨_, rfl, ?_⟩
  have hk := Kept.refl s
  repeat' first
    | with_reducible assumption | with_reducible apply State.vaultCommit_kept

theorem execRestart_kept (variant : Nat) (cands : List RestoreCandidate) (s : State) : KeptNext s (execRestart variant cands s) := by
  refine ⟨_, rfl, ?_⟩
  have hk := Kept.refl s
  repeat' first
    | with_reducible assumption | with_reducible apply State.restart_kept

theorem execStatusPoll_kept (die : Die) (bench : Option (Fin 180)) (answered : Bool) (s : State) : KeptNext s (execStatusPoll die bench answered s) := by
  refine ⟨_, rfl, ?_⟩
  have hk := Kept.refl s
  repeat' first
    | with_reducible assumption | with_reducible apply State.poll_kept

theorem execStackAbsorption_kept (die : Die) (order : Fin 9) (restore : AbsorbIn) (s : State) : KeptNext s (execStackAbsorption die order restore s) := by
  refine ⟨_, rfl, ?_⟩
  have hk := Kept.refl s
  repeat' first
    | with_reducible assumption | with_reducible apply State.absorbStack_kept

theorem execBenchAbsorption_kept (b : BenchId) (order : Fin 9) (restore : AbsorbIn) (s : State) : KeptNext s (execBenchAbsorption b order restore s) := by
  refine ⟨_, rfl, ?_⟩
  have hk := Kept.refl s
  repeat' first
    | with_reducible assumption | with_reducible apply State.absorbBench_kept

theorem execPackageRetirement_kept (pkg : Fin 84) (root : Word64) (tables : List (Nat × Word64)) (rebuilt : List (Nat × Byte)) (s : State) : KeptNext s (execPackageRetirement pkg root tables rebuilt s) := by
  refine ⟨_, rfl, ?_⟩
  have hk := Kept.refl s
  repeat' first
    | with_reducible assumption | with_reducible apply State.retirePackage_kept

theorem execSpareRecordCommit_kept (s : State) : KeptNext s (execSpareRecordCommit s) := by
  refine ⟨_, rfl, ?_⟩
  have hk := Kept.refl s
  repeat' first
    | with_reducible assumption | with_reducible apply State.commitSpares_kept

theorem execBeyondModuleFault_kept (u : UnitRef) (s : State) : KeptNext s (execBeyondModuleFault u s) := by
  refine ⟨_, rfl, ?_⟩
  have hk := Kept.refl s
  repeat' first
    | with_reducible assumption | with_reducible apply State.beyondFault_kept

theorem execRecordUpdate_kept (s : State) : KeptNext s (execRecordUpdate s) := by
  refine ⟨_, rfl, ?_⟩
  have hk := Kept.refl s
  repeat' first
    | with_reducible assumption | with_reducible apply State.noteService_kept | with_reducible apply State.flushRecord_kept

theorem execCsrWrite_kept (o : Origin) (addr : Addr) (v : Word64) (s : State) : KeptNext s (execCsrWrite o addr v s) := by
  refine ⟨_, rfl, ?_⟩
  have hk := Kept.refl s
  repeat' first
    | with_reducible assumption | with_reducible apply State.csrAccess_kept

theorem execChordWrite_kept (o : Origin) (addr : Addr) (v : Word64) (s : State) : KeptNext s (execChordWrite o addr v s) := by
  refine ⟨_, rfl, ?_⟩
  have hk := Kept.refl s
  repeat' first
    | with_reducible assumption | with_reducible apply State.csrAccess_kept

theorem execStrumWrite_kept (o : Origin) (addr : Addr) (v : Word64) (s : State) : KeptNext s (execStrumWrite o addr v s) := by
  refine ⟨_, rfl, ?_⟩
  have hk := Kept.refl s
  repeat' first
    | with_reducible assumption | with_reducible apply State.csrAccess_kept

theorem execBroadcastWriteComplete_kept (s : State) : KeptNext s (execBroadcastWriteComplete s) := by
  refine ⟨_, rfl, ?_⟩
  have hk := Kept.refl s
  repeat' first
    | with_reducible assumption | with_reducible apply State.broadcastDone_kept

theorem execCsrRead_kept (o : Origin) (addr : Addr) (s : State) : KeptNext s (execCsrRead o addr s) := by
  refine ⟨_, rfl, ?_⟩
  have hk := Kept.refl s
  repeat' first
    | with_reducible assumption | with_reducible apply State.csrReadAt_kept

theorem execCounterSnapshotRead_kept (rq : Rq) (die : Fin 64) (s : State) : KeptNext s (execCounterSnapshotRead rq die s) := by
  refine ⟨_, rfl, ?_⟩
  have hk := Kept.refl s
  repeat' first
    | with_reducible assumption | with_reducible apply State.onRequest_kept | with_reducible apply State.reply_kept | intro _
    | split | with_reducible refine Kept.upd ?_

theorem execCoreSfsLoadWrite_kept (o : Origin) (c : CoreId) (v : Word64) (s : State) : KeptNext s (execCoreSfsLoadWrite o c v s) := by
  refine ⟨_, rfl, ?_⟩
  have hk := Kept.refl s
  repeat' first
    | with_reducible assumption | with_reducible apply State.originWrite_kept | with_reducible apply State.wSfsLoad_kept | intro _

theorem execBenchChordWrite_kept (o : Origin) (b : BenchId) (v : Word64) (s : State) : KeptNext s (execBenchChordWrite o b v s) := by
  refine ⟨_, rfl, ?_⟩
  have hk := Kept.refl s
  repeat' first
    | with_reducible assumption | with_reducible apply State.originWrite_kept | with_reducible apply State.wChord_kept | intro _

theorem execHubCopyTagsClr_kept (o : Origin) (h : Hub) (v : Word64) (s : State) : KeptNext s (execHubCopyTagsClr o h v s) := by
  refine ⟨_, rfl, ?_⟩
  have hk := Kept.refl s
  repeat' first
    | with_reducible assumption | with_reducible apply State.originWrite_kept | with_reducible apply State.wCopyTags_kept
    | intro _

theorem execCoreFaultClear_kept (o : Origin) (c : CoreId) (v : Word64) (s : State) : KeptNext s (execCoreFaultClear o c v s) := by
  refine ⟨_, rfl, ?_⟩
  have hk := Kept.refl s
  repeat' first
    | with_reducible assumption | with_reducible apply State.originWrite_kept | with_reducible apply State.wCoreFault_kept
    | intro _

theorem execBenchArrayFaultClear_kept (o : Origin) (b : BenchId) (v : Word64) (s : State) : KeptNext s (execBenchArrayFaultClear o b v s) := by
  refine ⟨_, rfl, ?_⟩
  have hk := Kept.refl s
  repeat' first
    | with_reducible assumption | with_reducible apply State.originWrite_kept | with_reducible apply State.wArrayFault_kept
    | intro _

theorem execBenchRingFaultClear_kept (o : Origin) (b : BenchId) (v : Word64) (s : State) : KeptNext s (execBenchRingFaultClear o b v s) := by
  refine ⟨_, rfl, ?_⟩
  have hk := Kept.refl s
  repeat' first
    | with_reducible assumption | with_reducible apply State.originWrite_kept | with_reducible apply State.wRingFault_kept
    | intro _

theorem execCoreDescStatusClear_kept (o : Origin) (c : CoreId) (v : Word64) (s : State) : KeptNext s (execCoreDescStatusClear o c v s) := by
  refine ⟨_, rfl, ?_⟩
  have hk := Kept.refl s
  repeat' first
    | with_reducible assumption | with_reducible apply State.originWrite_kept | with_reducible apply State.wCoreDesc_kept
    | intro _

theorem execHubCopyStatusClear_kept (o : Origin) (h : Hub) (v : Word64) (s : State) : KeptNext s (execHubCopyStatusClear o h v s) := by
  refine ⟨_, rfl, ?_⟩
  have hk := Kept.refl s
  repeat' first
    | with_reducible assumption | with_reducible apply State.originWrite_kept | with_reducible apply State.wCopyStatus_kept
    | intro _

theorem execHubDramFaultClear_kept (o : Origin) (h : Hub) (v : Word64) (s : State) : KeptNext s (execHubDramFaultClear o h v s) := by
  refine ⟨_, rfl, ?_⟩
  have hk := Kept.refl s
  repeat' first
    | with_reducible assumption | with_reducible apply State.originWrite_kept | with_reducible apply State.wDramFault_kept
    | intro _

theorem execDrsFaultClear_kept (o : Origin) (b : BenchId) (v : Word64) (s : State) : KeptNext s (execDrsFaultClear o b v s) := by
  refine ⟨_, rfl, ?_⟩
  have hk := Kept.refl s
  repeat' first
    | with_reducible assumption | with_reducible apply State.originWrite_kept | with_reducible apply State.wDrsFault_kept
    | intro _

theorem execBenchRedFaultClear_kept (o : Origin) (b : BenchId) (v : Word64) (s : State) : KeptNext s (execBenchRedFaultClear o b v s) := by
  refine ⟨_, rfl, ?_⟩
  have hk := Kept.refl s
  repeat' first
    | with_reducible assumption | with_reducible apply State.originWrite_kept | with_reducible apply State.wRedFault_kept
    | intro _

theorem execLnkFaultClear_kept (o : Origin) (p : PortId) (v : Word64) (s : State) : KeptNext s (execLnkFaultClear o p v s) := by
  refine ⟨_, rfl, ?_⟩
  have hk := Kept.refl s
  repeat' first
    | with_reducible assumption | with_reducible apply State.originWrite_kept | with_reducible apply State.wLnkFault_kept
    | intro _

theorem execHaulFaultClear_kept (o : Origin) (h : Hub) (v : Word64) (s : State) : KeptNext s (execHaulFaultClear o h v s) := by
  refine ⟨_, rfl, ?_⟩
  have hk := Kept.refl s
  repeat' first
    | with_reducible assumption | with_reducible apply State.originWrite_kept | with_reducible apply State.wHaulFault_kept
    | intro _

theorem execPwrBenchFaultClear_kept (o : Origin) (b : BenchId) (v : Word64) (s : State) : KeptNext s (execPwrBenchFaultClear o b v s) := by
  refine ⟨_, rfl, ?_⟩
  have hk := Kept.refl s
  repeat' first
    | with_reducible assumption | with_reducible apply State.originWrite_kept | with_reducible apply State.wPwrFault_kept
    | intro _

theorem execPwrThermClear_kept (o : Origin) (v : Word64) (s : State) : KeptNext s (execPwrThermClear o v s) := by
  refine ⟨_, rfl, ?_⟩
  have hk := Kept.refl s
  repeat' first
    | with_reducible assumption | with_reducible apply State.originWrite_kept | with_reducible apply State.wTherm_kept | intro _

theorem execMgtAccessErrClear_kept (o : Origin) (md : Md) (v : Word64) (s : State) : KeptNext s (execMgtAccessErrClear o md v s) := by
  refine ⟨_, rfl, ?_⟩
  have hk := Kept.refl s
  repeat' first
    | with_reducible assumption | with_reducible apply State.originWrite_kept | with_reducible apply State.wAccessErr_kept
    | intro _

theorem execEccAddrClear_kept (o : Origin) (u : BenchId ⊕ Hub) (v : Word64) (s : State) : KeptNext s (execEccAddrClear o u v s) := by
  refine ⟨_, rfl, ?_⟩
  have hk := Kept.refl s
  repeat' first
    | with_reducible assumption | with_reducible apply State.originWrite_kept | with_reducible apply State.wEccAddr_kept | intro _
    | split | with_reducible refine Kept.upd ?_

theorem execEvselWrite_kept (o : Origin) (addr : Addr) (v : Word64) (s : State) : KeptNext s (execEvselWrite o addr v s) := by
  refine ⟨_, rfl, ?_⟩
  have hk := Kept.refl s
  repeat' first
    | with_reducible assumption | with_reducible apply State.csrAccess_kept

theorem execEvcntWrite_kept (o : Origin) (addr : Addr) (v : Word64) (s : State) : KeptNext s (execEvcntWrite o addr v s) := by
  refine ⟨_, rfl, ?_⟩
  have hk := Kept.refl s
  repeat' first
    | with_reducible assumption | with_reducible apply State.csrAccess_kept

theorem execCounterWrap_kept (addr : Addr) (n : BitVec 24) (s : State) : KeptNext s (execCounterWrap addr n s) := by
  refine ⟨_, rfl, ?_⟩
  have hk := Kept.refl s
  repeat' first
    | with_reducible assumption | with_reducible apply bumpOne_kept | intro _ | split | with_reducible refine Kept.upd ?_

theorem execWdogKick_kept (o : Origin) (md : Md) (v : Word64) (s : State) : KeptNext s (execWdogKick o md v s) := by
  refine ⟨_, rfl, ?_⟩
  have hk := Kept.refl s
  repeat' first
    | with_reducible assumption | with_reducible apply State.originWrite_kept | with_reducible apply State.wWdog_kept | intro _

theorem execSensorSelect_kept (o : Origin) (md : Md) (v : Word64) (s : State) : KeptNext s (execSensorSelect o md v s) := by
  refine ⟨_, rfl, ?_⟩
  have hk := Kept.refl s
  repeat' first
    | with_reducible assumption | with_reducible apply State.originWrite_kept | with_reducible apply State.wPlain_kept | intro _

theorem execPorstAssert_kept (s : State) : KeptNext s (execPorstAssert s) := by
  refine ⟨_, rfl, ?_⟩
  have hk := Kept.refl s
  repeat' first
    | with_reducible assumption | with_reducible apply State.porst_kept

theorem execWrstAssert_kept (s : State) : KeptNext s (execWrstAssert s) := by
  refine ⟨_, rfl, ?_⟩
  have hk := Kept.refl s
  repeat' first
    | with_reducible assumption | with_reducible apply State.warmReset_kept | intro _
    | (extract_lets +onlyGivenNames x; first | (clear_value (e : x = _); first | with_reducible refine Kept.byEq s e ?_ ?_ | clear e) | skip)
    | split | with_reducible refine Kept.upd ?_

theorem execPwrokFall_kept (s : State) : KeptNext s (execPwrokFall s) := by
  refine ⟨_, rfl, ?_⟩
  have hk := Kept.refl s
  repeat' first
    | with_reducible assumption | with_reducible apply State.porst_kept | intro _
    | (extract_lets +onlyGivenNames x; first | (clear_value (e : x = _); first | with_reducible refine Kept.byEq s e ?_ ?_ | clear e) | skip)
    | with_reducible refine Kept.upd ?_

theorem execRefClkLoss_kept (s : State) : KeptNext s (execRefClkLoss s) := by
  refine ⟨_, rfl, ?_⟩
  have hk := Kept.refl s
  repeat' first
    | with_reducible assumption | with_reducible apply State.beyond_kept | intro _
    | (extract_lets +onlyGivenNames x; first | (clear_value (e : x = _); first | with_reducible refine Kept.byEq s e ?_ ?_ | clear e) | skip)
    | split | with_reducible refine Kept.upd ?_

theorem execPowerUp_kept (s : State) : KeptNext s (execPowerUp s) := by
  refine ⟨_, rfl, ?_⟩
  have hk := Kept.refl s
  repeat' first
    | with_reducible assumption | with_reducible apply State.afterReset_kept | intro _
    | (extract_lets +onlyGivenNames x; first | (clear_value (e : x = _); first | with_reducible refine Kept.byEq s e ?_ ?_ | clear e) | skip)
    | with_reducible refine Kept.upd ?_

theorem execBoot_kept (reached : Fin 10) (failed : List ChanId) (s : State) : KeptNext s (execBoot reached failed s) := by
  refine ⟨_, rfl, ?_⟩
  have hk := Kept.refl s
  repeat' first
    | with_reducible assumption | with_reducible apply State.boot_kept

theorem execVaonLoss_kept (s : State) : KeptNext s (execVaonLoss s) := by
  refine ⟨_, rfl, ?_⟩
  have hk := Kept.refl s
  repeat' first
    | with_reducible assumption | with_reducible apply State.porst_kept | with_reducible apply State.setFld_kept | intro _
    | (extract_lets +onlyGivenNames x; first | (clear_value (e : x = _); first | with_reducible refine Kept.byEq s e ?_ ?_ | clear e) | skip)
    | with_reducible refine Kept.upd ?_

theorem execWatchdogExpiry_kept (md : Md) (s : State) : KeptNext s (execWatchdogExpiry md s) := by
  refine ⟨_, rfl, ?_⟩
  have hk := Kept.refl s
  repeat' first
    | with_reducible assumption | with_reducible apply State.reach_kept | with_reducible apply State.satFld_kept
    | with_reducible apply State.countMd_kept | with_reducible apply State.warmReset_kept | with_reducible apply State.beyond_kept
    | intro _
    | (extract_lets +onlyGivenNames x; first | (clear_value (e : x = _); first | with_reducible refine Kept.byEq s e ?_ ?_ | clear e) | skip)
    | split | with_reducible refine Kept.upd ?_

theorem execLoaderPack_kept (step : BitVec 40) (data : StepData) (s : State) : KeptNext s (execLoaderPack step data s) := by
  refine ⟨_, rfl, ?_⟩
  have hk := Kept.refl s
  repeat' first
    | with_reducible assumption | with_reducible apply State.loaderPack_kept | intro _

theorem execHostRestart_kept (md : Md) (s : State) : KeptNext s (execHostRestart md s) := by
  refine ⟨_, rfl, ?_⟩
  have hk := Kept.refl s
  repeat' first
    | with_reducible assumption | with_reducible apply State.hostRestart_kept

theorem execI3cPoll_kept (dev : Fin 32) (answer : Option (BitVec 16)) (s : State) : KeptNext s (execI3cPoll dev answer s) := by
  refine ⟨_, rfl, ?_⟩
  have hk := Kept.refl s
  repeat' first
    | with_reducible assumption | with_reducible apply State.i3cPoll_kept

theorem execI3cInBandInterrupt_kept (dev : Fin 32) (data : BitVec 16) (s : State) : KeptNext s (execI3cInBandInterrupt dev data s) := by
  refine ⟨_, rfl, ?_⟩
  have hk := Kept.refl s
  repeat' first
    | with_reducible assumption | with_reducible apply State.log_kept

theorem execLogEntry_kept (md : Md) (severity : Fin 4) (pinned : Bool) (code : BitVec 16) (loc : BitVec 21) (data : BitVec 224) (s : State) : KeptNext s (execLogEntry md severity pinned code loc data s) := by
  refine ⟨_, rfl, ?_⟩
  have hk := Kept.refl s
  repeat' first
    | with_reducible assumption | with_reducible apply State.logEvent_kept

theorem execDriveRemoval_kept (drive : Nat) (s : State) : KeptNext s (execDriveRemoval drive s) := by
  refine ⟨_, rfl, ?_⟩
  have hk := Kept.refl s
  repeat' first
    | with_reducible assumption | with_reducible apply State.driveOut_kept

theorem execDriveReplacement_kept (drive : Nat) (s : State) : KeptNext s (execDriveReplacement drive s) := by
  refine ⟨_, rfl, ?_⟩
  have hk := Kept.refl s
  repeat' first
    | with_reducible assumption | with_reducible refine Kept.upd ?_

theorem execSessionOpenRequest_kept (md : Md) (session : BitVec 32) (ek : List Byte) (nonce : List Byte) (s : State) : KeptNext s (execSessionOpenRequest md session ek nonce s) := by
  refine ⟨_, rfl, ?_⟩
  have hk := Kept.refl s
  repeat' first
    | with_reducible assumption | with_reducible apply State.sessionOpen_kept

theorem execSessionOpenConfirm_kept (md : Md) (session : BitVec 32) (sig : List Byte) (s : State) : KeptNext s (execSessionOpenConfirm md session sig s) := by
  refine ⟨_, rfl, ?_⟩
  have hk := Kept.refl s
  repeat' first
    | with_reducible assumption | with_reducible apply State.sessionConfirm_kept

theorem execSessionIdleTimeout_kept (md : Md) (session : BitVec 32) (s : State) : KeptNext s (execSessionIdleTimeout md session s) := by
  refine ⟨_, rfl, ?_⟩
  have hk := Kept.refl s
  repeat' first
    | with_reducible assumption | with_reducible apply State.sessionIdle_kept

theorem execRecoveryStatus_kept (md : Md) (s : State) : KeptNext s (execRecoveryStatus md s) := by
  refine ⟨_, rfl, ?_⟩
  have hk := Kept.refl s
  repeat' first
    | with_reducible assumption | with_reducible apply State.say_kept | split

theorem execRecoveryUpload_kept (slot : Fin 2) (img : ImageSlot) (s : State) : KeptNext s (execRecoveryUpload slot img s) := by
  refine ⟨_, rfl, ?_⟩
  have hk := Kept.refl s
  repeat' first
    | with_reducible assumption | with_reducible apply State.setSlot_kept | split

theorem execRecoveryReset_kept (s : State) : KeptNext s (execRecoveryReset s) := by
  refine ⟨_, rfl, ?_⟩
  have hk := Kept.refl s
  repeat' first
    | with_reducible assumption | with_reducible apply State.warmReset_kept | split

theorem execImageUpload_kept (rq : Rq) (slot : Fin 2) (img : ImageSlot) (s : State) : KeptNext s (execImageUpload rq slot img s) := by
  refine ⟨_, rfl, ?_⟩
  have hk := Kept.refl s
  repeat' first
    | with_reducible assumption | with_reducible apply State.onRequest_kept | with_reducible apply State.upload_kept | intro _

theorem execImageVerifyComplete_kept (s : State) : KeptNext s (execImageVerifyComplete s) := by
  refine ⟨_, rfl, ?_⟩
  have hk := Kept.refl s
  repeat' first
    | with_reducible assumption | with_reducible apply State.verified_kept

theorem execPendingCancel_kept (rq : Rq) (s : State) : KeptNext s (execPendingCancel rq s) := by
  refine ⟨_, rfl, ?_⟩
  have hk := Kept.refl s
  repeat' first
    | with_reducible assumption | with_reducible apply State.onRequest_kept | with_reducible apply State.updRecord_kept
    | with_reducible apply State.flushRecord_kept | with_reducible apply State.reply_kept | intro _
    | with_reducible refine Kept.upd ?_

theorem execAttestation_kept (rq : Rq) (nonce : List Byte) (s : State) : KeptNext s (execAttestation rq nonce s) := by
  refine ⟨_, rfl, ?_⟩
  have hk := Kept.refl s
  repeat' first
    | with_reducible assumption | with_reducible apply State.onRequest_kept | with_reducible apply State.attest_kept | intro _

theorem execLogRead_kept (rq : Rq) (ring : Bool) (first : Nat) (count : Nat) (s : State) : KeptNext s (execLogRead rq ring first count s) := by
  refine ⟨_, rfl, ?_⟩
  have hk := Kept.refl s
  repeat' first
    | with_reducible assumption | with_reducible apply State.onRequest_kept | with_reducible apply State.logRead_kept | intro _

theorem execLogErase_kept (rq : Rq) (s : State) : KeptNext s (execLogErase rq s) := by
  refine ⟨_, rfl, ?_⟩
  have hk := Kept.refl s
  repeat' first
    | with_reducible assumption | with_reducible apply State.onRequest_kept | with_reducible apply State.logErase_kept | intro _

theorem execResetRequest_kept (rq : Rq) (s : State) : KeptNext s (execResetRequest rq s) := by
  refine ⟨_, rfl, ?_⟩
  have hk := Kept.refl s
  repeat' first
    | with_reducible assumption | with_reducible apply State.onRequest_kept | with_reducible apply State.reply_kept
    | with_reducible apply State.warmReset_kept | intro _ | split

end Sys2Proof.Machine
end

