-- ==== Sys2Proof/Laws/Lanes.lean ====
section
/-!
SUPPORT. Lanes of packed registers: what lane `i` of a result is.
-/
namespace Sys2Proof.Safety
open Sys2Proof.Machine

theorem packLanes_lane (w : Nat) (xs : List Nat) (i : Nat) : packLanes w xs >>> (w * i) % 2 ^ w = xs.getD i 0 % 2 ^ w := by
  induction xs generalizing i with
  | nil => simp [packLanes]
  | cons x xs ih =>
    have h : 0 < 2 ^ w := Nat.two_pow_pos w
    cases i with
    | zero => simp [packLanes, Nat.add_mod]
    | succ i =>
      rw [List.getD_cons_succ, ← ih i, packLanes, Nat.shiftRight_eq_div_pow, Nat.shiftRight_eq_div_pow, Nat.mul_succ, Nat.add_comm (w * i), Nat.pow_add,
        ← Nat.div_div_eq_div_mul, Nat.add_mul_div_left _ _ h, Nat.div_eq_of_lt (Nat.mod_lt _ h), Nat.zero_add]

theorem laneAt_vecOf (w : Nat) (xs : List Nat) (i : Nat) (h : w * (i + 1) ≤ 512) : laneAt w (vecOf w xs) i = BitVec.ofNat w (xs.getD i 0) := by
  apply BitVec.eq_of_toNat_eq
  rw [BitVec.extractLsb'_toNat, BitVec.toNat_ofNat, ← packLanes_lane]
  unfold vecOf
  apply Nat.eq_of_testBit_eq
  intro j
  rw [Nat.testBit_mod_two_pow, Nat.testBit_mod_two_pow, Nat.testBit_shiftRight, Nat.testBit_shiftRight, BitVec.toNat_ofNat, Nat.testBit_mod_two_pow]
  by_cases hj : j < w
  · rw [Nat.mul_succ] at h; simp [show w * i + j < 512 by omega]
  · simp [hj]

theorem lanesOf_getD (w n v i : Nat) (h : i < n) : (lanesOf w n v).getD i 0 = v >>> (w * i) % 2 ^ w := by
  simp [lanesOf, List.getD, h]
theorem lanesTy_getD (t : Nat) (v : Vec) (i : Nat) (h : i < tyLanes t) : (lanesTy t v).getD i 0 = (laneAt (tyWidth t) v i).toNat := by
  rw [BitVec.extractLsb'_toNat]; exact lanesOf_getD _ _ _ _ h
theorem lanesTy_length (t : Nat) (v : Vec) : (lanesTy t v).length = tyLanes t := by simp [lanesTy, lanesOf]

/-- Lane `i` of a result packed from a lane-by-lane function of two registers. -/
theorem laneAt_zipWith (t : Nat) (f : Nat → Nat → LaneOut) (p q : Vec) (i : Nat) (h : i < tyLanes t) (hw : tyWidth t * (i + 1) ≤ 512) :
    laneAt (tyWidth t) (packOut (tyWidth t) (List.zipWith f (lanesTy t p) (lanesTy t q))).vec i =
      BitVec.ofNat _ (f (laneAt (tyWidth t) p i).toNat (laneAt (tyWidth t) q i).toNat).val := by
  unfold packOut
  rw [laneAt_vecOf _ _ _ hw]
  congr 1
  have h1 := lanesTy_length t p
  have h2 := lanesTy_length t q
  rw [← lanesTy_getD t p i h, ← lanesTy_getD t q i h]
  simp [List.getD, h1, h2, h]
/-- The same of a function of the lane's number. -/
theorem laneAt_range (w n : Nat) (f : Nat → LaneOut) (i : Nat) (h : i < n) (hw : w * (i + 1) ≤ 512) :
    laneAt w (packOut w ((List.range n).map f)).vec i = BitVec.ofNat w (f i).val := by
  unfold packOut
  rw [laneAt_vecOf _ _ _ hw]
  congr 1
  simp [List.getD, h]

end Sys2Proof.Safety
end

