-- ==== Sys2Proof/Laws/Reads.lean ====
section
/-!
SUPPORT. What a read can do where no stored unit is damaged: a checked load, a table walk, a translation and an elastic lookup of a key
leave memory, poison, the clock and every record alone but for the translation caches, which hold copies of table entries.
-/
namespace Sys2Proof.Machine

/-- Event counters, free values drawn and translation caches may have changed, nothing else that a command reads. -/
structure ReadOnly (s t : State) : Prop where
  mem : t.mem = s.mem
  poison : t.poison = s.poison
  errs : t.errs = s.errs
  now : t.now = s.now
  job : t.job = s.job
  tab : t.tab = s.tab
  pending : t.pending = s.pending
  core : ∀ c, ∃ l, t.core c = { s.core c with tlb := l }
  bench : ∀ b, ∃ l, t.bench b = { s.bench b with tlb := l }
  hub : ∀ h, ∃ l, t.hub h = { s.hub h with tlb := l }
  die : ∀ d, t.die d = s.die d
  port : ∀ p, t.port p = s.port p
  csr : t.csr = s.csr
  sec : t.sec = s.sec
  out : t.out = s.out

theorem ReadOnly.refl (s : State) : ReadOnly s s :=
  ⟨rfl, rfl, rfl, rfl, rfl, rfl, rfl, fun _ => ⟨_, rfl⟩, fun _ => ⟨_, rfl⟩, fun _ => ⟨_, rfl⟩, fun _ => rfl, fun _ => rfl,
    rfl, rfl, rfl⟩
theorem ReadOnly.trans {s t u : State} (h : ReadOnly s t) (k : ReadOnly t u) : ReadOnly s u where
  mem := k.mem.trans h.mem
  poison := k.poison.trans h.poison
  errs := k.errs.trans h.errs
  now := k.now.trans h.now
  job := k.job.trans h.job
  tab := k.tab.trans h.tab
  pending := k.pending.trans h.pending
  core c := by obtain ⟨l, hl⟩ := h.core c; obtain ⟨m, hm⟩ := k.core c; exact ⟨m, by rw [hm, hl]⟩
  bench c := by obtain ⟨l, hl⟩ := h.bench c; obtain ⟨m, hm⟩ := k.bench c; exact ⟨m, by rw [hm, hl]⟩
  hub c := by obtain ⟨l, hl⟩ := h.hub c; obtain ⟨m, hm⟩ := k.hub c; exact ⟨m, by rw [hm, hl]⟩
  die d := (k.die d).trans (h.die d)
  port d := (k.port d).trans (h.port d)
  csr := k.csr.trans h.csr
  sec := k.sec.trans h.sec
  out := k.out.trans h.out
/-- A read of a state in which no unit is damaged (R513: one that is may end in a report, a hard failure and a retirement). -/
structure Reads (s t : State) : Prop where
  clean : s.errs = [] → ReadOnly s t
theorem Reads.refl (s : State) : Reads s s := ⟨fun _ => .refl s⟩
theorem Reads.trans {s t u : State} (h : Reads s t) (k : Reads t u) : Reads s u :=
  ⟨fun e => (h.clean e).trans (k.clean ((h.clean e).errs.trans e))⟩
theorem RegsOnly.reads {s t : State} (h : RegsOnly s t) (hc : t.csr = s.csr) : Reads s t := .mk fun _ =>
  ⟨h.mem, h.poison, h.errs, h.now, h.job, h.tab, h.pending, fun c => ⟨_, h.core c⟩, fun c => ⟨_, h.bench c⟩, fun c => ⟨_, h.hub c⟩, h.die, h.port,
    hc, h.sec, h.out⟩
theorem State.drew_reads (s : State) : Reads s s.drew := .mk fun _ =>
  ⟨rfl, rfl, rfl, rfl, rfl, rfl, rfl, fun _ => ⟨_, rfl⟩, fun _ => ⟨_, rfl⟩, fun _ => ⟨_, rfl⟩, fun _ => rfl, fun _ => rfl, rfl, rfl, rfl⟩

theorem State.check_reads (s : State) (u : Nat) : Reads s (s.check u).2 := by
  refine ⟨fun e => ?_⟩
  unfold State.check
  split
  · dsimp only
    split
    · exact ((s.countBench_only ..).reads (s.csr_countBench ..)).clean e
    · exact .refl s
  · simp only [e, List.find?_nil]
    split <;> exact .refl s
theorem State.checks_reads (us : List Nat) : ∀ s : State, Reads s (s.checks us).2 := by
  induction us with
  | nil => exact fun s => Reads.refl s
  | cons u us ih => intro s; exact (s.check_reads u).trans (ih _)
/-- A load changes no memory. -/
theorem State.load_reads (s : State) (k n : Nat) : Reads s (s.load k n).2.2 := by
  unfold State.load
  split
  · exact .refl s
  · exact (s.checks_reads _).trans (State.drew_reads _)
theorem State.loadNat_reads (s : State) (k n : Nat) : Reads s (s.loadNat k n).2.2 := s.load_reads k n
theorem State.loadAt_reads (s : State) (a n : Nat) : Reads s (s.loadAt a n).2.2 := by
  unfold State.loadAt
  split
  · exact s.load_reads ..
  · exact .refl s
/-- Where nothing is poisoned or damaged, a load answers the bytes that stand there and changes nothing. -/
theorem State.load_clean {s : State} (h : s.poison = [] ∧ s.errs = []) (k n : Nat) :
    s.load k n = ((List.range n).map fun i => memGet s.mem (k + i), false, s) := by
  unfold State.load; simp [h]
theorem State.loadNat_clean {s : State} (h : s.poison = [] ∧ s.errs = []) (k n : Nat) :
    s.loadNat k n = (leNat ((List.range n).map fun i => memGet s.mem (k + i)), false, s) := by
  unfold State.loadNat; rw [s.load_clean h]

theorem State.tableWord_reads (s : State) (a : Nat) : Reads s (s.tableWord a).2 := by
  unfold State.tableWord
  split
  · exact s.loadNat_reads ..
  · exact .refl s
theorem State.walk_reads (s : State) (a : Nat) : Reads s (s.walk a).2 := by
  unfold State.walk
  split
  · exact .refl s
  · extract_lets r1
    have h1 : Reads s r1.2 := s.tableWord_reads _
    split
    · exact h1
    · split
      · exact h1
      · extract_lets r2
        have h2 : Reads s r2.2 := h1.trans (r1.2.tableWord_reads _)
        split
        · exact h2
        · split
          · exact h2
          · split
            · exact h2
            · extract_lets r3
              have h3 : Reads s r3.2 := h2.trans (r2.2.tableWord_reads _)
              split
              · exact h3
              · split <;> exact h3
theorem State.setTlb_reads (s : State) (p : XPath) (t : List Tlb) : Reads s (s.setTlb p t) := by
  unfold State.setTlb
  split
  · rename_i c
    refine .mk fun _ => ⟨rfl, rfl, rfl, rfl, rfl, rfl, rfl, fun d => ?_, fun _ => ⟨_, rfl⟩, fun _ => ⟨_, rfl⟩, fun _ => rfl, fun _ => rfl, rfl, rfl, rfl⟩
    by_cases h : d = c
    · subst h; exact ⟨t, by simp⟩
    · exact ⟨_, State.core_updCore_other _ _ h⟩
  · rename_i c
    refine .mk fun _ => ⟨rfl, rfl, rfl, rfl, rfl, rfl, rfl, fun _ => ⟨_, rfl⟩, fun d => ?_, fun _ => ⟨_, rfl⟩, fun _ => rfl, fun _ => rfl, rfl, rfl, rfl⟩
    by_cases h : d = c
    · subst h; exact ⟨t, by simp⟩
    · exact ⟨_, State.bench_updBench_other _ _ h⟩
  · rename_i c
    refine .mk fun _ => ⟨rfl, rfl, rfl, rfl, rfl, rfl, rfl, fun _ => ⟨_, rfl⟩, fun _ => ⟨_, rfl⟩, fun d => ?_, fun _ => rfl, fun _ => rfl, rfl, rfl, rfl⟩
    by_cases h : d = c
    · subst h; exact ⟨t, by simp⟩
    · exact ⟨_, State.hub_updHub_other _ _ h⟩
theorem State.countWalk_reads (s : State) (p : XPath) : Reads s (s.countWalk p) := by
  unfold State.countWalk
  split
  · exact (s.countBench_only ..).reads (s.csr_countBench ..)
  · exact (s.countBench_only ..).reads (s.csr_countBench ..)
  · exact .refl s
theorem State.lookup_reads (s : State) (p : XPath) (a : Nat) : Reads s (s.lookup p a).2 := by
  unfold State.lookup
  extract_lets ts r
  split
  · exact s.setTlb_reads ..
  · have h : Reads s r.2 := (s.countWalk_reads p).trans ((s.countWalk p).walk_reads a)
    split
    · exact h.trans (State.setTlb_reads ..)
    · exact h
/-- A translation changes no memory. -/
theorem State.translate_reads (s : State) (p : XPath) (a : Nat) (w : Bool) : Reads s (s.translate p a w).2 := by
  unfold State.translate
  extract_lets q
  split
  · exact .refl s
  · have h : Reads s (s.lookup p q).2 := s.lookup_reads ..
    split <;> exact h
/-- Nor does one without a translation cache. -/
theorem State.translateBare_reads (s : State) (a : Nat) (w : Bool) : Reads s (s.translateBare a w).2 := by
  unfold State.translateBare
  extract_lets q
  split
  · exact .refl s
  · have h : Reads s (s.walk q).2 := s.walk_reads ..
    split <;> exact h
theorem State.elasticKey_reads (s : State) (b : BenchId) (a : Nat) (w : Bool) : Reads s (s.elasticKey b a w).2 := by
  unfold State.elasticKey
  split
  · exact .refl s
  · extract_lets r
    have h : Reads s r.2 := s.translate_reads ..
    split
    · exact h
    · split
      · exact h
      · split <;> exact h
/-- Reading a run through a path changes no memory. -/
theorem State.xread_reads (s : State) (p : XPath) (a n : Nat) : Reads s (s.xread p a n).2.2.2 := by
  unfold State.xread
  generalize hx : ((none, [], false, s) : Option (Nat × Nat) × List Byte × Bool × State) = x
  have h : Reads s x.2.2.2 := by subst hx; exact .refl s
  clear hx
  induction partsOf a n generalizing x with
  | nil => exact h
  | cons q qs ih =>
    rw [List.foldl_cons]
    apply ih
    split
    · exact h
    · have ht := h.trans (x.2.2.2.translate_reads p q.1 false)
      dsimp only
      split
      · exact ht
      · exact ht.trans (State.loadAt_reads ..)

end Sys2Proof.Machine
end

