-- ==== Sys2Proof/Laws/Stores.lean ====
section
/-!
SUPPORT. What a store can do where no stored unit is damaged: memory, poison and event counters may change, nothing else.
-/
namespace Sys2Proof.Machine

/-- Memory, poison, the record of damaged words written whole, and event counters may have changed, nothing else. -/
def StoreOnly (s t : State) : Prop := t = { s with mem := t.mem, poison := t.poison, seenUe := t.seenUe, ctr := t.ctr }
theorem StoreOnly.refl (s : State) : StoreOnly s s := rfl
theorem StoreOnly.trans {s t u : State} (h : StoreOnly s t) (k : StoreOnly t u) : StoreOnly s u := by
  unfold StoreOnly at *; rw [k, h]
theorem StoreOnly.job {s t : State} (h : StoreOnly s t) : t.job = s.job := by unfold StoreOnly at h; rw [h]
theorem StoreOnly.tab {s t : State} (h : StoreOnly s t) : t.tab = s.tab := by unfold StoreOnly at h; rw [h]
theorem StoreOnly.out {s t : State} (h : StoreOnly s t) : t.out = s.out := by unfold StoreOnly at h; rw [h]
theorem StoreOnly.now {s t : State} (h : StoreOnly s t) : t.now = s.now := by unfold StoreOnly at h; rw [h]
theorem StoreOnly.pending {s t : State} (h : StoreOnly s t) : t.pending = s.pending := by unfold StoreOnly at h; rw [h]
theorem StoreOnly.cores {s t : State} (h : StoreOnly s t) : t.cores = s.cores := by unfold StoreOnly at h; rw [h]
theorem StoreOnly.benches {s t : State} (h : StoreOnly s t) : t.benches = s.benches := by unfold StoreOnly at h; rw [h]
theorem StoreOnly.hubs {s t : State} (h : StoreOnly s t) : t.hubs = s.hubs := by unfold StoreOnly at h; rw [h]
theorem StoreOnly.dies {s t : State} (h : StoreOnly s t) : t.dies = s.dies := by unfold StoreOnly at h; rw [h]
theorem StoreOnly.ports {s t : State} (h : StoreOnly s t) : t.ports = s.ports := by unfold StoreOnly at h; rw [h]
theorem StoreOnly.mgt {s t : State} (h : StoreOnly s t) : t.mgt = s.mgt := by unfold StoreOnly at h; rw [h]
theorem StoreOnly.mgr {s t : State} (h : StoreOnly s t) : t.mgr = s.mgr := by unfold StoreOnly at h; rw [h]
theorem StoreOnly.loader {s t : State} (h : StoreOnly s t) : t.loader = s.loader := by unfold StoreOnly at h; rw [h]
theorem StoreOnly.sec {s t : State} (h : StoreOnly s t) : t.sec = s.sec := by unfold StoreOnly at h; rw [h]
theorem StoreOnly.pins {s t : State} (h : StoreOnly s t) : t.pins = s.pins := by unfold StoreOnly at h; rw [h]
theorem StoreOnly.csr {s t : State} (h : StoreOnly s t) : t.csr = s.csr := by unfold StoreOnly at h; rw [h]
theorem StoreOnly.errs {s t : State} (h : StoreOnly s t) : t.errs = s.errs := by unfold StoreOnly at h; rw [h]
/-- A store into a state in which no unit is damaged (a damaged word that is written in part is corrected or poisoned first, R513). -/
structure Stores (s t : State) : Prop where
  clean : s.errs = [] → StoreOnly s t
theorem Stores.refl (s : State) : Stores s s := ⟨fun _ => .refl s⟩
theorem Stores.trans {s t u : State} (h : Stores s t) (k : Stores t u) : Stores s u :=
  ⟨fun e => (h.clean e).trans (k.clean ((h.clean e).errs.trans e))⟩
theorem Stores.foldl {α : Type} {f : State → α → State} (hf : ∀ x a, Stores x (f x a)) (l : List α) (s : State) :
    Stores s (l.foldl f s) := by
  induction l generalizing s with
  | nil => exact .refl s
  | cons a l ih => exact (hf s a).trans (ih _)

theorem State.countAt_only (s : State) (k src n : Nat) : StoreOnly s (s.countAt k src n) := by
  unfold State.countAt
  split
  · have h := s.countBench_only ‹_› src none n
    have e := s.csr_countBench ‹_› src none n
    unfold RegsOnly at h; unfold StoreOnly; rw [h, e]
  · exact .refl s
theorem State.storeUnit_stores (s : State) (k : Nat) (bs : List Byte) (poison : Bool) (u : Nat) :
    Stores s (s.storeUnit k bs poison u).2 := by
  refine ⟨fun e => ?_⟩
  unfold State.storeUnit
  extract_lets z whole lo hi put
  split
  · exact rfl
  · split
    · unfold put State.clearErr StoreOnly
      simp [e]
    · split
      · exact rfl
      · simp only [e, List.find?_nil]
        split
        · exact StoreOnly.trans (t := put s) rfl (State.countAt_only ..)
        · exact rfl
theorem State.storeUnits_stores (k : Nat) (bs : List Byte) (poison : Bool) (us : List Nat) (s : State) :
    Stores s (s.storeUnits k bs poison us).2 := by
  unfold State.storeUnits
  suffices h : ∀ acc : Bool × State, Stores acc.2 (us.foldl (fun (acc : Bool × State) u =>
    let (b, s) := acc.2.storeUnit k bs poison u
    (acc.1 || b, s)) acc).2 from h (false, s)
  induction us with
  | nil => intro acc; exact .refl _
  | cons u us ih =>
    intro acc
    rw [List.foldl_cons]
    exact (acc.2.storeUnit_stores k bs poison u).trans (ih (acc.1 || (acc.2.storeUnit k bs poison u).1, (acc.2.storeUnit k bs poison u).2))
/-- A store changes nothing but storage and the records of its checkers. -/
theorem State.store_stores (s : State) (k : Nat) (bs : List Byte) (poison : Bool) : Stores s (s.store k bs poison).2 := by
  unfold State.store
  split
  · exact .refl s
  · split
    · exact ⟨fun _ => StoreOnly.trans (t := { s with mem := putBytes s.mem k bs }) rfl (State.countAt_only ..)⟩
    · have h := State.storeUnits_stores k bs poison (unitsOf k bs.length) s
      dsimp only
      split
      · exact h.trans (State.storeUnits_stores ..)
      · exact h
theorem State.poisonRange_stores (s : State) (k n : Nat) : Stores s (s.poisonRange k n) := ⟨fun _ => rfl⟩
theorem State.poisonAt_stores (s : State) (a n : Nat) : Stores s (s.poisonAt a n) := by
  unfold State.poisonAt
  split
  · exact s.poisonRange_stores ..
  · exact .refl s
theorem State.storeAt_stores (s : State) (a : Nat) (bs : List Byte) (poison : Bool) : Stores s (s.storeAt a bs poison).2 := by
  unfold State.storeAt
  split
  · exact s.store_stores ..
  · exact .refl s
/-- A long run's writes. -/
theorem State.storeLong_stores (s : State) (a : Nat) (bs : List Byte) (poison : Bool) : Stores s (s.storeLong a bs poison) := by
  unfold State.storeLong
  suffices h : ∀ (l : List (Nat × Nat)) (acc : List Byte × State), Stores acc.2 (l.foldl (fun (acc : List Byte × State) p =>
    let r := acc.2.storeAt p.1 (acc.1.take p.2) poison
    (acc.1.drop p.2, if r.1 then r.2.poisonAt p.1 p.2 else r.2)) acc).2 from h _ (bs, s)
  intro l
  induction l with
  | nil => intro acc; exact .refl _
  | cons x l ih =>
    intro acc
    rw [List.foldl_cons]
    refine Stores.trans ?_ (ih _)
    dsimp only
    split
    · exact (acc.2.storeAt_stores ..).trans (State.poisonAt_stores ..)
    · exact acc.2.storeAt_stores ..
theorem State.putScr_stores (s : State) (b : BenchId) (off : Nat) (bs : List Byte) : Stores s (s.putScr b off bs) := by
  unfold State.putScr
  dsimp only
  split
  · exact (s.store_stores ..).trans (State.poisonRange_stores ..)
  · exact s.store_stores ..
/-- A long run's reads. -/
theorem State.loadLong_reads (s : State) (a n : Nat) : Reads s (s.loadLong a n).2.2 := by
  unfold State.loadLong
  suffices h : ∀ (l : List (Nat × Nat)) (acc : List Byte × Bool × State), Reads acc.2.2 (l.foldl (fun (acc : List Byte × Bool × State) p =>
    let r := acc.2.2.loadAt p.1 p.2
    (acc.1 ++ r.1, acc.2.1 || r.2.1, r.2.2)) acc).2.2 from h _ ([], false, s)
  intro l
  induction l with
  | nil => intro acc; exact .refl _
  | cons x l ih =>
    intro acc
    rw [List.foldl_cons]
    exact (acc.2.2.loadAt_reads x.1 x.2).trans
      (ih (acc.1 ++ (acc.2.2.loadAt x.1 x.2).1, acc.2.1 || (acc.2.2.loadAt x.1 x.2).2.1, (acc.2.2.loadAt x.1 x.2).2.2))

end Sys2Proof.Machine
end

