-- ==== Sys2Proof/Laws/Places.lean ====
section
/-!
SUPPORT. Where an address stands depends on registers alone: two states with the same registers, event counters apart, give every address
the same key and every key the same twin. A store into clean storage writes its bytes and counts the words that it covers in part.
-/
namespace Sys2Proof.Machine

theorem retire_ctr (h : Hub) (c k : Nat) (hc : c < 56) (hk : k < 8) : isCtr (retireKey h c k) = false := by
  unfold retireKey
  rw [isCtr_hub _ _ (by omega)]
  unfold ctrSpec
  repeat' split
  all_goals first | rfl | (rename_i h; simp at h; omega)
theorem mgt_ctr {x : Nat} (hx : x < 0x800) : isCtr (mgtKey x) = false := by
  rw [isCtr_mgt _ (by omega)]
  unfold ctrSpec
  repeat' split
  all_goals first | rfl | (rename_i h; simp at h; omega)
theorem find_congr {α : Type} {l : List α} {p q : α → Bool} (h : ∀ a ∈ l, p a = q a) : l.find? p = l.find? q := by
  induction l with
  | nil => rfl
  | cons a l ih => rw [List.find?_cons, List.find?_cons, h a (by simp), ih fun b hb => h b (by simp [hb])]
/-- The same registers, event counters apart. -/
def SameRegs (s t : State) : Prop := t.csr = s.csr ∧ t.sec = s.sec
theorem SameRegs.fld {s t : State} (h : SameRegs s t) {k : Nat} (hk : isCtr k = false) (hi lo : Nat) : t.fld k hi lo = s.fld k hi lo := by
  unfold State.fld State.reg; simp [hk, h.1, h.2]
theorem SameRegs.diePhys {s t : State} (h : SameRegs s t) (l : Nat) : t.diePhys l = s.diePhys l := by
  unfold State.diePhys State.physOf
  split
  · rw [h.fld (mgt_ctr (by omega))]
  · rfl
theorem SameRegs.benchAt {s t : State} (h : SameRegs s t) (ld lb : Nat) : t.benchAt ld lb = s.benchAt ld lb := by
  unfold State.benchAt State.benchPhys State.spareLog
  rw [h.diePhys]
  congr 1
  funext d
  simp only [h.fld (k := dieKey d 0x100) (by rw [isCtr_die _ _ (by decide)]; decide)]
/-- The key of an address. -/
theorem SameRegs.keyOf {s t : State} (h : SameRegs s t) (a : Nat) : t.keyOf a = s.keyOf a := by
  unfold State.keyOf
  cases placeOf a with
  | lpddr c o =>
    simp only [Option.some.injEq]
    unfold State.lpddrKey
    cases finOf? 6 (c / 56) with
    | none => rfl
    | some hh =>
      dsimp only
      rw [find_congr (q := fun k => s.fld (retireKey hh (c % 56) k) 22 0 == o / 4096 && s.fld (retireKey hh (c % 56) k) 23 23 == 1)
        fun k hk => by simp only [h.fld (retire_ctr hh (c % 56) k (by omega) (List.mem_range.1 hk))]]
  | scratch d b o =>
    simp only
    rw [h.benchAt]
    congr 1
    funext pb
    rw [h.fld (k := benchKey pb 0x228) (by rw [isCtr_bench _ _ (by decide)]; decide)]
  | store d b c o => simp only; rw [h.benchAt]
  | csr => rfl
  | none => rfl
/-- The spare block that a retirement fills. -/
theorem SameRegs.retireTwin {s t : State} (h : SameRegs s t) (k : Nat) : t.retireTwin k = s.retireTwin k := by
  unfold State.retireTwin
  split
  · cases finOf? 6 (k / 2 ^ 35 / 56) with
    | none => rfl
    | some hh =>
      simp only [Option.bind_some]
      rw [find_congr (q := fun j => s.fld (retireKey hh (k / 2 ^ 35 % 56) j) 22 0 == k % 2 ^ 35 / 4096 &&
          s.fld (retireKey hh (k / 2 ^ 35 % 56) j) 24 24 == 1)
        fun j hj => by simp only [h.fld (retire_ctr hh (k / 2 ^ 35 % 56) j (by omega) (List.mem_range.1 hj))]]
  · rfl

theorem State.countAt_zero (s : State) (k src : Nat) : s.countAt k src 0 = s := by
  unfold State.countAt
  split
  · unfold State.countBench; simp
  · rfl
/-- A store into clean storage writes its bytes; a word it covers in part is counted. -/
theorem State.store_clean {s : State} (hp : s.poison = []) (he : s.errs = []) {k : Nat} (ht : s.retireTwin k = none) (bs : List Byte) :
    s.store k bs false = (false, ({ s with mem := putBytes s.mem k bs } : State).countAt k 0x6b (partialWords k bs.length)) := by
  unfold State.store
  cases bs with
  | nil => simp [State.countAt_zero, partialWords, putBytes]
  | cons x xs => simp [hp, he, ht]
/-- A run that stays inside a page, at an address that has a key. -/
theorem State.storeLong_clean {s : State} (hp : s.poison = []) (he : s.errs = []) {a k : Nat} (hk : s.keyOf a = some k)
    (ht : s.retireTwin k = none) (bs : List Byte) (hl : bs.length ≤ 4096 - a % 4096) :
    s.storeLong a bs false = ({ s with mem := putBytes s.mem k bs } : State).countAt k 0x6b (partialWords k bs.length) := by
  unfold State.storeLong partsOf pageParts
  split
  · rename_i h
    have : bs = [] := List.length_eq_zero_iff.1 h
    subst this; exact (State.countAt_zero ..).symm
  · have hm : min bs.length (4096 - a % 4096) = bs.length := by omega
    dsimp only
    rw [hm]
    have h2 : pageParts (bs.length / 4096 + 1) (a + bs.length) (bs.length - bs.length) = [] := by
      unfold pageParts; rw [if_pos (by omega)]
    rw [h2]
    simp only [List.foldl_cons, List.foldl_nil, State.storeAt, hk, List.take_length, State.store_clean hp he ht]
    rfl

end Sys2Proof.Machine
end

