-- ==== Sys2Proof/Machine/Columns.lean ====
section
/-!
DEFINITION. The column map (R599 to R604): where on the grid each signal stands. Position (x, y), west to east and north to south.
-/
namespace Sys2Proof.Machine

/-- Position `u` along a hub's strip at depth `d` from the module's edge (R601). -/
def hubPlace (h : Hub) (u d : Nat) : Nat × Nat := (44 * (h.val % 3) + u, if h.val < 3 then d else 115 - d)
/-- Signal `i`, `j` of R602 of a local channel. -/
def chanColumn (h : Hub) (chan i j : Nat) : Nat × Nat := hubPlace h (10 * (chan % 4) + j) (4 * (chan / 4) + i)
/-- Member 0 TX_P, 1 TX_N, 2 RX_P, 3 RX_N of a lane of an Asvex port; lane 8 is the spare lane. -/
def asvexColumn (h : Hub) (port lane member : Nat) : Nat × Nat :=
  if port < 6 then hubPlace h (40 + member) (9 * port + lane)
  else hubPlace h (18 * (port - 6) + 2 * lane + member % 2) (56 + member / 2)
/-- Is a place of a hub strip a GND column? -/
def hubGnd (u d : Nat) : Bool :=
  decide (36 ≤ u ∧ u ≤ 39 ∧ 56 ≤ d ∧ d ≤ 57) || decide (40 ≤ u ∧ u ≤ 43 ∧ 54 ≤ d ∧ d ≤ 57)
/-- The tray package of a local channel (R305, R601). -/
def trayPackage (h : Hub) (chan : Nat) : Nat := 14 * h.val + chan / 4

/-- The signals of a channel by row `i` and position `j` (R602). -/
def chanSignals : List (List String) :=
  [["DQ_A0", "DQ_A1", "DQ_A2", "DQ_A3", "DQ_A4", "DQ_A5", "DQ_A6", "DQ_A7", "DQ_A8", "DQ_A9"],
   ["DQ_A10", "DQ_A11", "DQ_B0", "DQ_B1", "DQ_B2", "DQ_B3", "DQ_B4", "DQ_B5", "DQ_B6", "DQ_B7"],
   ["DQ_B8", "DQ_B9", "DQ_B10", "DQ_B11", "RDQS_A_t", "RDQS_A_c", "RDQS_B_t", "RDQS_B_c", "WCK_A_t", "WCK_A_c"],
   ["WCK_B_t", "WCK_B_c", "CK_t", "CK_c", "CS_A", "CS_B", "CA_A0", "CA_A1", "CA_B0", "CA_B1"]]

/-- The control columns of a management die's strip, in order (R604). -/
def ctrlSignals (m : Md) : List String :=
  if m = 0 then ["XSPI_CLK", "XSPI_CS_L", "XSPI_DQS", "XSPI_DQ0", "XSPI_DQ1", "XSPI_DQ2", "XSPI_DQ3", "XSPI_DQ4", "XSPI_DQ5", "XSPI_DQ6",
    "XSPI_DQ7", "XSPI_RESET_L", "PORST_L", "WRST_L", "PWROK", "REF_CLK_P", "REF_CLK_N", "PCIE0_PERST_L"]
  else ["AON_CLK_IN", "SVC_REQ_L", "THERM_TRIP_L", "I3C_SCL", "I3C_SDA", "TCK", "TMS", "TDI", "TDO", "TRST_L", "UART_TX", "UART_RX",
    "PCIE1_PERST_L"]

/-- What stands at a place of a management strip. -/
inductive MgtColumn where
  | port (member : Nat)
  | data (port lane member : Nat)
  | pcie (lane member : Nat)
  | pcieRefClk (member : Nat)
  | control (signal : String)
  | vaon
  | vin48
  | gnd
  | empty
  deriving DecidableEq, Repr

/-- Place `q` of a management strip on the grid (R603). -/
def mgtPlace (m : Md) (q : Nat) : Nat × Nat := (132 + q % 16, if m = 0 then q / 16 else 115 - q / 16)
/-- The column at place `q` of a management strip (R603, R604). -/
def mgtColumn (m : Md) (q : Nat) : MgtColumn :=
  let n := (ctrlSignals m).length
  if q < 4 then .port q
  else if q < 68 then .data ((q - 4) / 32) ((q - 4) % 32 / 4) (q % 4)
  else if q < 132 then .pcie ((q - 68) / 4) (q % 4)
  else if q < 134 then .pcieRefClk (q - 132)
  else if q < 134 + n then .control ((ctrlSignals m).getD (q - 134) "")
  else if q < 138 + n then .vaon
  else if q < 218 + n then .vin48
  else if q < 792 then .gnd
  else .empty

end Sys2Proof.Machine
end

