-- ==== Sys2Proof/WellFormed.lean ====
section
/-!
DEFINITION. Which commands are well formed: a slot command names the opcode of its row in its slot, lists have the lengths their
wire formats fix, and numbers fit the fields that carry them.
-/
namespace Sys2Proof
namespace WellFormed
open Sys2Proof.Machine

/-- Slot and opcode of a slot command (R91, R99, R102, R106); none for the others. -/
def slotOf : Instr → Option (Nat × Nat × Bundle)
  | .snop _ b => some (0, 0x00, b)
  | .salu _ b => some (0, 0x01, b)
  | .addi _ b => some (0, 0x02, b)
  | .andi _ b => some (0, 0x03, b)
  | .ori _ b => some (0, 0x04, b)
  | .xori _ b => some (0, 0x05, b)
  | .shi _ b => some (0, 0x06, b)
  | .lim _ b => some (0, 0x07, b)
  | .br _ b => some (0, 0x08, b)
  | .loop _ b => some (0, 0x09, b)
  | .rdsr _ b => some (0, 0x0a, b)
  | .mnop _ b => some (1, 0x00, b)
  | .mwld _ b => some (1, 0x01, b)
  | .mscl _ b => some (1, 0x02, b)
  | .mstep _ b => some (1, 0x03, b)
  | .mmask _ b => some (1, 0x04, b)
  | .vnop _ b => some (2, 0x00, b)
  | .varith _ b => some (2, 0x01, b)
  | .vfma _ b => some (2, 0x02, b)
  | .vfms _ b => some (2, 0x03, b)
  | .vfnma _ b => some (2, 0x04, b)
  | .vcmp _ b => some (2, 0x05, b)
  | .vsel _ b => some (2, 0x06, b)
  | .vcvt _ b => some (2, 0x07, b)
  | .vbit _ b => some (2, 0x08, b)
  | .vshuf _ b => some (2, 0x09, b)
  | .vred _ b => some (2, 0x0a, b)
  | .vscan _ b => some (2, 0x0b, b)
  | .vbfly _ b => some (2, 0x0c, b)
  | .vgact _ b => some (2, 0x0d, b)
  | .vbcast _ b => some (2, 0x0e, b)
  | .vsfn _ b => some (2, 0x0f, b)
  | .vmvdot _ b => some (2, 0x10, b)
  | .msnop _ b => some (3, 0x00, b)
  | .ldv _ b => some (3, 0x01, b)
  | .stv _ b => some (3, 0x02, b)
  | .lds _ b => some (3, 0x03, b)
  | .sts _ b => some (3, 0x04, b)
  | .diss _ b => some (3, 0x05, b)
  | .ldc _ b => some (3, 0x06, b)
  | .stc _ b => some (3, 0x07, b)
  | .gstr _ b => some (3, 0x08, b)
  | .gwait _ b => some (3, 0x09, b)
  | .tfill _ b => some (3, 0x0a, b)
  | .waitu _ b => some (3, 0x20, b)
  | .deadline _ b => some (3, 0x21, b)
  | .eclose _ b => some (3, 0x22, b)
  | .segend _ b => some (3, 0x23, b)
  | .pluck _ b => some (3, 0x24, b)
  | .park _ b => some (3, 0x25, b)
  | _ => none

/-- The slot command's slot holds the row's opcode. -/
def slotOk (i : Instr) : Bool :=
  match slotOf i with
  | some (k, op, b) => slotOp (slotWord b k) == op
  | none => true

/-- Byte lists of fixed length: flit bodies (R421), encapsulation keys and nonces (R556, R551). -/
def lengthsOk : Instr → Bool
  | .flitSend _ _ _ _ body => body.length ≤ 240
  | .flitReceive _ f _ => f.body.length == 240
  | .controlFlitReceive _ f _ => f.cred.length == 4 && f.ack.length == 4 && f.ts.length == 4
  | .sessionOpenRequest _ _ ek n => ek.length == 1184 && n.length == 32
  | .sessionOpenConfirm _ _ sig => sig.length == 2420
  | .attestation _ n => n.length == 32
  | _ => true

/-- Numbers within the fields that carry them: log entries' units, gather requests, orders. -/
def rangesOk : Instr → Bool
  | .gatherLineComplete _ i => i < 16
  | .descriptorComplete (.core _ k) => k < 4
  | .tabLoadRequest pos n => pos < n && n ≤ 4096
  | _ => true

end WellFormed

/-- A well-formed command. -/
def Instr.wf (i : Instr) : Bool := WellFormed.slotOk i && WellFormed.lengthsOk i && WellFormed.rangesOk i

end Sys2Proof
end

