-- ==== Sys2Proof/Tests/Slice0.lean ====
section
/-!
SUPPORT. Small tests: commands that the checks of WellFormed refuse, values that the spec works out, and, for each statement that has
hypotheses, states and operands that meet them, clause by clause.
-/
set_option Elab.async false
namespace Sys2Proof.Tests
open Sys2Proof.Machine Sys2Proof.Safety

/-! Helpers. -/

def c0 : CoreId := ⟨0, 0, 0⟩
def b0 : BenchId := ⟨0, 0⟩
def p0 : PortId := ⟨0, 0⟩
def ch0 : ChanId := ⟨0, 0⟩
def rq0 : Rq := ⟨0, 1, 1, 0, []⟩
def img0 : ImageSlot := ⟨true, [], [], []⟩
/-- A bundle with one operation in slot `k`. -/
def slotB (k op rest : Nat) : Bundle := BitVec.ofNat 128 ((2 ^ 26 * op + rest) * 2 ^ (32 * k))
/-- Die 0 has its four spare benches free; the image would say so in DIE_BENCH_SPARE (R482). -/
def free0 : Nat × Word64 := (dieKey 0 0x100, 0xffffffffff)
def base : State := { csr := [free0] }
/-- A state in which core 0 alone holds something. -/
def onCore (x : CoreState) : State := { csr := [free0], cores := [(0, x)] }
/-- Core 0 issues the bundle in cycle 0. -/
def issuing (b : Bundle) : CoreState := { cur := some b, lastCycle := some 0 }

/-! Well-formed commands: for each check one that it refuses, and one that it accepts. -/

/-- An ADDI command over a bundle whose scalar slot holds SNOP. -/
theorem test_wf_slot : (Instr.addi c0 0).wf = false ∧ (Instr.addi c0 (slotB 0 2 0)).wf = true := by decide
/-- A nonce of 31 bytes (R551). -/
theorem test_wf_length : (Instr.attestation rq0 (List.replicate 31 0)).wf = false ∧
    (Instr.attestation rq0 (List.replicate 32 0)).wf = true := by decide
/-- A core has 16 outstanding gather lines at most (R612). -/
theorem test_wf_range : (Instr.gatherLineComplete c0 16).wf = false ∧ (Instr.gatherLineComplete c0 15).wf = true := by decide
theorem test_wf_position : (Instr.tabLoadRequest 4 4).wf = false ∧ (Instr.tabLoadRequest 3 4).wf = true := by decide

/-! Values that the spec works out. -/

/-- The bundle of the worked example in section 03: ADDI s5, s5, 64; VARITH of a7 and v0 into v2; LDV v9, [s5 + 2 × 64]. -/
theorem test_worked_bundle : let b : Bundle := 0x049280020421C0800000000008A50040#128
    illegalSlot b = [] ∧ slotOp (slotWord b 0) = 2 ∧ fSd (slotWord b 0) = 5 ∧ fSa (slotWord b 0) = 5 ∧ fImm16 (slotWord b 0) = 64 ∧
    slotWord b 1 = 0 ∧ slotOp (slotWord b 2) = 1 ∧ fVd (slotWord b 2) = 2 ∧ fA (slotWord b 2) = true ∧ fVa (slotWord b 2) = 7 ∧
    fVb (slotWord b 2) = 0 ∧ slotOp (slotWord b 3) = 1 ∧ fReg (slotWord b 3) = 9 ∧ fMemSa (slotWord b 3) = 5 ∧
    fImm15 (slotWord b 3) = 2 := by decide
/-- The CSR addresses of section 00 and of section 18. -/
theorem test_worked_csr_address : keyAddr (benchKey ⟨5, 37⟩ 0x100) = 0xFF0525800100 ∧ addrMode 0xFFBFFFFE0100 = 2 ∧
    addrMode 0xFF7F07800400 = 1 := by decide
/-- The digest hash of two words that R412 works out. -/
theorem test_worked_hash : hashBytes 2 0 (leBytes 8 1 ++ leBytes 8 2) = 0x3c6ef372fe94f868 := by decide

/-- The columns that section 19 works out, and the groups of R600: control, VAON, VIN48 and GND columns. -/
theorem test_worked_columns : (chanSignals.getD 3 []).getD 5 "" = "CS_B" ∧ chanColumn 4 37 3 5 = (59, 76) ∧ trayPackage 4 37 = 65 ∧
    mgtColumn 0 148 = .control "PWROK" ∧ mgtPlace 0 148 = (136, 9) ∧
    [MgtColumn.vaon, .vin48, .gnd].map (fun c => ((List.range 928).countP fun q => mgtColumn 0 q == c) + (List.range 928).countP fun q => mgtColumn 1 q == c) =
      [8, 160, 1261 - 6 * ((List.range 44).map fun u => (List.range 58).countP (hubGnd u)).sum] ∧
    (ctrlSignals 0).length + (ctrlSignals 1).length = 31 := by decide +kernel

/-! States that meet the hypotheses of the statements, clause by clause. -/

/-- Core 0 of bench 0 issues one operation in slot `k`, with s1 = `r`. -/
def iss1 (k op rest : Nat) (r : Word64) : State := onCore { issuing (slotB k op rest) with sregs := [(1, r)] }
theorem iss1_ok (k op rest : Nat) (r : Word64) :
    Issuing c0 (slotB k op rest) k (iss1 k op rest r) ∧ Clean c0 (iss1 k op rest r) := ⟨⟨rfl, rfl, rfl⟩, rfl, rfl, rfl, rfl⟩
theorem test_hyp_idle : State.reset.pending = [] ∧ MemInv State.reset ∧ ∃ t, step State.reset = .next t := ⟨rfl, rfl, _, rfl⟩

theorem test_hyp_nop (k : Nat) : Issuing c0 (slotB k 0 0) k (iss1 k 0 0 0) ∧ (k < 4 → slotOp (slotWord (slotB k 0 0) k) = 0) :=
  ⟨(iss1_ok k 0 0 0).1, fun h => (by decide : ∀ k < 4, slotOp (slotWord (slotB k 0 0) k) = 0) k h⟩

/-- A running core between two bundles. -/
def running : CoreState := { running := true, valid0 := true }
theorem running_ready (x : CoreState) (h : x.running = true ∧ x.hold = .none ∧ x.region = none ∧ x.lastCycle = none ∧ x.results = [] ∧
    x.valid x.nextIdx = true) : Ready c0 (onCore x) where
  running := h.1
  there := ⟨rfl, (by decide : base.benchFenced b0 = false)⟩
  inRun := ⟨rfl, rfl⟩
  free := ⟨h.2.1, h.2.2.1⟩
  later := by intro l hl; exact absurd (h.2.2.2.1.symm.trans hl) (by simp)
  unfreed := .inl rfl
  intact := fun e he => absurd he (List.not_mem_nil)
  settled := ⟨h.2.2.2.2.1, rfl, rfl, rfl⟩
  filled := h.2.2.2.2.2
/-- No branch and no loop; a branch; a loop whose end this is, with one iteration left; a loop whose end this is not. -/
theorem test_hyp_issue :
    let l : LoopRec := ⟨0, 0, 1⟩
    let m : LoopRec := ⟨0, 5, 1⟩
    ∀ x ∈ [running, { running with branch := some 511 }, { running with loops := [l] }, { running with loops := [m] }],
      Ready c0 (onCore x) ∧ illegalSlot 0 = [] ∧ (onCore x).dynamicIllegal c0 0 x.nextIdx = [] ∧ x.stalled 0 = false ∧ slotOp (slotWord 0 0) = 0 := by
  intro l m x hx
  refine ⟨running_ready x ?_, ?_⟩ <;> revert x <;> decide
theorem test_hyp_illegal : ∀ k ∈ [0, 3], ∃ b, Ready c0 (onCore running) ∧ running.faulted = false ∧
    illegalSlot b ++ (onCore running).dynamicIllegal c0 b 0 = [k] :=  by
  intro k hk
  exact ⟨slotB k 0x3f 0, running_ready _ (by decide), rfl, by revert k; decide +kernel⟩

theorem test_hyp_scalar : ∀ op ∈ [1, 2, 3, 4, 5, 6, 7, 0xa], Issuing c0 (slotB 0 op 0) 0 (iss1 0 op 0 0) ∧
    slotOp (slotWord (slotB 0 op 0) 0) = op := by
  intro op h
  exact ⟨(iss1_ok 0 op 0 0).1, by revert op; decide⟩
/-- Functions 0x00d, 0x010 and 0x012 are in the table, 0x00e, 0x00f and 0x013 are not (R92). -/
theorem test_hyp_salu : (∀ f ∈ [0x00d, 0x010, 0x012], 0 ∉ illegalSlot (slotB 0 1 f)) ∧ (∀ f ∈ [0x00e, 0x00f, 0x013], 0 ∈ illegalSlot (slotB 0 1 f)) := by
  decide +kernel
/-- Conditions 0 and 6; a loop of count 0 and of count 1. -/
theorem test_hyp_branch : let w := fun q : Nat => slotWord (slotB 0 8 (0x2000 * q)) 0
    let l := slotWord (slotB 0 9 0x200000) 0
    (∀ q ∈ [0, 6], slotOp (w q) = 8) ∧ fCond (w 0) = 0 ∧ fCond (w 6) = 6 ∧ slotOp l = 9 ∧
    ((iss1 0 9 0x200000 0).core c0).s (fBsa l) = 0 ∧ ((iss1 0 9 0x200000 1).core c0).s (fBsa l) ≠ 0 := by
  decide +kernel
/-- A scalar register, s0, and a vector register are due in the present cycle. -/
theorem test_hyp_writeback (d : Dst) (_ : d = .s 31 ∨ d = .s 0 ∨ d = .v 63) : let r : Result := ⟨0, 0, d, 1, false, false⟩
    ((onCore { results := [r] }).core c0).results = [r] ∧ (onCore { results := [r] }).now ≤ r.due := ⟨rfl, Nat.le_refl 0⟩

/-- The last unit of local store, and the first address above it; a mask word at 0xfff8; tiles at ages 3 and 4. -/
theorem test_hyp_matrix :
    let wide := { iss1 1 1 (0x200000) 0xff80 with csr := [(benchKey b0 0x200, 1)] }
    let a := fun (s : State) (op : Nat) => ((s.core c0).s (fMsa (slotWord (slotB 1 op (0x200000)) 1))).toNat
    (∀ op ∈ [1, 2, 3, 4], slotOp (slotWord (slotB 1 op (0x200000)) 1) = op) ∧
    (iss1 1 1 (0x200000) 0xffc0).arrayMode b0 ≠ 1 ∧ a (iss1 1 1 (0x200000) 0xffc0) 1 = 0xffc0 ∧ a (iss1 1 2 (0x200000) 0xffc0) 2 = 0xffc0 ∧
    Issuing c0 (slotB 1 1 (0x200000)) 1 wide ∧ wide.arrayMode b0 = 1 ∧ fMfmt (slotWord (slotB 1 1 (0x200000)) 1) ≤ 1 ∧ a wide 1 = 0xff80 ∧
    a (iss1 1 4 (0x200000) 0xfff8) 4 = 0xfff8 ∧ a (iss1 1 4 (0x200000) 0x10000) 4 = 0x10000 ∧ a (iss1 1 1 (0x200000) 1) 1 = 1 ∧
    (∃ tile : Tile, ({ staged := some (0, tile) } : CoreState).staged = some (0, tile)) ∧
    Clean c0 (onCore { results := [⟨0, 9, .wide 64, 0, false, false⟩], staged := some (0, ⟨0, true, 0, false⟩) }) := by
  and_intros
  all_goals first | exact rfl | exact ⟨⟨0, false, 0, false⟩, rfl⟩ | decide +kernel
/-- Core 0 is a feeder of row 0, core 1 is not; the vote of the last core makes 64. A step whose results are due now. -/
theorem test_hyp_array :
    let s := iss1 1 3 (0x200000) 0xffc0
    let v : Nat → MVote := fun n => ⟨n, 0, 0, false, true, false, 0, false, none, 0, false, 0, false⟩
    isFeeder (stepKind (s.arrayMode b0) false) (s.feed b0) 0 = true ∧ isFeeder (stepKind (s.arrayMode b0) false) (s.feed b0) 1 = false ∧
    (insertMVote [] (v 0)).length ≠ 64 ∧ (insertMVote ((List.range 63).map fun n => v (n + 1)) (v 0)).length = 64 ∧
    ∃ (s : State) (r : StepRec), (s.bench b0).mvotes = [] ∧ (s.bench b0).rvotes = [] ∧ (s.bench b0).steps = [r] ∧ s.now ≤ r.issue + 7 ∧
      r.fault = true ∧ ∃ n ∈ r.receivers, ∃ w, voteAt r.votes n = some w := by
  let v0 : MVote := ⟨0, 0, 0, false, true, false, 0, false, none, 0, false, 0, false⟩
  refine ⟨by decide, by decide, by decide, by decide, { now := 7, benches := [(0, { steps := [⟨0, 0, 0, 0, [v0], true, [], none⟩] })] }, _, rfl, rfl, rfl, by decide, rfl, ?_⟩
  exact ⟨0, by decide +kernel, v0, rfl⟩

/-- A tab image for `n` modules, as position `pos` receives it, from fields (offset, bytes, value), rising: two segments of 1000 ns of work in section 0x5, and sections of
given type, offset and length. -/
def tabOf (n pos : Nat) (secs : List (Nat × Nat × Nat)) (body : List (Nat × Nat × Nat)) : TabImage :=
  let table := (secs.zipIdx.map fun p => [(0x140 + 64 * p.2, 2, p.1.1), (0x142 + 64 * p.2, 2, pos), (0x148 + 64 * p.2, 8, p.1.2.1),
    (0x150 + 64 * p.2, 8, p.1.2.2)]).flatten
  let fs := [(0x0a, 2, n), (0x0c, 4, 2), (0x10, 8, 4000), (0x18, 4, 1 + secs.length), (0x20, 8, 0x100), (0x28, 1, 1), (0x60, 8, 7),
    (0x100, 2, 5), (0x108, 8, 0x200), (0x110, 8, 32)] ++ table ++
    [(0x205, 3, 1000), (0x208, 3, 1000), (0x210, 5, 2000), (0x215, 3, 1000), (0x218, 4, 0x80003e8)] ++ body
  ⟨(fs.map fun f => (leBytes f.2.1 f.2.2).zipIdx.map fun p => (f.1 + p.2, p.1)).flatten, 0x1000⟩
def tabWith (ty len : Nat) (body : List (Nat × Nat × Nat)) : TabImage := tabOf 1 0 [(ty, 0x400, len)] body
/-- The state with that tab loaded and the job in its first step. -/
def inTab (g : TabImage) (s : State) : State := { s with tab := { s.tab with loaded := some g }, job := { s.job with inStep := true } }
def tab0 : TabImage := tabWith 0 0 []
theorem test_tab0 : (segOf tab0 0).map Seg.work = some 1000 ∧ (segOf tab0 1).map Seg.stepEnd = some true ∧ hdrSegments tab0 = 2 := by
  decide +kernel

theorem test_hyp_vector3 : ∀ op ∈ [2, 3, 4, 6, 0x10, 0xc], Issuing c0 (slotB 2 op 0) 2 (iss1 2 op 0 0) ∧
    slotOp (slotWord (slotB 2 op 0) 2) = op := by
  intro op h
  exact ⟨(iss1_ok 2 op 0 0).1, by revert op; decide⟩
/-- Operations of two sources, and those functions that read one. -/
theorem test_hyp_vector2 : ∀ p ∈ [(1, 6), (1, 7), (1, 8), (5, 0), (5, 10), (8, 3), (8, 4), (9, 6), (9, 7), (0xd, 0), (0xe, 0)],
    let w := slotWord (slotB 2 p.1 p.2) 2
    Issuing c0 (slotB 2 p.1 p.2) 2 (iss1 2 p.1 p.2 0) ∧ slotOp w = p.1 ∧ fFn w = p.2 := by
  intro p h
  exact ⟨(iss1_ok 2 p.1 p.2 0).1, by revert p; decide⟩
/-- An element target and a block target, a reduction in a core and on the ring, a scan in a core, a program that ends well, and one whose
first step is reserved. -/
theorem test_hyp_convert :
    let w := fun op r => slotWord (slotB 2 op r) 2
    isBlockTarget (fTgt (w 7 0)) = false ∧ fRnd (w 7 0) ≠ 2 ∧ isBlockTarget (fTgt (w 7 0x1000)) = true ∧
    fFn (w 0xa 7) / 8 = 0 ∧ fFn (w 0xa 8) / 8 ≠ 0 ∧ ((iss1 2 0xa 8 0).bench b0).rvotes = [] ∧ (fFn (w 0xb 7)).testBit 3 = false ∧
    slotOp (w 0xf 0) = 0xf ∧ (sfsRun {} 0 0 0 false 0 0 0).fault = false ∧
    (sfsRun { sfsWords := [(0, 0xf0000000)] } 0 0 0 false 0 0 0).fault = true := by
  and_intros <;> decide +kernel

/-- The last bytes of local store, the first address above it, a misaligned one, and a poisoned one. -/
theorem test_hyp_local_store :
    let w := fun op => slotWord (slotB 3 op 0x8000) 3
    (∀ op ∈ [1, 2, 3, 4], slotOp (w op) = op ∧ fMemSa (w op) = 1 ∧ fImm15 (w op) = 0) ∧
    (∀ a ∈ [(0xffc0, 64), (0xfff8, 8)], a.1 < 0x10000 ∧ a.1 % a.2 = 0) ∧ ¬ ((0x10000 : Nat) < 0x10000 ∧ 0x10000 % 64 = 0) ∧
    (({ issuing (slotB 3 2 0x8000) with bad := [1] } : CoreState).pz 1 = true) ∧ (issuing (slotB 3 2 0x8000)).pz 1 = false ∧
    (∀ r : Word64, Issuing c0 (slotB 3 1 0x8000) 3 (iss1 3 1 0x8000 r) ∧ Clean c0 (iss1 3 1 0x8000 r)) := by
  and_intros <;> first | decide +kernel | exact fun r => iss1_ok 3 1 0x8000 r
/-- The last store of local store, with a value and poisoned. -/
theorem test_hyp_store : ∀ p : Bool, let r : Result := ⟨0, 3, .store 0xffc0 64, 0, p, false⟩
    MemInv (onCore { results := [r] }) ∧ ((onCore { results := [r] }).core c0).results = [r] ∧ 0xffc0 + 64 ≤ 0x10000 := by
  intro p
  exact ⟨rfl, rfl, by decide⟩

/-- TFILL of both halves; WAITU; DEADLINE; ECLOSE in an open region; SEGEND before and at the segment's length; PLUCK; PARK. -/
theorem test_hyp_sync :
    let w := fun op => slotWord (slotB 3 op 0x2000000) 3
    let r : Region := ⟨8, 0, 0, false, false, [], []⟩
    (∀ op ∈ [0xa, 0x20, 0x21, 0x22, 0x23, 0x24, 0x25], slotOp (w op) = op) ∧ fHalf (w 0xa) = 1 ∧ fHalf (slotWord (slotB 3 0xa 0) 3) = 0 ∧
    (issuing 0).pz (fFillS (w 0xa)) = false ∧ (issuing 0).hold = .none ∧
    ((onCore { issuing 0 with region := some r }).core c0).region = some r ∧
    (let s := inTab tab0 State.reset
     s.now < s.job.segStart + s.segLength ∧ ∀ t : State, t = { s with now := s.segLength } → t.job.inStep = true ∧
      t.job.segStart + t.segLength ≤ t.now) ∧
    ({ csr := [free0, (mgtKey 0x40, 0)] } : State).benchPhys 0 175 = some ⟨0, 175⟩ ∧ (State.reset.bench b0).lastPluck ≠ some 0 := by
  and_intros
  all_goals first | decide +kernel | (rintro t rfl; exact ⟨rfl, by decide +kernel⟩)
theorem read_intact (r : Option (Nat × Nat) × List Byte × Bool × State) (h : r.1 = none ∧ r.2.2.1 = false) :
    ∃ bs s', r = (none, bs, false, s') := by
  obtain ⟨a, bs, p, s'⟩ := r
  obtain ⟨rfl, rfl⟩ := h
  exact ⟨bs, s', rfl⟩
/-- A bundle at index 3 that closes a region. -/
def closing : CoreState := { valid0 := true, tb := [(3, slotB 3 0x22 0)] }
/-- WAITU; a closed and an open region at its deadline; the second half of a fill whose page is cached. -/
theorem test_hyp_waits :
    let r : Region := ⟨8, 0, 0, true, false, [], []⟩
    ((onCore { hold := .waitu 5 }).core c0).hold = .waitu 5 ∧ ((onCore { hold := .waitu 5 }).bench b0).power = 0 ∧
    ((onCore { region := some r }).core c0).region = some r ∧ r.closed = true ∧ r.bad = false ∧
    ((onCore { closing with region := some { r with closed := false } }).core c0).findOp 0 0x22 = some 3 ∧
    let s := onCore { fill1 := some 0, tlb := [⟨0, 4096, 0x7⟩] }
    (s.core c0).fill1 = some 0 ∧
    ∃ bs s', (s.updCore c0 fun y => { y with fill1 := none }).xread (.slot c0) 0 4096 = (none, bs, false, s') := by
  refine ⟨rfl, rfl, rfl, rfl, rfl, by decide +kernel, rfl, read_intact _ (by decide +kernel)⟩

theorem pairedOk {r : Except Nat Nat × State} {k : Nat} {p : State → Prop} (h : r.1.toOption = some k) (hp : p r.2) :
    ∃ s', r = (.ok k, s') ∧ p s' := by
  obtain ⟨e, s'⟩ := r
  cases e with
  | error _ => exact absurd h (by simp [Except.toOption])
  | ok a => exact ⟨s', by simp only [Except.toOption, Option.some.injEq] at h; rw [h], hp⟩
/-- Bytes from fields (offset, bytes, value) at a place; no field byte is 0. -/
def cellsAt (base : Nat) (fs : List (Nat × Nat × Nat)) : List Host.Cell :=
  (fs.map fun f => (leBytes f.2.1 f.2.2).zipIdx.map fun p => (base + f.1 + p.2, p.1)).flatten
/-- The page at 0, readable and writable, at LPDDR6 address 0; the same at the scratch of bench 0. -/
def page0 : Tlb := ⟨0, 4096, 0x7⟩
def pageS : Tlb := ⟨0, 4096, 0x800000000007⟩
/-- Logical die 0 is physical die 0. -/
def map0 : NMap Word64 := [free0, (mgtKey 0x40, 0)]

/-- LDC and STC of a line whose page is cached; a line in L1; a load that is ready, with a result due when the core goes on; a store to the
last line of the page. -/
theorem test_hyp_elastic :
    let s := fun op => { iss1 3 op 0x8000 0xfc0 with benches := [(0, { tlb := [page0] })] }
    let w := fun op => slotWord (slotB 3 op 0x8000) 3
    (∀ op ∈ [6, 7], slotOp (w op) = op ∧ fMemSa (w op) = 1) ∧ Issuing c0 (slotB 3 6 0x8000) 3 (s 6) ∧ ((s 7).core c0).pz 1 = false ∧
    (∃ s', (took (s 6) c0 3).elasticKey c0.benchId 0xfc0 false = (.ok 0xfc0, s') ∧ ∀ e ∈ s'.errs, e.1 ≠ .l1 c0) ∧
    (∃ s', (took (s 7) c0 3).elasticKey c0.benchId 0xfc0 true = (.ok 0xfc0, s') ∧ s'.errs = []) ∧
    (cacheTouch [(l1Set 63, [(63, 5)])] (l1Set 63) 63).1 = some 5 ∧
    (let w : CacheWait := ⟨true, 63, 0xfc0, 0, 5, false, true⟩
     let x : CoreState := { wait := some w, lastCycle := some 0, results := [⟨4, 0, .v 1, 0, false, false⟩] }
     ((onCore x).core c0).wait = some w ∧ ∀ r ∈ x.results, max 0 (x.lastCycle.getD 0 + 4) ≤ r.due) ∧
    (let w : CacheWait := ⟨false, 63, 0xfc0, 0, 0, false, true⟩
     let t := onCore { wait := some w }
     (t.core c0).wait = some w ∧ MemInv t ∧ (t.keyOf (t.addrOf w.addr)).isSome = true ∧ t.retireTwin w.addr = none) := by
  and_intros <;> first | decide +kernel | exact rfl | exact ⟨rfl, rfl, rfl⟩ | exact pairedOk (by decide +kernel) (by decide +kernel)

/-- GSTR of a descriptor of one row at the last place of local store; GWAIT of a stream that runs and of one that does not. -/
theorem test_hyp_gather_start :
    let s := { iss1 3 8 0x80000 0xffc0 with mem := cellsAt (lsKey c0 0xffc0) [(0x10, 1, 64), (0x15, 1, 1), (0x1c, 1, 1)] }
    Issuing c0 (slotB 3 8 0x80000) 3 s ∧ Clean c0 s ∧ slotOp (slotWord (slotB 3 8 0x80000) 3) = 8 ∧
    (s.core c0).pz 1 = false ∧ fGstrS (slotWord (slotB 3 8 0x80000) 3) = 1 ∧ 0xffc0 + 64 ≤ 0x10000 ∧ gatherCheck 0xffc0 (lsValue s c0 0xffc0 64) = 0 ∧
    slotOp (slotWord (slotB 3 9 0) 3) = 9 := by
  and_intros <;> first | decide +kernel | exact ⟨rfl, rfl, rfl⟩ | exact ⟨rfl, rfl, rfl, rfl⟩
/-- The 16th line of a core, of a table in scratch and of one in LPDDR6; a line whose data is there, and one that meets a pending line. -/
theorem test_hyp_gather_lines :
    let g : GStream := ⟨true, 1, 0, 64, 1, 0, 0, 1, 0, 0⟩
    let q : GReq := ⟨0, 0, 0, 0, true, 7, false⟩
    let x : CoreState := { streams := [(0, g)], greqs := List.replicate 15 { q with stream := 1 } }
    let s := fun page : Tlb => ({ cores := [(0, x)], csr := map0, benches := [(0, { tlb := [page] })] } : State)
    let u := fun page => (s page).updCore c0 fun x => { x with grot := 0, streams := nset x.streams 0 { g with next := 1 } }
    (∀ p : Tlb, Clean c0 (s p) ∧ (s p).ctr = [] ∧ (s p).core c0 = x) ∧ x.greqs.length < 16 ∧ x.nextStream = some 0 ∧ nget? x.streams 0 = some g ∧
    (∃ s', (u pageS).elasticKey b0 0 false = (.ok 0x800000000000, s') ∧ s'.poison = [] ∧ s'.errs = []) ∧
    (∃ s', (u page0).elasticKey b0 0 false = (.ok 0, s') ∧ (s'.partLookup b0 0).1 = none ∧ (s'.bench b0).missRegs.length < 64) ∧
    (let t := onCore { streams := [(0, g)], greqs := [q] }
     (t.core c0).greqs[0]? = some q ∧ nget? (t.core c0).streams q.stream = some g ∧ g.dst + 64 * q.num + 64 ≤ 0x10000 ∧ MemInv t ∧
       t.marked c0 0 = false) ∧
    (onCore { streams := [(0, g)], greqs := [q], marks := [(0, 5)] }).marked c0 0 = true := by
  and_intros <;> first | decide +kernel | exact rfl | exact pairedOk (by decide +kernel) (by decide +kernel) | exact fun p => ⟨⟨rfl, rfl, rfl, rfl⟩, rfl, rfl⟩
/-- The one queued miss of die 0; a run-ahead of the partition and one of an L1 with 48 miss registers in use. -/
theorem test_hyp_miss :
    let w : CacheWait := ⟨true, 1, 64, 0, 0, false, false⟩
    let m : MissReg := ⟨1, 64, 0⟩
    let s : State := { cores := [(0, { wait := some w })], benches := [(0, { missRegs := [m] })], hubs := [(0, { misses := [(0, [(0, 0, 1)])] })] }
    let r : Region := ⟨8, 0, 0, false, false, [], []⟩
    let t := fun (y : CoreState) (ahead : List (Nat × Bool)) =>
      ({ cores := [(0, { y with region := some r })], benches := [(0, { runAhead := ahead, missRegs := List.replicate 48 m })] } : State)
    s.chanFreed ch0 = false ∧ s.startGiven ch0 (.miss 0) = true ∧
    nget (s.hub 0).misses 0 [] = [(0, 0, 1)] ∧ (s.bench b0).missRegs = [m] ∧ (s.core c0).wait = some w ∧
    (t {} [(5, true)]).regionOpen b0 = true ∧ ((t {} [(5, true)]).bench b0).runAhead.contains (5, true) = true ∧
    (∀ i : Fin 64, ((t {} [(5, true)]).core (b0.coreAt i)).runAhead.contains (5, true) = false) ∧
    (let y := t { runAhead := [(5, true)] } []
     y.regionOpen b0 = true ∧ (y.bench b0).runAhead.contains (5, true) = false ∧
       ∀ j : Fin 64, (y.core (b0.coreAt j)).runAhead.contains (5, true) = decide (j = 0)) := by
  and_intros <;> decide +kernel

/-- A FILL descriptor of one position, which R293 accepts at WORK above its deadline; an empty one is malformed; the last place of local
store is 0xff40; a swap that is waited for. -/
def fill1 : List (Nat × Nat × Nat) := [(0, 4, 0x0a083010), (0x4b, 1, 1)]
theorem test_hyp_descriptor :
    let s := fun r fs => inTab tab0 { iss1 3 5 0x200000 r with mem := cellsAt (lsKey c0 r.toNat) fs }
    let w := slotWord (slotB 3 5 0x200000) 3
    let d := fun r fs => parseDesc (BitVec.ofNat 1536 (lsValue (s r fs) c0 r.toNat 192))
    Issuing c0 (slotB 3 5 0x200000) 3 (s 0xff40 fill1) ∧ Clean c0 (s 0xff40 fill1) ∧ slotOp w = 5 ∧ fDissS w = 1 ∧
    (d 0xff40 fill1).check false false (s 0xff40 fill1).workCycles = 0 ∧ (d 0xff40 fill1).empty = false ∧
    (d 0 []).check false false (s 0 []).workCycles ≠ 0 ∧ (0xff40 : Nat) % 64 = 0 ∧ ¬ (0xff80 ≤ 0xff40) ∧
    (s 0xff40 fill1).swapHolds = false ∧ ({ csr := [(mgtKey 0x150, 2)] } : State).swapHolds = true := by
  and_intros <;> first | decide +kernel | exact ⟨rfl, rfl, rfl⟩ | exact ⟨rfl, rfl, rfl, rfl⟩
/-- The descriptor of a core before its deadline and at it, one that is marked late, that of an engine with nothing in flight, before its
deadline and at it, and one with a request left. -/
theorem test_hyp_complete :
    let n := fun fs => BitVec.ofNat 1536 (leNat ((List.range 192).map fun i => memGet (cellsAt 0 fs) i))
    let rec' : BitVec 1536 := n fill1
    let s := inTab tab0 { cores := [(0, { descs := [(rec', false)] })] }
    let d := parseDesc rec'
    let r := fun late => (s.updCore c0 fun x => { x with descs := x.descs.eraseIdx 0 }).runDesc (coreMover c0) d late
    let e : BitVec 1536 := n [(0, 4, 0x0a003010), (0x4b, 1, 1)]
    let g : Engine := ⟨e, [], 0, false⟩
    let t := inTab tab0 { hubs := [(0, { engines := [(15, g)], tlb := [page0] })] }
    let q := fun late => (t.updHub 0 fun x => { x with engines := nerase x.engines 15 }).runDesc (hubMover 0)
      { parseDesc e with deadline := 2 * (parseDesc e).deadline } late
    (s.core c0).descs[0]? = some (rec', false) ∧ s.cyc b0 < d.deadline ∧ d.deadline ≤ ({ s with now := d.deadline } : State).cyc b0 ∧
    s.unreadySlot d = none ∧ (∀ late, (r late).1 = none ∧ (r late).2.1 = 0) ∧ (s.core c0).landQ = [] ∧ (s.core c0).parked = false ∧
    nget? (t.hub 0).engines 15 = some g ∧ t.now < t.job.segStart + 2 * (parseDesc e).deadline ∧ t.unreadySlot (parseDesc e) = none ∧
    (∀ late, (q late).1 = none) ∧ { g with todo := [0] }.todo ≠ [] := by
  and_intros <;> first | decide +kernel | exact ⟨rfl, rfl, rfl⟩ | exact ⟨rfl, rfl, rfl, rfl⟩
/-- A landing queue that is empty and one that holds 16 lines; a line before its deadline, at it, and one that meets a pending line; a mark to
clear; a descriptor whose deadline is to come. -/
theorem test_hyp_landing :
    let s : State := { now := 7 }
    let m := onCore { marks := [(1023, 8)] }
    let d := onCore { descs := [(0, false)] }
    (s.core c0).landQ = [] ∧ (s.core c0).landFrom ≤ s.now ∧ s.marked c0 1023 = false ∧ s.cyc b0 < 8 ∧ 7 ≤ s.cyc b0 ∧ MemInv s ∧
    m.marked c0 1023 = true ∧ (m.core c0).descs = [] ∧ nget? (m.core c0).marks 1023 = some 8 ∧
    ((onCore { landQ := List.replicate 16 ⟨0, 1, 2, 9, false⟩ }).core c0).landQ.length = 16 ∧ (∀ e ∈ m.myLinks.zipIdx, m.awaits e = false) ∧
    (∀ e ∈ d.myLinks.zipIdx, d.awaits e = false) ∧ (d.core c0).descs = [(0, false)] ∧ nget? (d.core c0).marks 1023 = none := by
  and_intros <;> first | decide +kernel | exact rfl
/-- A descriptor that R293 accepts for an engine, in no slot table. -/
def copyOne : BitVec 1536 := BitVec.ofNat 1536 (leNat ((List.range 192).map fun i => memGet (cellsAt 0 [(0, 4, 0x0a003010), (0x4b, 1, 1)]) i))
/-- A start that no slot table names, on a free engine, with a descriptor that R293 accepts and with one it refuses; a table that names this
start and one that names another; a swap that is waited for. -/
theorem test_hyp_copy_start :
    let s := inTab tab0 { hubs := [(0, { tlb := [page0] })] }
    let t := inTab (tabWith 0x4 216 [(0x400, 2, 2), (0x404, 4, 216), (0x40c, 4, 9), (0x411, 1, 3)]) {}
    s.copyEntry 5 = none ∧ s.swapHolds = false ∧ s.freedNow (hubUnit 0) = false ∧ nget? (s.hub 0).engines 3 = none ∧
    (parseDesc copyOne).check false true s.workFabric = 0 ∧ (parseDesc copyOne).empty = false ∧ (s.myRegions.all fun g => g.home != 0) = true ∧
    (s.requests 0 (parseDesc copyOne)).1.head? ≠ some 400 ∧ (parseDesc 0).check false true s.workFabric ≠ 0 ∧ (s.hub 0).copyFaulted = false ∧
    t.copyEntry 0 = some (9, 0, 3, 0) ∧ ¬ (0 = (0 : Hub).val ∧ (3 : Nat) = (2 : Fin 16).val ∧ (0 : BitVec 1536) = 0) ∧
    ({ csr := [(mgtKey 0x150, 2)] } : State).swapHolds = true := by
  and_intros <;> decide +kernel
/-- A channel that the table gives to copies, to nobody, and to another use; a request that completes; a debt of 7 and of less. -/
theorem test_hyp_copy_channel :
    let g : Engine := ⟨copyOne, [0], 0, false⟩
    let t : State := { hubs := [(0, { engines := [(0, g)], tags := [(4095, 1)], debt := [(111, 7)] })] }
    let u : State := { hubs := [(0, { engines := [(0, ⟨0, [], 1, false⟩)], tags := [(4095, 0)] })] }
    t.chanFreed ch0 = false ∧ t.startGiven ch0 (.copy 0) = true ∧ (inTab tab0 t).startGiven ch0 (.copy 0) = false ∧
    (inTab tab0 t).startGiven ch0 .free = true ∧ nget? (t.hub 0).engines 0 = some { g with todo := ch0.key :: [] } ∧ (t.hub 0).freeTag = some 0 ∧
    nget? (u.hub 0).tags 4095 = some 0 ∧ (∀ p ∈ (u.hub 0).engines, p.2.todo = []) ∧
    nget (t.hub 0).debt (2 * 55 + 1) 0 = 7 ∧ nget (t.hub 0).debt 0 0 ≠ 7 ∧ (t.hub 0).dramFaulted = false := by
  and_intros <;> decide +kernel
/-- The tables of the page at 0, at 0x1000 and 0x2000, with the root at 0; an active and an inactive root; a swap with nothing in flight. -/
theorem test_hyp_translation :
    let s : State := { mem := cellsAt 0 [(0, 2, 0x1001), (0x1000, 2, 0x2001), (0x2000, 1, 0x07)], csr := [(mgtKey 0x150, 6)] }
    let t := State.reset
    s.xlatInstalled = true ∧ (s.tlbOf (.hub 0)).find? (tlbHas 0) = none ∧ s.xlatActive = 0 ∧
    (s.tableWord (s.xlatRoot s.xlatActive + 8 * bitsOf 0 47 34)).1 = some 0x1001 ∧ entryBad 0x1001 false = false ∧
    (s.tableWord (entryTarget 0x1001 + 8 * bitsOf 0 33 21)).1 = some 0x2001 ∧ entryBad 0x2001 true = false ∧ (0x2001).testBit 5 = false ∧
    (s.tableWord (entryTarget 0x2001 + 8 * bitsOf 0 20 12)).1 = some 7 ∧ entryBad 7 false = false ∧
    s.fld (mgtKey 0x150) 1 1 = 1 ∧ s.tabState ≠ tabRunning ∧ s.idleTransfers = true ∧ t.xlatInstalled = false := by
  and_intros <;> decide +kernel

theorem someGet {α : Type} {o : Option α} (d : α) (h : o.isSome = true) : o = some (o.getD d) := by
  cases o with
  | none => exact absurd h (by simp)
  | some a => rfl
theorem someAny {α : Type} {o : Option α} {p : α → Bool} (h : o.any p = true) : ∃ a, o = some a ∧ p a = true := by
  cases o with
  | none => exact absurd h (by simp)
  | some a => exact ⟨a, rfl, h⟩
def desc0 : StepDesc := ⟨1, false, 0, false, 100000, 0, 7, 5⟩
/-- Bench 0 in step 1 with a pass commanded, its work list at scratch 0, the value record at 0x40, NOUT at 0x8000 and NIN at 0x9000. -/
def dresser (cmd : Nat) (more : List (Nat × Nat × Nat)) : State :=
  { mem := cellsAt (scratchKey b0 0) ([(0, 1, 0x40), (5, 1, 0x90), (9, 1, 0x80), (0x52, 1, 1)] ++ more)
    csr := [(benchKey b0 0x300, BitVec.ofNat 64 cmd), (benchKey b0 0x318, 0x1000000), free0]
    job := { inStep := true, cur := some desc0 } }
def begun (s : State) (pass : Nat) : State := (s.passStart b0 pass).getD s
/-- Steps of a pass over the entries of the work list, none here. -/
def noEntries (norm : Bool) (u : State) (gs : List Group) (from' : State) : Run :=
  (List.range (u.fld (benchKey b0 0x300) 47 32)).foldl (fun (r : Run) i => r.doEntry norm b0 (u.drsList b0) gs (fun _ => ⟨0, 0, 0, 0, 0⟩) i) { s := from' }
/-- A norm pass over one group. -/
theorem test_hyp_norm :
    let s := dresser 1 []
    let u := begun s 1
    let q := u.setup b0
    let nout := leNat ((q.2.1.drop 8).take 4)
    MemInv s ∧ s.poison = [] ∧ s.errs = [] ∧ s.passStart b0 1 = some u ∧ q.1 = 0 ∧ ((groupsOf q.2.2.1).all fun g => g.rule ≤ 3) = true ∧
    (noEntries true u (groupsOf q.2.2.1) q.2.2.2).cause = 0 ∧ nout = 0x8000 ∧ nout + normBytes ≤ 2 ^ 20 * u.scratchMiB b0 := by
  and_intros <;> first | decide +kernel | exact someGet _ (by decide +kernel) | (unfold MemInv; decide +kernel)
/-- An apply pass whose norm is NaN, and one whose norm is finite. -/
theorem test_hyp_apply : ∀ p ∈ [([(0x9006, 2, 0x7ff8)], true), ([], false)],
    let s := dresser 2 p.1
    let u := begun s 2
    let q := ({ u with job := { u.job with applyStarted := true, lastApply := some u.stepNo } } : State).setup b0
    let n := q.2.2.2.scr b0 (leNat ((q.2.1.drop 4).take 4)) normBytes
    MemInv s ∧ s.passStart b0 2 = some u ∧ q.1 = 0 ∧ ((groupsOf q.2.2.1).all fun g => g.rule ≤ 3) = true ∧ n.1 = 0 ∧
    ngSkips (leNat (n.2.1.take 8)) = p.2 ∧ (noEntries false u (groupsOf q.2.2.1) n.2.2).cause = 0 := by
  intro p hp
  simp only [List.mem_cons, List.not_mem_nil, or_false] at hp
  obtain rfl | rfl := hp
  all_goals and_intros <;> first | decide +kernel | exact someGet _ (by decide +kernel) | (unfold MemInv; decide +kernel)
/-- A schedule pass over one group of rule 2 with one knot. -/
theorem test_hyp_schedule :
    let s := dresser 3 [(0x10004, 1, 1), (0x10040, 2, 0x102), (0x10052, 2, 0x3f40), (0x1005a, 2, 0x3f80), (0x10062, 2, 0x3f80), (0x10066, 2, 0x3f80)]
    let u := begun s 3
    let h := u.scr b0 (u.drsList b0) 64
    let base := u.bankOff b0 u.activeBank
    let r := u.scr b0 base 64
    let n := leNat ((r.2.1.drop 4).take 2)
    MemInv s ∧ s.passStart b0 3 = some u ∧ h.1 = 0 ∧ listHeadOk h.2.1 (2 ^ 20 * u.scratchMiB b0) = true ∧
    16448 + leNat (h.2.1.take 4) ≤ 2 ^ 20 * u.scratchMiB b0 ∧ (u.bench b0).schedLoad = none ∧ u.activeBank ∉ (u.bench b0).schedBad ∧
    bankBytes + base ≤ 2 ^ 20 * u.scratchMiB b0 ∧ r.1 = 0 ∧ 1 ≤ n ∧ n ≤ 256 ∧ (u.evalGroups b0 base (List.range n)).1 = 0 := by
  and_intros <;> first | decide +kernel | exact someGet _ (by decide +kernel) | (unfold MemInv; decide +kernel)
/-- A pass in its last cycle; DRS_STEP in EMPTY and in RUNNING. -/
theorem test_hyp_pass_end :
    let p : PassRec := ⟨2, 8, 1, [(0x8000, 64)], []⟩
    let s : State := { now := 7, csr := [free0], benches := [(0, { pass := some p })] }
    let r : State := { csr := [(mgtKey 0x100, 4)] }
    (s.bench b0).pass = some p ∧ s.now < p.deadline ∧ (p.outs.all fun o => o.1 + o.2 ≤ 2 ^ 20 * s.scratchMiB b0) = true ∧ (s.bench b0).drsFaulted = false ∧
    s.dieFenced b0.die = false ∧ s.benchFenced b0 = false ∧ s.tabState ≠ tabRunning ∧ r.tabState = tabRunning ∧ r.jobRuns = true := by
  and_intros <;> decide +kernel
/-- The tables of a bank's source: the page at 0 of 2 MiB. -/
def bankTables : State :=
  { mem := cellsAt 0 [(0, 2, 0x1001), (0x1000, 1, 0x27)], csr := [free0, (mgtKey 0x150, 4)] }
/-- A load of the bank that no step uses; a load that is done, and one that lost a write. -/
theorem test_hyp_bank_load :
    let v := bankTables
    let w := fun lost => ({ v with benches := [(0, { schedLoad := some (1, 0, lost) })] } : State)
    (2#64).getLsbD 1 = true ∧ (2#64).toNat % 2 = v.activeBank ∧ (3#64).toNat % 2 ≠ v.activeBank ∧ v.heldBank ≠ some 1 ∧ (v.bench b0).schedLoad = none ∧
    v.fld (benchKey b0 0x320) 47 0 % 64 = 0 ∧ bankBytes + v.bankOff b0 1 ≤ 2 ^ 20 * v.scratchMiB b0 ∧
    (v.newCycle.bankSource (v.fld (benchKey b0 0x320) 47 0)).1.isSome = true ∧ (∀ lost, ((w lost).bench b0).schedLoad = some (1, 0, lost)) ∧
    ((w false).bankSource 0).1.isSome = true := by
  and_intros <;> first | decide +kernel | exact fun _ => rfl

/-- A bucket of 32 elements, number 9, of a group of four modules, placed at bench 0; `flags` with bit 0 for thinning. -/
def redTab (n flags pos : Nat) : TabImage := tabOf n pos [(0x4, 0x400, 48), (0xb, 0x500, 96), (0x2, 0x600, 1000000)]
  [(0x400, 2, 5), (0x404, 4, 48), (0x408, 4, 9), (0x500, 4, 4), (0x504, 2, 1), (0x508, 4, 1), (0x522, 2, 1), (0x524, 2, 2), (0x526, 2, 3),
    (0x540, 4, 9), (0x544, 4, 32), (0x554, 1, flags), (0x620, 4, 2)]
/-- The module at job position `pos` runs it in step 1 under THIN `thin`; bench 0 of die 0 is the only live bench. -/
def reducing (n flags pos : Nat) (thin : BitVec 4) : State :=
  { tab := { loaded := some (redTab n flags pos), pos := pos }
    job := { inStep := true, cur := some { desc0 with thin := thin } }
    csr := [free0, (mgtKey 0x40, 0x3f3f3f3f3f3f3f00), (mgtKey 0x48, 0x3f3f3f3f3f3f3f3f), (mgtKey 0x50, 0x3f3f3f3f3f3f3f3f), (mgtKey 0x58, 0x3f3f3f3f)]
    dies := [(0, { failedBenches := (List.range 179).map (· + 1) })] }
/-- A leaf that hosts no node, of a bucket that is not thinned, and of one that is, with THIN 0 and 1. -/
theorem test_hyp_reduction_start : ∀ f ∈ [(0, 0#4), (1, 0#4), (1, 1#4)],
    let s := reducing 4 f.1 3 f.2
    s.job.inStep = true ∧ s.thinNow = f.2.toNat ∧ ∃ m, s.myBucket 9 = some m ∧ (s.redBench b0 m && (hostedBy m.leaves.length m.leaf).isEmpty &&
      parentLeaf m.leaves.length m.leaf == some 2 && s.job.seg == m.g.seg && m.g.thinnable == (f.1 == 1) && m.g.elems == 32) = true := by
  intro f hf
  exact ⟨rfl, rfl, someAny (by revert f; decide +kernel)⟩
/-- The host of the right-hand pair, with its own value there, a message that passes, and one that fails; its state with no own value. -/
theorem test_hyp_reduction_message :
    let s := reducing 4 0 2 0
    let v : RedVal := ⟨9, 2, 3, false, [], false⟩
    let own := s.updBench b0 fun x => { x with nodes := [v] }
    let msg := msgHead 1 0 0 9 32 ++ List.replicate 128 0
    (s.bench b0).nodes = [] ∧ (own.bench b0).nodes = [v] ∧ s.msgComes (.bytes msg false false) = true ∧
    ∃ m, own.myBucket 9 = some m ∧ (s.redBench b0 m && own.redBench b0 m && hostedBy m.leaves.length m.leaf == [(2, 3, 4)] && m.leaves.getD 3 4096 == 3 &&
      !isSparse (s.thinOf m) 32 1 && msgCheck msg s.stepNo 0 s.thinNow m.g.bucket 32 32 == 0 && parentLeaf m.leaves.length m.leaf == some 0 &&
      msgCheck [] s.stepNo 0 s.thinNow m.g.bucket 32 32 != 0 && !isSparse (s.thinOf m) 32 2 && v.bucket == m.g.bucket && v.lo == m.leaf) = true := by
  and_intros <;> first | decide +kernel | exact someAny (by decide +kernel)
/-- The second of two modules, and a global record for the one apply pass. -/
theorem test_hyp_records :
    let s := reducing 2 0 1 0
    let msg := msgHead 1 3 0 0xffffffff 0 ++ List.replicate 4160 0
    s.job.inStep = true ∧ s.msgComes (.bytes msg false false) = true ∧ s.poison = [] ∧ s.errs = [] ∧
    hostedBy (hdrModules s.theTab) s.tab.pos = [] ∧ parentLeaf (hdrModules s.theTab) s.tab.pos = some 0 ∧ MemInv s ∧
    msgCheck msg s.stepNo 3 s.thinNow 0xffffffff 0 0 = 0 ∧ s.ninPlaces = [(b0, 0)] ∧ 0 + normBytes ≤ 2 ^ 20 * s.scratchMiB b0 := by
  and_intros <;> first | decide +kernel | exact rfl
/-- The owner of a bucket when every block of it has been applied, and a receiver. -/
theorem test_hyp_parameters :
    (let s := reducing 4 0 0 0
     ∃ m, s.myBucket 9 = some m ∧ (m.leaf == 0 && s.appliedAll m) = true) ∧
    (let s := reducing 4 0 3 0
     ∃ m, s.myBucket 9 = some m ∧ (m.leaf != 0 && parentLeaf m.leaves.length m.leaf == some 2 && m.leaves.getD 2 4096 == 2 &&
       msgCheck (msgHead 1 2 0 9 32 ++ List.replicate 64 0) s.stepNo 2 s.thinNow m.g.bucket 32 32 == 0) = true) :=
  ⟨someAny (by decide +kernel), someAny (by decide +kernel)⟩
/-- A hub that has not written its records, with a hash on record; six that have; an archive that keeps a digest 63 steps old; comparisons 63
and 64 steps later, of pairs that differ and of equal ones, of runs that agree and of runs that do not. -/
theorem test_hyp_digest :
    let s : State := { job := { cur := some desc0 }, ports := [(0, { sentHash := [(9, 5)] })] }
    let t : State := { job := { cur := some desc0, digested := [0, 1, 2, 3, 4, 5] }, mgt := { digests := [(1, [])] } }
    let m : State := { csr := [(mgtKey 0x1c0, 1)], mgr := { lastSent := some { desc0 with step := 100 } } }
    let same := fun p : DigestPair => p.sent == p.recv
    let run := fun (a b c d : Nat) => ([(a, b, BitVec.ofNat 64 c, BitVec.ofNat 64 d)] : List (Nat × Nat × Word64 × Word64))
    s.job.cur.isSome = true ∧ s.job.digested.contains 0 = false ∧ (9, 5) ∈ (s.port p0).sentHash ++ (s.port p0).recvHash ∧
    t.mgt.digests.find? (fun d => d.1 == t.stepNo) = some (1, []) ∧ t.job.digested.length = 6 ∧
    (t.mgt.hostDown.contains 0 && t.mgt.hostDown.contains 1) = false ∧ m.isManager = true ∧ (100#40).toNat < 37 + 64 ∧ (37, 0) ≠ ((100#40).toNat, 0) ∧
    64 ≤ 100 - (36#40).toNat ∧ (37#40).toNat ≤ 100 ∧ 100 < (37#40).toNat + 64 ∧ [⟨0, 1, 9, 1, 2⟩].all same = false ∧ [⟨0, 1, 9, 1, 1⟩].all same = true ∧
    m.mgr.archive = [] ∧ m.mgr.replayArchive = [] ∧ firstDiff (run 0 9 1 1) (run 0 9 2 1) = some (0, 9) := by
  and_intros <;> decide +kernel
theorem test_hyp_selection : ∀ x ∈ [0, 0x7f800000], ((f32 x).isNan = false ∧ x ≤ 0x7f800000) ∧ (f32 (x + 0x7f800001)).isNan = (x == 0) ∧
    ([0, 1, 2, 3].map fun v : Nat => selKey v) = [0, 1, 2, 3] := by decide +kernel

/-- Port 0 of hub 0 in a state of R433, with what it holds. -/
def onPort (st : Word64) (x : PortState) : State := { csr := [(lnkKey p0 0, st)], ports := [(0, x)] }
/-- One link entry of 64 bytes in segment 0: direction, address, deadline 100. -/
def linkTab (dir loc : Nat) : TabImage :=
  tabWith 0x3 48 [(0x408, 1, dir), (0x40c, 4, 1), (0x410, 8, loc), (0x418, 4, 5), (0x41c, 4, 100), (0x420, 8, 64)]
/-- Credit of 1023 flits out, a replay buffer and a slot that are free; no credit; a control slot of the tab for VC 1, and none; an outbound entry
in its segment. -/
theorem test_hyp_flit_send :
    let x : PortState := { sent := [(0, 1023), (1, 1023), (2, 1024)], flits := 62 }
    let s := inTab (linkTab 0 0) (onPort 3 x)
    let c := inTab (tabWith 0x3 48 [(0x40a, 1, 1), (0x40c, 4, 1)]) { onPort 3 x with csr := [(mgtKey 0x1c0, 0)] }
    let e : LinkEnt := ⟨0, 0, 0, 0, 0, 0, 1, 0, 0, 0, 5, 100, 64, 0⟩
    s.lnkState p0 = lnkUp ∧ x.credit 0 = true ∧ x.credit 1 = true ∧ x.credit 2 = false ∧ x.replay.length < 2048 ∧ x.flits % 64 ≠ 63 ∧
    s.mayLeave p0 0 = true ∧ s.mayLeave p0 1 = false ∧ c.mayLeave p0 1 = true ∧ c.tabRuns = true ∧ (c.ctrlSlot p0).isSome = true ∧
    c.mayLeave p0 2 = true ∧ s.myLinks[0]? = some e ∧ e.seg = s.job.seg ∧ e.dir = 0 ∧ e.port = p0.port.val ∧ e.vc = 0 ∧ 0 < e.flits ∧ 0 < e.bytes ∧
    s.haulEntry 0 = false ∧ ((s.reach (s.job.segStart + 2 * e.start)).loadLong (e.loc + 0) (min 240 (e.bytes - 0))).2.1 = false := by
  and_intros <;> decide +kernel
/-- A flit of VC 0 with its own CRC. -/
def flit0 (seq : BitVec 32) : Flit :=
  let body : List Byte := List.replicate 240 0
  ⟨seq, 0, false, 5, 0, 64, body, flitCrc (flitHead seq.toNat 0 false 5 0 64) body⟩
/-- Another CRC; SEQ as expected, 1 and 2^20 - 1 ahead, 2^20 ahead, and 2^20 behind; a full receive buffer. -/
theorem test_hyp_flit_receive :
    let dist := fun f : Flit => (2 ^ 32 + f.seq.toNat - 0) % 2 ^ 32
    (∀ q, flitCrc (flitHead (flit0 q).seq.toNat (flit0 q).vc.toNat (flit0 q).last (flit0 q).xfer.toNat (flit0 q).fidx.toNat (flit0 q).valid.toNat)
      (flit0 q).body = (flit0 q).crc) ∧
    (∃ f : Flit, ¬ flitCrc (flitHead f.seq.toNat f.vc.toNat f.last f.xfer.toNat f.fidx.toNat f.valid.toNat) f.body = f.crc) ∧
    dist (flit0 0) = 0 ∧ dist (flit0 1) = 1 ∧ dist (flit0 0xfffff) < 2 ^ 20 ∧ 2 ^ 20 ≤ dist (flit0 0x100000) ∧
    dist (flit0 0xffefffff) < 2 ^ 32 - 2 ^ 20 ∧ 2 ^ 32 - 2 ^ 20 ≤ dist (flit0 0xfff00000) ∧
    1024 ≤ nget ({ buffered := [(0, 1024)] } : PortState).buffered 0 0 ∧ nget ({ buffered := [(0, 1023)] } : PortState).buffered 0 0 < 1024 := by
  have bad : ¬ flitCrc (flitHead 0 0 false 0 0 0) [] = flitCrc (flitHead 0 0 false 0 0 0) [] + 1 := fun h =>
    absurd (congrArg (· - flitCrc (flitHead 0 0 false 0 0 0) []) h) (by simp [BitVec.add_sub_cancel, BitVec.add_comm])
  and_intros
  all_goals first | exact fun _ => rfl | exact ⟨⟨0, 0, false, 0, 0, 0, [], flitCrc (flitHead 0 0 false 0 0 0) [] + 1⟩, bad⟩ | decide +kernel
/-- A flit that no entry takes, and the inbound entry that takes one into scratch. -/
theorem test_hyp_flit_lands :
    let s := inTab (linkTab 1 0x800000000000) { onPort 3 {} with csr := [free0, (mgtKey 0x40, 0)] }
    let a : LinkEnt := ⟨0, 0, 1, 0, 0, 0, 1, 0x800000000000, 0, 0, 5, 100, 64, 0⟩
    let find := fun x => s.myLinks.zipIdx.find? fun a => a.1.dir != 0 && a.1.port == p0.port.val && a.1.vc == 0 && a.1.xfer == x
    let dst := a.loc + 240 * 0
    find 6 = none ∧ find 5 = some (a, 0) ∧ s.job.inStep = true ∧ s.haulEntry 0 = false ∧ s.job.lateIn.contains 0 = false ∧ MemInv s ∧
    (0 < a.flits ∧ 240 * 0 + 64 ≤ a.bytes ∧ (flit0 0).body.length = 240 ∧ (flit0 0).valid.toNat = 64) ∧ a.seg = s.job.seg ∧
    s.now < s.job.segStart + 2 * a.deadline ∧ (0 < a.seg ∨ a.seg = 0) ∧ ∀ j, j < 320 → s.keyOf (dst / 64 * 64 + j) = some (0x800000000000 + j) ∧
      coreOfKey (0x800000000000 + j) = none ∧ s.retireTwin (0x800000000000 + j) = none := by
  and_intros <;> first | decide +kernel | exact rfl

/-- A port whose next flit is a control flit, and one whose is not; a control flit that acknowledges, with a higher term, and one that asks for a
resend. -/
theorem test_hyp_control :
    let x : PortState := { flits := 63 }
    let f : CtrlFlit := ⟨[0, 0, 0, 0], [0, 0, 0, 0], 0, 0, [0, 0, 0, 0], 7, 0⟩
    let n : CtrlFlit := ⟨[0, 0, 0, 0], [0, 0, 0, 0], 0, 8, [0, 0, 0, 0], 0, 0⟩
    (onPort 3 x).lnkState p0 = lnkUp ∧ x.flits % 64 = 63 ∧ ({} : PortState).flits % 64 ≠ 63 ∧ x.onward = [] ∧ f.nak = 0 ∧
    f.ts.any (fun t => t == 0#64) = true ∧ ({ csr := [(mgtKey 0x1c0, 0x600000000)] } : State).fld (mgtKey 0x1c0) 63 32 < f.term.toNat ∧
    (onPort 3 x).job.inStep = false ∧ n.nak = 1#4 <<< 3 ∧ x.replay = [] ∧ x.resent = [] ∧ n.term = 0 := by
  and_intros <;> decide +kernel
/-- What a manager and a standby hear: a port that is UP at the end of its second and one that is late, digests 63 and 64 steps old beside a
copied one, and the committed epoch. -/
theorem test_hear :
    let m : State := { now := 4000000007, csr := [(mgtKey 0x1c0, 1)], mgr := { retrains := [(2, 9, 7)], committed := some 5 } }
    let b : State := { csr := [(mgtKey 0x1c0, 2)], mgr := { archive := [(1, 0, 4), (2, 0, 5)] } }
    (m.hear (.portUp 2 9)).out = [⟨.restartJob, [5]⟩] ∧ ({ m with now := 4000000008 } : State).hear (.portUp 2 9) = { m with now := 4000000008 } ∧
    (b.hear (.standbyCopy [(0, 7)] [(65, 0, 6)])).mgr.archive = [(65, 0, 6), (2, 0, 5)] ∧ (b.hear (.standbyCopy [(0, 7)] [])).mgr.roles = [(0, 7)] ∧
    (b.hear (.commitIdentity 8)).mgr.committed = some 8 ∧ m.hear (.commitIdentity 8) = m := by
  and_intros <;> decide +kernel
/-- A flit to be resent, and one that has been; a manager, a standby, and a module that is late for its parent, with its fault raised and not. -/
theorem test_hyp_resend :
    let y : PortState := { replay := [flit0 5] }
    let z : PortState := { resent := [(0, 5)] }
    let standby : State := { csr := [(mgtKey 0x1c0, 0xfffffffe00000002)] }
    y.resent.contains (0, 5) = false ∧ y.flits % 64 + y.replay.length < 64 ∧
    (y.replay.filter fun f => f.vc.toNat == 0 && decide ((2 ^ 32 + f.seq.toNat - 5) % 2 ^ 32 < 2 ^ 31)).length = 1 ∧
    z.resent.contains (0, 5) = true ∧ z.faulted = false ∧ z.retryFails = 0 ∧ ({ csr := [(mgtKey 0x1c0, 1)] } : State).isManager = true ∧
    standby.role = roleStandby ∧ standby.fld (mgtKey 0x1c0) 63 32 < 2 ^ 32 - 1 ∧ ({ mgt := { tbHold := some 0 } } : State).mgt.tbHold = some 0 ∧
    State.reset.fld (mgtKey 0x1c8) 1 0 ≠ 3 ∧ ({ csr := [(mgtKey 0x1c8, 3)] } : State).fld (mgtKey 0x1c8) 1 0 = 3 := by
  and_intros <;> first | decide +kernel | rfl

/-- The predicted neighbour of hub 0 has a module number of 12 bits, since no torus dimension is above 16 (R5, R430). -/
theorem neighbour_small (s : State) : s.neighbour s.myModule (0 : Hub).val < 4096 := by
  have hm : s.myModule < 4096 := (Config.moduleNumber s.sec.imageHash).isLt
  have hk : s.dimOf 0 ≤ 16 := by
    have := (Config.torus s.sec.imageHash).1.isLt
    show 2 * (Config.torus s.sec.imageHash).1.val + 2 ≤ 16
    omega
  have h0 : 0 < s.dimOf 0 := Nat.succ_pos _
  have ht : (coordOf s.myModule 0 + 1) % s.dimOf 0 < 16 := Nat.lt_of_lt_of_le (Nat.mod_lt _ h0) hk
  show 256 * (s.myModule / 256) + 16 * (s.myModule / 16 % 16) + (coordOf s.myModule 0 + 1) % s.dimOf 0 < 4096
  omega
theorem test_hyp_port :
    (State.reset.mayTrain p0 = true ∧ State.reset.lnkState p0 = lnkDown ∧ (onPort 4 {}).lnkState p0 = lnkFenced) ∧
    ((onPort 1 {}).lnkState p0 = lnkTraining ∧ ((onPort 1 {}).port p0).trainSince = 0 ∧ (200000000 : Nat) ≤ 0 + trainLimit) ∧
    (∃ mod : BitVec 12, mod.toNat = (onPort 2 {}).neighbour (onPort 2 {}).myModule p0.hub ∧ (3 : Hub).val = (p0.hub.val + 3) % 6) ∧
    (onPort 2 {}).lnkState p0 = lnkCheck ∧ (4 : Hub).val ≠ (p0.hub.val + 3) % 6 ∧
    ((onPort 3 {}).fld (lnkKey p0 0) 3 3 = 0 ∧ ((onPort 3 {}).port p0).sparePending = none ∧ (onPort 11 {}).fld (lnkKey p0 0) 3 3 = 1 ∧
      (onPort 11 {}).lnkState p0 = lnkUp) ∧
    (∀ s ∈ [onPort 3 { sparePending := some 7 }, inTab tab0 (onPort 3 { sparePending := some 7, spareDue := true })],
      (s.port p0).sparePending = some 7 ∧ (s.job.inStep = false ∨ (s.port p0).spareDue = true)) ∧
    (let s : State := { csr := [(mgtKey 0x1c0, 1)], mgr := { roles := [(3, 9), (4, 8)], spares := [(20, 1), (21, 2)] } }
     s.isManager = true ∧ s.mgr.roles.find? (fun r => r.2 == 9) = some (3, 9) ∧ s.mgr.roles.find? (fun r => r.2 == 8) = some (4, 8) ∧
       s.mgr.spares = (20, 1) :: (21, 2) :: [] ∧ (20 : Nat) ≠ 8) ∧
    State.reset.flash.log.length < 262144 := by
  and_intros
  all_goals first | decide +kernel | exact ⟨BitVec.ofNat 12 ((onPort 2 {}).neighbour (onPort 2 {}).myModule p0.hub),
    BitVec.toNat_ofNat _ _ ▸ Nat.mod_eq_of_lt (neighbour_small _), rfl⟩

theorem there0 : BenchThere base b0 := ⟨rfl, by decide⟩
/-- A bench that is reached; a fault record that was made in the fabric cycle of a write, and one that was not; an own write of MD1 in it. -/
theorem test_hyp_clear : BenchThere base c0.benchId ∧ (2 ^ 3 : Word64).getLsbD 3 = true ∧ (0 : Word64).getLsbD 3 = false ∧
    (({ csr := [(coreKey c0 8, 9)] } : State).freshBits (coreKey c0 8)).getLsbD 3 = true ∧ (base.freshBits (coreKey c0 8)).getLsbD 3 = false ∧
    ({ cycle := { writes := [dieKey 0 0x190] } } : State).cycle.writes.contains (dieKey 0 0x190) = true := by
  and_intros <;> first | decide +kernel | exact there0
/-- A register of each block, an offset that is not listed, the first and last offset with a rule, and counters of each kind of unit. -/
theorem test_hyp_registers :
    (regSpec .compute 0x190).isSome = true ∧ (regSpec .bench 0x200).isSome = true ∧ (regSpec .hub 0x420).isSome = true ∧ regSpec .hub 8 = none ∧
    regSpec .hub 0x1fff8 = none ∧ CounterAt base (benchKey b0 0x438) (benchKey b0 0x478) ∧ CounterAt State.reset (dieKey 0 0x878) (dieKey 0 0x8f8) ∧
    CounterAt State.reset (hubKey 0 0x20f8) (hubKey 0 0x21f8) ∧ CounterAt State.reset (mdKey 0 0x878) (mdKey 0 0x8f8) ∧
    ((({ ctr := [(benchKey b0 0x400, 0x100)] } : State).reg (benchKey b0 0x400)).getLsbD 8 = true) ∧
    (State.reset.reg (benchKey b0 0x408)).getLsbD 8 = false ∧
    2 ^ 48 ≤ bitsOf (({ ctr := [(benchKey b0 0x440, 0xffffffffffff)] } : State).reg (benchKey b0 0x440)).toNat 47 0 + (1#24).toNat ∧
    ∀ a ∈ [0, 0x800000000000], placeOf a ≠ .csr ∧ placeOf a ≠ .none ∧ (({ csr := map0 } : State).keyOf a).isSome = true := by
  exact ⟨by decide +kernel, by decide +kernel, by decide +kernel, by decide +kernel, by decide +kernel, .inl ⟨b0, 7, there0, by decide, rfl, rfl⟩,
    .inr (.inl ⟨0, 15, rfl, by decide, rfl, rfl⟩), .inr (.inr (.inl ⟨0, 31, by decide, rfl, rfl⟩)), .inr (.inr (.inr ⟨0, 15, by decide, rfl, rfl⟩)),
    by decide +kernel⟩
/-- A broadcast that is not complete; an address of each cause of an access error. -/
theorem test_hyp_broadcast :
    (∃ s : State, s.mgt.broadcasts = [(.host 0, 5, 1)]) ∧ ((∃ x : Die, 27 = x.val ∧ State.reset.dieFenced x = false)) ∧
    (0xff0000000001 % 8 ≠ 0) ∧
    (0xffc000000000 % 8 = 0 ∧ 0xffc000000000 / 2 ^ 40 = 0xff ∧ addrMode 0xffc000000000 = 3) ∧
    (addrMode 0xff1c00000000 = 0 ∧ State.reset.unitAbsent (0xff1c00000000 % 2 ^ 38) = true) ∧
    (addrMode 0xff9c00000000 = 2 ∧ State.reset.broadcastOk 0xff9c00000000 = false) ∧
    (addrMode 0xffbfff800320 = 2 ∧ State.reset.broadcastOk 0xffbfff800320 = true) := by
  exact ⟨⟨{ mgt := { broadcasts := [(.host 0, 5, 1)] } }, rfl⟩, ⟨27, rfl, rfl⟩, by decide, by decide, by decide +kernel, by decide +kernel,
    by decide +kernel⟩
/-- The bank that is not active and the active one; a chord in LOADED and in RUNNING; a timeout of 10 and of 9; a flip register armed and not. -/
theorem test_hyp_own_rules :
    let w := fun bank : Nat => (BitVec.ofNat 64 (2 ^ 42 * bank + 2 ^ 40) : Word64)
    (bitsOf (w 1).toNat 41 40 = 1 ∧ bitsOf (w 1).toNat 42 42 ≠ bitsOf (State.reset.fld (benchKey b0 0x220) 1 0) 1 1 ∧
      bitsOf (w 0).toNat 42 42 = bitsOf (State.reset.fld (benchKey b0 0x220) 1 0) 1 1 ∧ (State.reset.core c0).sfs = none) ∧
    (({ csr := [(mgtKey 0x100, 3)] } : State).tabState = tabLoaded ∧ ({ csr := [(mgtKey 0x100, 4)] } : State).tabState = tabRunning) ∧
    (State.reset.hub 0).tags.length < 2 ^ 13 ∧ 10 ≤ (10#64).toNat % 2 ^ 16 ∧ (9#64).toNat % 2 ^ 16 < 10 ∧
    (State.reset.fld (benchKey b0 0x280) 10 10 = 0 ∧ State.reset.tabState ≠ tabRunning) ∧
    ({ csr := [(benchKey b0 0x280, 0x400)] } : State).fld (benchKey b0 0x280) 10 10 = 1 := by
  exact ⟨⟨by decide +kernel, by decide +kernel, by decide +kernel, rfl⟩, ⟨by decide +kernel, by decide +kernel⟩, by decide, by decide, by decide,
    ⟨by decide +kernel, by decide +kernel⟩, by decide +kernel⟩

/-- An open session with every permission; the tag that its key gives a request. -/
def sess (perms : BitVec 16) (highest : Option Nat) (answered : List (Nat × Msg)) : Session :=
  ⟨0, 1, [], [], true, [], [], perms, highest, answered, 0, 0, none⟩
def tagged (ty : Nat) : Rq := { rq0 with tag := Config.gcmTag [] 1 (rqHeader rq0 ty ++ []) }
theorem tagged_ok (x : Session) (ty : Nat) (h : x.rxKey = []) : tagHolds x (tagged ty) ty = true := by
  unfold tagHolds
  rw [h]
  exact beq_self_eq_true _
def inSession (x : Session) : State := { mgt := { sessions := [x] } }
theorem sess_genuine (p : BitVec 16) (h : Option Nat) (a : List (Nat × Msg)) (ty : Nat) :
    Genuine (inSession (sess p h a)) (tagged ty) ty (sess p h a) := ⟨rfl, rfl, by show 0 < 2 ^ 32; decide, tagged_ok _ _ rfl⟩
/-- Of every request type: no session, one that is not open, an answered SEQ, an old one, a new one without and with permission. -/
theorem test_hyp_judged (ty : Nat) : State.reset.session? 0 1 = none ∧
    ((inSession { sess 0 none [] with opened := false }).session? 0 1 = some { sess 0 none [] with opened := false }) ∧
    (∃ a : Nat × Msg, Genuine (inSession (sess 0 none [a])) (tagged ty) ty (sess 0 none [a]) ∧ [a].find? (fun p => p.1 == (tagged ty).seq.toNat) = some a) ∧
    (Genuine (inSession (sess 0 (some 1) [])) (tagged ty) ty (sess 0 (some 1) []) ∧ (tagged ty).seq.toNat ≤ 1) ∧
    (Genuine (inSession (sess 0 (some 0) [])) (tagged ty) ty (sess 0 (some 0) []) ∧ Fresh (tagged ty) (sess 0 (some 0) []) ∧
      ∀ bit, (sess 0 (some 0) []).perms.getLsbD bit = false) := by
  refine ⟨rfl, rfl, ⟨(1, ⟨.reply, []⟩), sess_genuine _ _ _ _, rfl⟩, ⟨sess_genuine _ _ _ _, Nat.le_refl 1⟩, sess_genuine _ _ _ _, ⟨rfl, ?_⟩, fun bit => ?_⟩
  · intro h e
    cases e
    exact Nat.zero_lt_one
  · exact BitVec.getLsbD_zero
/-- Every kind of request is one of `Request`. -/
theorem test_hyp_request (rq : Rq) : Request rq (.csrRead (.session rq) 0xff2000000000) 0x10 0 ∧ Request rq (.csrWrite (.session rq) 0xff2000000000 0) 0x11 1 :=
  ⟨.read _ _ rfl, .write _ _ _ rfl (by decide)⟩
theorem admitted_ok (ty bit : Nat) (h : bit < 7) (f : State → State) (hf : (f (inSession (sess 0x7f none []))).mgt.sessions = [sess 0x7f none []]) :
    Admitted (f (inSession (sess 0x7f none []))) (tagged ty) ty bit := by
  refine ⟨sess 0x7f none [], ⟨?_, rfl, by show 0 < 2 ^ 32; decide, tagged_ok _ _ rfl⟩, ⟨rfl, fun h e => by cases e⟩, ?_⟩
  · unfold State.session?
    rw [hf]
    rfl
  · exact (by decide : ∀ b < 7, (0x7f#16).getLsbD b = true) bit h
/-- Each request admitted, in the states that its clauses name. -/
theorem test_hyp_requests :
    let a := inSession (sess 0x7f none [])
    Admitted { a with sec := { a.sec with bootedSlot := some 0 } } (tagged 0x30) 0x30 3 ∧
    Admitted { a with sec := { a.sec with bootedSlot := none } } (tagged 0x30) 0x30 3 ∧ a.sec.record.pending ≠ 1 ∧ a.sec.upload = none ∧
    Admitted { a with csr := [(mgtKey 0x100, 4)] } (tagged 0x50) 0x50 5 ∧ a.tabState ≠ tabRunning ∧
    (∀ r, Admitted r (tagged 0x40) 0x40 4 → r = a → ∃ x, r.session? 0 1 = some x ∧ x.logReadTo = none) ∧
    (let x := { sess 0x7f none [] with logReadTo := some 0 }
     (inSession x).session? 0 1 = some x ∧ (inSession x).flash.log.length ≤ 0 ∧ Admitted (inSession x) (tagged 0x40) 0x40 4) ∧
    unitFormOk 0xffffffff = false ∧ unitFormOk 0x40000005 = true ∧ unitExists 0x40000005 = true := by
  intro a
  refine ⟨admitted_ok 0x30 3 (by decide) (fun a => { a with sec := { a.sec with bootedSlot := some 0 } }) rfl,
    admitted_ok 0x30 3 (by decide) (fun a => { a with sec := { a.sec with bootedSlot := none } }) rfl, by decide, rfl,
    admitted_ok 0x50 5 (by decide) (fun a => { a with csr := [(mgtKey 0x100, 4)] }) rfl, by decide +kernel, ?_, ⟨rfl, Nat.le_refl 0, ?_⟩,
    by decide, by decide, by decide⟩
  · rintro r _ rfl
    exact ⟨_, rfl, rfl⟩
  · exact ⟨_, ⟨rfl, rfl, by show 0 < 2 ^ 32; decide, tagged_ok _ _ rfl⟩, ⟨rfl, fun h e => by cases e⟩, by decide⟩

/-- Self-test requests: a unit code out of form, one in form whose unit exists; a window that frees the unit begins at 20 ns of the step, before
a deadline and at it; without a running step there is none. -/
theorem test_hyp_selftest :
    let w : TabImage := tabWith 0x7 32 [(0x40c, 4, 20), (0x410, 4, 100), (0x414, 2, 0x3f), (0x416, 2, 1), (0x418, 4, 0x40000005)]
    let s : State := { csr := [(mgtKey 0x100, 4)], tab := { loaded := some w }, job := { inStep := true, cur := some desc0 } }
    ¬ [0xffffffff].all unitFormOk = true ∧ [0x40000005].all unitFormOk = true ∧ [0x40000005].all unitExists = true ∧ s.tabState = tabRunning ∧
    s.nextWindow [0x40000005] 4 = some (0, 100020) ∧ 100020 < (100021#64).toNat ∧ (100020#64).toNat ≤ 100020 ∧
    State.reset.nextWindow [0x40000005] 4 = none := by
  and_intros <;> decide +kernel

/-- All cores of bench 0 have parked; logical die 0 is physical die 0. -/
def parked0 (x : BenchState) : State := { csr := map0, cores := (List.range 64).map fun i => (i, { parked := true }), benches := [(0, x)] }
/-- The pluck table's entry; a pluck at a bench that is no spare and at one that is; the last core parks, with a pluck of the same fabric cycle
and without; a wake with and without a WAITU, in time and late; a re-entry after a request. -/
theorem test_hyp_park :
    let s := inTab (tabWith 0xa 16 [(0x404, 1, 9)]) { csr := [free0, (mgtKey 0x40, 0), (mgtKey 0x100, 4)] }
    let w : State := { now := 6, cores := [(0, { hold := .waitu 5 })] }
    (plucksOf s.theTab s.tab.pos s.tab.variant)[0]? = some (0, 9, 0, 0, 0) ∧ s.tabState = tabRunning ∧ s.job.pluckFired.contains 0 = false ∧
    s.benchAt 0 0 = some b0 ∧ (({ dies := [(0, { plucks := [0] })] } : State).die 0).plucks.contains 0 = true ∧
    (parked0 {}).isSpare b0 = false ∧ (parked0 {}).isSpare ⟨0, 176⟩ = true ∧
    (parked0 {}).allParked b0 = true ∧ (parked0 {}).benchBusy b0 = false ∧ ({} : BenchState).lastPluck ≠ some 0 ∧
    (parked0 { lastPluck := some 0 }).benchBusy b0 = false ∧ (parked0 { wokenBy := some true }).benchBusy b0 = false ∧
    (parked0 { wokenBy := some true }).allParked b0 = true ∧ (parked0 { transit := .waking }).waitTarget b0 = none ∧
    w.waitTarget b0 = some 5 ∧ ¬ (w.now - w.job.segStart ≤ 5) ∧ w.now - 1 - w.job.segStart ≤ 5 := by
  and_intros <;> decide +kernel
/-- A reset request in RUNNING, STOPPING and EMPTY for the last bench and for the fabric; stretches 15 and 16 cycles apart. -/
theorem test_hyp_domains :
    (2 ^ 8 + 179 : Word64).getLsbD 8 = true ∧ bitsOf (2 ^ 8 + 179 : Word64).toNat 7 0 = 179 ∧ bitsOf (2 ^ 8 + 0xf0 : Word64).toNat 7 0 = 0xf0 ∧
    ({ csr := [(mgtKey 0x100, 4)] } : State).tabState = tabRunning ∧ ({ csr := [(mgtKey 0x100, 5)] } : State).tabState = tabStopping ∧
    State.reset.tabState = tabEmpty ∧ (State.reset.die 0).domReset = none ∧ (({ dies := [(0, { domReset := some 179 })] } : State).die 0).domReset = some 179 ∧
    (∃ s : State, (s.die 0).lastStretch = some 0 ∧ s.now = 15 ∧ s.now < 0 + 16) ∧ (0 + 16 ≤ 16) ∧ MemInv State.reset := by
  exact ⟨by decide, by decide, by decide, by decide +kernel, by decide +kernel, by decide +kernel, rfl, rfl,
    ⟨{ now := 15, dies := [(0, { lastStretch := some 0 })] }, rfl, rfl, by decide⟩, by decide, rfl⟩
/-- Eight and nine windows above 24 kW in the last millisecond before the next end of a window, with the fault raised and not. -/
theorem test_hyp_power : ∀ k ∈ [8, 9], ∀ r : Bool, ∃ s : State, (s.mgt.overs.filter fun u => decide (s.nextMicro < 1000000 + u)).length = k ∧
    s.mgt.envRaised = r := by
  intro k hk r
  exact ⟨{ mgt := { overs := List.replicate k 1000, envRaised := r } }, by revert k; revert r; decide +kernel, rfl⟩
/-- A word with one damaged bit, found again, and in a block of LPDDR6 with a free retire entry; one with two, for the first time and again after
it was written; a word that the scrubber has passed; a claimed access. -/
theorem test_hyp_errors :
    let st : StoreRef := .lpddr ch0
    let ce : State := { seenCe := [cePlace st 32 1] }
    let ue : State := { seenUe := [(st, 32, true)] }
    damage false 1 = 1 ∧ damage false 3 = 2 ∧ damage true 1 = 1 ∧ damage true 0x10001 = 2 ∧ smem State.reset.poison 32 = false ∧
    errAt State.reset st 32 = 0 ∧ ce.seenCe.contains (cePlace st 32 1) = true ∧ State.reset.seenCe.contains (cePlace st 32 1) = false ∧
    ce.freeRetire 0 0 = some 0 ∧ ce.retiring 0 0 0 = false ∧ ue.seenUe.contains (st, 32, true) = true ∧ ue.freeRetire 0 0 = some 0 ∧
    ue.retiring 0 0 0 = false ∧ ue.seenUe.contains (st, 32, false) = false ∧ State.reset.seenUe.contains (st, 32, true) = false ∧
    State.reset.scrubDue st 32 = true ∧ ({ scrubPos := [(st, 64)] } : State).scrubDue st 32 = false := by
  and_intros <;> decide +kernel
/-- A triple written in the fabric cycle, and one that was not; a page to copy; an armed flip register, one that was armed in the fabric cycle, and
one that is not armed; a lap that is too long and one that is not. -/
theorem test_hyp_protection :
    let arm := benchKey b0 0x280
    let a : State := { csr := [(arm, 0x400)] }
    let r : State := { csr := [(retireKey 0 0 0, 0x1000000)] }
    mgtKey 0x1c0 < 2 ^ 38 ∧ storeKey (mgtKey 0x1c0) = mgtKey 0x1c0 ∧ isTriple (mgtKey 0x1c0) = true ∧
    ({ cycle := { soft := [mgtKey 0x1c0] } } : State).cycle.soft.contains (mgtKey 0x1c0) = true ∧ r.fld (retireKey 0 0 0) 24 24 = 1 ∧
    (r.hub 0).retired.contains 0 = false ∧ a.fld arm 10 10 = 1 ∧ (a.freshBits arm).getLsbD 10 = true ∧
    (({ a with cycle := { csr := a.csr } } : State).freshBits arm).getLsbD 10 = false ∧ State.reset.fld arm 10 10 = 0 ∧
    3600 * State.reset.fld (mgtKey 0x230) 15 0 < (0xffffffff#32).toNat ∧ (0#32).toNat ≤ 3600 * State.reset.fld (mgtKey 0x230) 15 0 := by
  and_intros <;> decide +kernel

/-- A haul descriptor in form for link entry 0, and one with a reserved byte, in no slot table; one of a table, in its segment and in another. -/
theorem test_hyp_haul :
    let s := inTab (linkTab 0 0) { job := { cur := some desc0 } }
    let d : BitVec 512 := BitVec.ofNat 512 (2 ^ (8 * 0x2c) * 10)
    let t := fun k => inTab (tabWith 0x4 80 [(0x400, 2, 3), (0x404, 4, 80), (0x410, 1, k), (0x414, 4, 9)]) {}
    s.haulOk (parseHaul d) = true ∧ s.haulOk (parseHaul (d + 0x100000000000000000000)) = false ∧ (parseHaul d).stream ≤ 1 ∧
    s.haulSlot 0 d = none ∧ (t 0).haulSlot 0 (9 * 2 ^ 32) = some (0, 9) ∧ (t 0).job.seg = 0 ∧ (t 1).haulSlot 0 (9 * 2 ^ 32 + 1) = some (1, 9) ∧
    s.swapHolds = false ∧ s.freedNow (hubUnit 0) = false ∧ ({ csr := [(mgtKey 0x150, 2)] } : State).swapHolds = true := by
  and_intros <;> decide +kernel
/-- The fence judged, hit and clear; each row of R459; the last segment of the step; the last report of an epoch, and one that is not the last. -/
theorem test_hyp_commit :
    let s := inTab (linkTab 0 0) { job := { cur := some desc0 } }
    let row := fun (k : Nat) (b : Bool) => ({ s with job := { s.job with seg := 1, commitRow := k, buddyDone := b } } : State)
    let m := fun (rs : List (Nat × Nat)) => ({ csr := [(mgtKey 0x1c0, 1)], mgr := { roles := [(0, 3), (1, 4)], reports := rs } } : State)
    let have' := fun (rs : List (Nat × Nat)) (p : Nat) => p = 0 ∨ (m rs).mgr.reports.contains ((9#40).toNat, p) = true
    s.stepNo ≤ s.fld (hubKey 0 0x518) 39 0 + 1 ∧ (s.hub 0).fence = none ∧
    s.fld (hubKey 0 0x518) 39 0 + 1 < ({ s with job := { s.job with cur := some { desc0 with step := 2 } } } : State).stepNo ∧
    (({ hubs := [(0, { fence := some (0, true) })] } : State).hub 0).fence = some (State.reset.stepNo, true) ∧
    (∀ k b, (row k b).job.inStep = true ∧ (row k b).job.commitRow = k ∧ (row k b).job.buddyDone = b) ∧
    ((row 0 true).segNow.any Seg.stepEnd) = true ∧ (m []).isManager = true ∧ (m []).mgr.roles.map Prod.fst = [0, 1] ∧
    (∀ p ∈ [0, 1], have' [(9, 1)] p) ∧ (∃ p ∈ [0, 1], ¬ have' [] p) ∧
    ({ csr := [(mgtKey 0x1c0, 0)] } : State).isManager = false := by
  and_intros
  all_goals first | exact fun _ _ => ⟨rfl, rfl, rfl⟩ | decide +kernel
/-- A staged epoch; a drain whose slot has a drive out, and one with none. -/
theorem test_hyp_vault :
    (∃ s : State, s.mgt.staged = some 3 ∧ s.mgt.draining = none) ∧
    (∃ (s : State) (v : Nat), s.mgt.draining = some v ∧ s.slotStopped (s.vaultSlot v) = true) ∧
    (({ mgt := { draining := some 3 } } : State).slotStopped (({ mgt := { draining := some 3 } } : State).vaultSlot 3) = false) := by
  refine ⟨⟨{ mgt := { staged := some 3 } }, rfl, rfl⟩, ?_, rfl⟩
  refine ⟨{ mgt := { drivesOut := [0], draining := some (Config.vaultSlotOf 0 0).val } }, _, rfl, ?_⟩
  have h := (Config.vaultSlotOf 0 0).isLt
  have e : ∀ n : Nat, n < 2 → ({ mgt := { drivesOut := [0], draining := some n } } : State).vaultSlot n = n := by decide +kernel
  unfold State.slotStopped
  rw [e _ h]
  exact Bool.or_eq_true_iff.mpr (.inl (beq_self_eq_true _))
/-- Candidates of this tab, of another, and none intact; a loader with a mark for the step that follows the epoch, and without. -/
theorem test_hyp_restart :
    let c : RestoreCandidate := ⟨5, hdrTabId256 tab0, true, 3, [⟨9, 8, []⟩], []⟩
    let d := { c with intact := false, epoch := 6 }
    let s : State := { tab := { loaded := some tab0 }, loader := { marks := [(6, 3, [])] } }
    latestIntact [d, c] = some c ∧ latestIntact [d] = none ∧ s.job.inStep = false ∧ s.tab.loaded.isSome = true ∧ c.tabId = hdrTabId256 s.theTab ∧
    { c with tabId := 0 }.tabId ≠ hdrTabId256 s.theTab ∧ nget? s.loader.marks (c.epoch.toNat + 1) = some (3, []) ∧
    nget? State.reset.loader.marks (c.epoch.toNat + 1) = none ∧ c.regions = [] := by
  and_intros <;> decide +kernel

/-- Two misses of a poll; a stack with a spare that stands by, and one whose spare is in service; orders 3, 6 and 7 done; a bench with a free
spare, and one without; a package when none is retired, and when one is. -/
theorem test_hyp_absorb :
    let maps : NMap Word64 := [free0, (mgtKey 0x40, 0x3f3f3f3f3f3f3f00), (mgtKey 0x48, 0x3f3f3f3f3f3f3f3f), (mgtKey 0x50, 0x3f3f3f3f3f3f3f3f), (mgtKey 0x58, 0x053f3f3f)]
    let s : State := { csr := maps ++ [(mgtKey 0x60, 5)] }
    let t : State := { csr := maps ++ [(mgtKey 0x60, 0x45)] }
    State.reset.pollsPaused = false ∧ nget (({ dies := [(0, { missedPolls := [(5, 2)] })] } : State).die 0).missedPolls 5 0 = 2 ∧
    (s.dieFenced 0 = false ∧ s.dieLog (0 : Die) = some 0 ∧ s.spareDie = some 5 ∧ s.fld (mgtKey 0x60) 7 6 = 0 ∧ (s.die 5).spareUnfit = []) ∧
    (t.dieLog (0 : Die) = some 0 ∧ t.spareDie = some 5 ∧ t.fld (mgtKey 0x60) 7 6 ≠ 0) ∧
    ({ s with dies := [(5, { spareUnfit := [3] })] } : State).spareDie = some 5 ∧ (5 : Die) ≠ 0 ∧
    (∀ k ∈ [3, 6, 7], ({ mgt := { absorbing := [(0xf0, k)] } } : State).absorbed 0xf0 = k) ∧ State.reset.idleTransfers = true ∧
    (onCore { descs := [(0, false)] }).idleTransfers = false ∧
    (base.benchLog b0 = some 0 ∧ base.freeSpare 0 = some 0 ∧ base.benchFenced ⟨0, 175⟩ = false) ∧
    ({ csr := [free0], dies := [(0, { spareUnfit := [176, 177, 178, 179] })] } : State).freeSpare 0 = none ∧
    (State.reset.fld (mgtKey 0x1e0) 22 16 = 0x7f ∧ ({ csr := [(mgtKey 0x1e0, 0x30000)] } : State).fld (mgtKey 0x1e0) 22 16 ≠ 0x7f) ∧
    (({ csr := [(mgtKey 0x1c0, 0)] } : State).isManager = false ∧ ({ csr := [(mgtKey 0x1c0, 1)] } : State).isManager = true) := by
  and_intros <;> decide +kernel
/-- Each state of R36, with and without the factory images; a tab that waits for its checks and one that fails them; a tab that was newly checked, over
an earlier one and over none, and one that has run; a job start by a module that is no manager, and by a manager with every outcome and without. -/
theorem test_hyp_tab :
    let st := fun n : Nat => ({ csr := [(mgtKey 0x100, BitVec.ofNat 64 n), (mgtKey 0x1c0, 0)] } : State)
    let c := { st 2 with tab := { received := some tab0 } }
    let l := { st 3 with tab := { loaded := some tab0, newly := true } }
    let m := { l with csr := [(mgtKey 0x100, 3), (mgtKey 0x1c0, 1)], mgr := { roles := [(0, 9)] } }
    (∀ n ∈ [0, 1, 2, 3, 4, 5], (st n).tabState = n) ∧ ({ sec := { sfsLoaded := true } } : State).sec.sfsLoaded = true ∧ State.reset.sec.sfsLoaded = false ∧
    c.tabState = tabChecking ∧ c.tab.received = some tab0 ∧ (tabCheck tab0 c.sec.imageHash (c.reg (mgtKey 0)).toNat c.tab.rxPos c.tab.rxPositions).1 ≠ 0 ∧
    ({ c with tab := { c.tab with refuseAll := true } } : State).tab.refuseAll = true ∧ l.tabState = tabLoaded ∧ l.tab.newly = true ∧ l.tab.earlier = none ∧
    ({ l with tab := { l.tab with earlier := some tab0 } } : State).tab.earlier = some tab0 ∧ (st 3).tab.newly = false ∧ l.isManager = false ∧
    m.isManager = true ∧ m.allLoaded = false ∧ ({ m with mgr := { m.mgr with loads := [(0, some (hdrTabId256 tab0))] } } : State).allLoaded = true ∧
    (parked0 {}).isSpare b0 = false ∧ ({ job := { restored := true } } : State).job.restored = true ∧ (st 5).tabState = tabStopping ∧
    (st 5).job.inStep = false ∧ (st 5).job.thermal = false := by
  and_intros <;> decide +kernel

/-- The job runs the tab of two segments with term 5 and THIN 0 alone supported. -/
def jobOf (j : JobState) : State :=
  { csr := [(mgtKey 0x100, 4), (mgtKey 0x1c0, 0x500000001)], tab := { loaded := some (tabWith 0xb 96 [(0x406, 2, 1)]) }, job := j }
/-- A first descriptor, in time and not, and each refusal of R442 and R394, and a term above the own; a descriptor that follows one, in time and late,
and one for a replay; a send 40 µs ahead and one later, over a log with the step and without. -/
theorem test_hyp_descriptors :
    let j := fun c n l => jobOf { cur := c, next := n, last := l }
    let s := j none none none
    let on : StepDesc := { desc0 with step := 2, start := 104000 }
    s.tabState = tabRunning ∧ desc0.tab.toNat = hdrTabId s.theTab 0 ∧ { desc0 with tab := 8 }.tab.toNat ≠ hdrTabId s.theTab 0 ∧
    { desc0 with term := 4 }.term.toNat < s.fld (mgtKey 0x1c0) 63 32 ∧ desc0.term.toNat = s.fld (mgtKey 0x1c0) 63 32 ∧
    s.fld (mgtKey 0x1c0) 63 32 < { desc0 with term := 6 }.term.toNat ∧ (j (some desc0) (some on) (some on)).job.next ≠ none ∧
    2000 + s.tbNow ≤ desc0.start.toNat ∧ { desc0 with start := 1999 }.start.toNat < 2000 + s.tbNow ∧ on.step = desc0.step + 1 ∧ desc0.step ≠ desc0.step + 1 ∧
    on.start.toNat = desc0.start.toNat + hdrStepNs s.theTab ∧ { on with start := 104001 }.start.toNat ≠ desc0.start.toNat + hdrStepNs s.theTab ∧
    ¬ (2000 + ({ s with now := 4 * 103000 } : State).tbNow ≤ on.start.toNat) ∧ s.thinOk 0 = true ∧ s.thinOk 1 = false ∧ State.reset.tabState ≠ tabRunning ∧
    s.isManager = true ∧ 40000 + s.tbNow ≤ desc0.start.toNat ∧ { desc0 with start := 39999 }.start.toNat < 40000 + s.tbNow ∧ s.mgr.lastSent = none ∧
    [desc0].find? (fun e => e.step == desc0.step) = some desc0 ∧ s.mgr.descLog = [] := by
  and_intros <;> decide +kernel
/-- No descriptor 2 µs before a step, with the step noted as missed and not; the next descriptor there; the first segment, the second, the end of a
step with and without a descriptor for the next, an abandoned step. -/
theorem test_hyp_segments :
    let on : StepDesc := { desc0 with step := 2, start := 104000 }
    let d := fun m => jobOf { cur := some desc0, last := some desc0, inStep := true, missed := m }
    let first := jobOf { cur := some desc0 }
    let run := fun n => jobOf { cur := some desc0, next := n, inStep := true }
    let last := fun n => jobOf { cur := some desc0, next := n, inStep := true, seg := 1 }
    (∀ m, (d m).nextDesc = none ∧ (d m).job.last = some desc0 ∧ (d m).job.missed = m) ∧ (d none).tabState = tabRunning ∧ (some 2 : Option Nat) ≠ none ∧
    first.nextDesc = some desc0 ∧ first.job.inStep = false ∧ (segOf first.theTab 0).isSome = true ∧ (run none).job.abandon = false ∧
    (run none).job.seg + 1 < hdrSegments (run none).theTab ∧ (segOf (run none).theTab 1).isSome = true ∧
    hdrSegments (last none).theTab ≤ (last none).job.seg + 1 ∧ (last none).job.next = none ∧ (last (some on)).job.next = some on ∧
    (jobOf { cur := some desc0, inStep := true, abandon := true }).job.abandon = true := by
  and_intros
  all_goals first | exact fun m => ⟨rfl, rfl, rfl⟩ | decide +kernel
/-- The faults of a step: the first of a run, a second, one that a restore was ordered for, and one of a unit that failed in an earlier run. -/
theorem test_hyp_faults :
    let u : UnitRef := ⟨0, 0, 0, 0⟩
    let again := fun (fs : List (Nat × Nat × Nat × Nat)) (run : Nat) => ∃ f ∈ fs, f.1 = 1 ∧ f.2.1 = unitNum u ∧ f.2.2.1 < run
    let mine := fun (fs : List (Nat × Nat × Nat × Nat)) => fs.filter fun f => f.1 == 1 && f.2.2.1 == 1
    again [(1, unitNum u, 0, 0)] 1 ∧ ¬ again [(1, unitNum u, 1, 0)] 1 ∧ mine [(1, unitNum u, 0, 0)] = [] ∧ mine [(1, 7, 1, 1)] = [(1, 7, 1, 1)] ∧
    (∀ f ∈ mine [(1, 7, 1, 0)], f.2.2.2 = 0) ∧ nget (nset ([] : NMap Nat) 1 1) 1 0 = 1 := by
  and_intros <;> decide +kernel
/-- A window of every class that frees channel 0 of hub 0, bench 0 and die 0. -/
def winTab : TabImage :=
  tabWith 0x7 40 [(0x40c, 4, 10), (0x410, 4, 100), (0x414, 2, 0x3f), (0x416, 2, 3), (0x418, 4, 0x30000000), (0x41c, 4, 0), (0x420, 4, 0x10000000)]
def winState (o : List Nat) : State := { tab := { loaded := some winTab }, csr := [free0, (mgtKey 0x40, 0)], job := { inStep := true, windows := o } }
/-- It is closed, and open; a rate at the limit and one below it; a reading of 0 and of 105 °C. -/
theorem test_hyp_windows : (∃ w, (winState []).myWindows[0]? = some w ∧ (w.seg == 0) = true) ∧ (winState []).job.windows.contains 0 = false ∧
    (winState [0]).openFor 0 0 (chanUnit ch0) = true ∧ (winState []).openFor 0 0 (chanUnit ch0) = false ∧
    (winState [0]).openFor 0 3 ((winState [0]).benchUnit b0) = true ∧ (winState [0]).openFor 0 4 ((winState [0]).benchUnit b0) = true ∧
    (blockOf (0 : Fin 64) 0xf0 0).isSome = true ∧ (winState [0]).openFor 0 2 ((winState [0]).dieUnit (0 : Fin 64)) = true ∧ (winState [0]).mgt.sensors = [] ∧
    (1#2).toNat < (winState [0]).fld (hubKey 0 0x420) 1 0 ∧ (winState [0]).fld (hubKey 0 0x420) 1 0 ≤ (2#2).toNat ∧
    (0 ≤ (0#16).toInt ∧ (0x690#16).toInt ≤ 105 * 16) ∧ (winState [0]).job.queued = [] ∧
    (∀ q, ({ winState [0] with job := { (winState [0]).job with queued := q } } : State).job.queued = q) ∧
    99999 < ({ winState [0] with now := 400000 } : State).tbNow ∧ ({ winState [0] with now := 400000 } : State).tbNow ≤ 100000 := by
  and_intros
  all_goals first | exact someAny (by decide +kernel) | exact fun _ => rfl | decide +kernel

/-- A boot that is not to act, one that stops at once, one without an intact copy, and one that goes to its end; a warm reset in its turn. -/
theorem test_hyp_boot :
    let ready := fun s : State => s.pins.pwrok = true ∧ s.pins.railsUp = true ∧ s.pins.vaon = true ∧ s.fld (mdKey 0 0x300) 2 0 = 0 ∧ s.sec.held = false
    ready State.reset ∧ ¬ ready { csr := [(mdKey 0 0x300, 3)] } ∧ inForce [{ tagOk := false }, { magicOk := false }, { tagOk := false }] = none ∧
    inForce State.reset.flash.copies ≠ none ∧ State.reset.pins.porstL = true ∧ State.reset.pins.pwrok = true ∧ MemInv State.reset ∧
    ({ pins := { porstL := false } } : State).pins.porstL = false ∧ 5 ≤ (5 : Fin 10).val ∧ keepMask true (storeKey (mgtKey 0x150)) = 0 := by
  exact ⟨by decide +kernel, by decide +kernel, by decide +kernel, by decide +kernel, rfl, rfl, rfl, rfl, by decide, by decide +kernel⟩
/-- HELD with reason 1 and with reason 10; an upload that waits; a port that is up with no session, with eight, and with the number in use; a
session that is open and one that is not. -/
theorem test_hyp_sessions :
    let up : NMap Word64 := [(mdKey 0 0x300, 0x10003)]
    let s : State := { csr := up }
    let n := fun k : Nat => { (sess 0 none []) with id := k, opened := k != 1 }
    let t : State := { csr := up, mgt := { sessions := (List.range 8).map n } }
    (∃ s : State, s.sec.held = true ∧ s.fld (mdKey 0 0x300) 11 8 ≠ 10) ∧ ({ csr := [(mdKey 0 0x300, 0xa04)] } : State).fld (mdKey 0 0x300) 11 8 = 10 ∧
    (∃ s : State, s.sec.upload = some (rq0, 1)) ∧ State.reset.portUp 0 = false ∧ s.portUp 0 = true ∧ s.sessionsOf 0 < 8 ∧ s.session? 0 1 = none ∧
    8 ≤ t.sessionsOf 0 ∧ (t.session? 0 7).isSome = true ∧ t.session? 0 1 = some (n 1) ∧ (n 1).opened = false ∧ t.session? 0 2 = some (n 2) ∧ (n 2).opened = true ∧
    (List.replicate 1184 (0 : Byte)).length = 1184 := by
  refine ⟨⟨{ sec := { held := true }, csr := [(mdKey 0 0x300, 0x104)] }, rfl, by decide +kernel⟩, by decide +kernel, ⟨{ sec := { upload := some (rq0, 1) } }, rfl⟩,
    by decide +kernel, by decide +kernel, by decide, rfl, by decide +kernel, by decide +kernel, rfl, rfl, rfl, rfl, List.length_replicate⟩
/-- The second and third miss of a poll; a watchdog in boot and later, and a second expiry within 10 s; restarts of a host; a step whose
inputs are held for another, and a tab with one length bucket. -/
theorem test_hyp_hosts :
    (nget ({ mgt := { i3cMisses := [(3, 2)], sensors := [(sensorKey 3 0 3, (5, true, 0))] } } : State).mgt.i3cMisses 3 0 = 2 ∧
      nget? ({ mgt := { i3cMisses := [(3, 2)], sensors := [(sensorKey 3 0 3, (5, true, 0))] } } : State).mgt.sensors (sensorKey 3 0 3) = some (5, true, 0)) ∧
    State.reset.flash.log.length < 262143 ∧ State.reset.fld (mdKey 0 0x300) 2 0 ≠ 3 ∧
    (let s : State := { csr := [(mdKey 0 0x300, 3)], mgt := { wdogExpired := [(0, 0)] } }
     s.fld (mdKey 0 0x300) 2 0 = 3 ∧ nget? s.mgt.wdogExpired 0 = some 0) ∧
    (∀ k ∈ [1, 2], (({ mgt := { hostRestarts := List.replicate k (0, 0) } } : State).mgt.hostRestarts.filter fun r =>
      r.1 == 0 && decide (0 ≤ 14400000000000 + r.2)).length = k) ∧
    (let s : State := { tab := { loaded := some tab0 }, job := { heldInputs := [5] } }
     (s.hostsUp = true ∧ s.tab.loaded ≠ none ∧ ∀ n ∈ s.job.heldInputs, n = 5) ∧ ∃ n ∈ s.job.heldInputs, n ≠ 6) ∧
    (bucketsOf (tabWith 0x8 32 [(0x400, 4, 128), (0x404, 2, 3)])).map LenBucket.len = [128] := by
  refine ⟨⟨rfl, rfl⟩, by decide, by decide +kernel, ⟨by decide +kernel, rfl⟩, by decide +kernel, ⟨⟨rfl, by decide, by decide⟩, by decide⟩, by decide +kernel⟩

end Sys2Proof.Tests
end

/-! The scalar slot's SALU operation (R91, R92): what its functions compute, which function values are reserved, and the next state. -/
namespace Sys2Proof.Safety
open Sys2Proof.Machine

/-! The functions of R92, by the numbers they compute on. -/

section
variable (a b : Word64)

theorem toNat_saluVal_sll : (saluVal 0x005 a b).toNat = a.toNat * 2 ^ (b.toNat % 64) % 2 ^ 64 :=
  (BitVec.toNat_shiftLeft ..).trans (by rw [Nat.shiftLeft_eq])

theorem toNat_saluVal_srl : (saluVal 0x006 a b).toNat = a.toNat / 2 ^ (b.toNat % 64) :=
  (BitVec.toNat_ushiftRight ..).trans (Nat.shiftRight_eq_div_pow ..)

theorem toInt_saluVal_sra : (saluVal 0x007 a b).toInt = a.toInt / 2 ^ (b.toNat % 64) :=
  BitVec.toInt_sshiftRight.trans (by rw [Int.shiftRight_eq_div_pow, Int.natCast_pow]; rfl)

theorem toNat_saluVal_slt : (saluVal 0x008 a b).toNat = if a.toInt < b.toInt then 1 else 0 :=
  (apply_ite BitVec.toNat ..).trans (by simp only [BitVec.slt_iff_toInt_lt]; rfl)

theorem toNat_saluVal_sltu : (saluVal 0x009 a b).toNat = if a.toNat < b.toNat then 1 else 0 :=
  (apply_ite BitVec.toNat ..).trans (by simp only [BitVec.ult_iff_lt, BitVec.lt_def]; rfl)

theorem toInt_saluVal_min : (saluVal 0x00a a b).toInt = min a.toInt b.toInt :=
  (apply_ite BitVec.toInt ..).trans (by simp only [BitVec.slt_iff_toInt_lt]; split <;> omega)

theorem toInt_saluVal_max : (saluVal 0x00b a b).toInt = max a.toInt b.toInt :=
  (apply_ite BitVec.toInt ..).trans (by simp only [BitVec.slt_iff_toInt_lt]; split <;> omega)

theorem toNat_saluVal_minu : (saluVal 0x00c a b).toNat = min a.toNat b.toNat :=
  (apply_ite BitVec.toNat ..).trans (by simp only [BitVec.ult_iff_lt, BitVec.lt_def]; split <;> omega)

theorem toNat_saluVal_maxu : (saluVal 0x00d a b).toNat = max a.toNat b.toNat :=
  (apply_ite BitVec.toNat ..).trans (by simp only [BitVec.ult_iff_lt, BitVec.lt_def]; split <;> omega)

/-- The high half of an unsigned product needs no wrapping: it is below 2^64. -/
theorem toNat_saluVal_mulhu : (saluVal 0x011 a b).toNat = a.toNat * b.toNat / 2 ^ 64 := by
  have hlt : a.toNat * b.toNat / 2 ^ 64 < 2 ^ 64 :=
    Nat.div_lt_of_lt_mul (Nat.mul_lt_mul'' a.isLt b.isLt)
  exact (BitVec.toNat_ofNat ..).trans (Nat.mod_eq_of_lt hlt)

/-- The high half of a signed product needs no wrapping: it lies within 2^62 of zero. -/
theorem toInt_saluVal_mulh : (saluVal 0x012 a b).toInt = a.toInt * b.toInt / 2 ^ 64 := by
  have hlo : -2 ^ 126 ≤ a.toInt * b.toInt := BitVec.le_toInt_mul_toInt
  have hhi : a.toInt * b.toInt ≤ 2 ^ 126 := BitVec.toInt_mul_toInt_le
  exact BitVec.toInt_ofInt_eq_self (by decide) (by omega) (by omega)

end

/-! Reserved function values. -/

/-- A SALU word is legal exactly when R92 lists its function value. -/
theorem scalarLegal_salu {w : Nat} (h : slotOp w = 0x01) :
    scalarLegal w = true ↔ fFunc11 w ≤ 0x00d ∨ (0x010 ≤ fFunc11 w ∧ fFunc11 w ≤ 0x012) := by
  have hlegal : scalarLegal w = (fFunc11 w ≤ 0x0d || fFunc11 w == 0x10 || fFunc11 w == 0x11 || fFunc11 w == 0x12) := by
    simp only [scalarLegal, h]
  simp only [hlegal, Bool.or_eq_true, decide_eq_true_eq, beq_iff_eq]
  omega

theorem zero_mem_illegalSlot {b : Bundle} : 0 ∈ illegalSlot b ↔ ¬ scalarLegal (slotWord b 0) = true := by
  simp [illegalSlot]

/-! The operation. -/

/-- A SALU operation of the bundle that issues now queues its result, and only that (R87, R91). -/
theorem exec_salu_issuing {c : CoreId} {b : Bundle} {s : State} (h : Issuing c b 0 s) (hop : slotOp (slotWord b 0) = 0x01) :
    exec (.salu c b) s = .next (posted s c 0 (saluLat (fFunc11 (slotWord b 0))) (.s (fSd (slotWord b 0)))
      ((saluVal (fFunc11 (slotWord b 0)) ((s.core c).s (fSa (slotWord b 0))) ((s.core c).s (fSb (slotWord b 0)))).setWidth 512)
      ((s.core c).anyPz [fSa (slotWord b 0), fSb (slotWord b 0)])) := by
  have hlat : 1 ≤ saluLat (fFunc11 (slotWord b 0)) := by unfold saluLat; split <;> decide
  change execSalu c b s = _
  rw [execSalu, slotDo_issuing h hop, State.saluEff, post_took hlat, took_core]
  rfl

theorem hold_posted (s : State) (c : CoreId) (slot lat : Nat) (dst : Dst) (v : Vec) (p : Bool) :
    ((posted s c slot lat dst v p).core c).hold = (s.core c).hold := by
  simp [posted]

/-- Settles O10: each function by its own lemma, the reserved values by the slot's legality, the absence of a fault by the posted result. -/
theorem saluFunctions : Obligations.SaluFunctions := by
  unfold Obligations.SaluFunctions
  refine ⟨fun a b => ?_, fun b hop => ?_, fun c b s h hop => ?_⟩
  · exact ⟨BitVec.toNat_add a b, BitVec.toInt_sub, fun i _ => ⟨BitVec.getLsbD_and, BitVec.getLsbD_or, BitVec.getLsbD_xor⟩,
      toNat_saluVal_sll a b, toNat_saluVal_srl a b, toInt_saluVal_sra a b, toNat_saluVal_slt a b, toNat_saluVal_sltu a b,
      toInt_saluVal_min a b, toInt_saluVal_max a b, toNat_saluVal_minu a b, toNat_saluVal_maxu a b,
      BitVec.toNat_mul a b, toNat_saluVal_mulhu a b, toInt_saluVal_mulh a b⟩
  · exact zero_mem_illegalSlot.trans (not_congr (scalarLegal_salu hop))
  · exact ⟨_, exec_salu_issuing h hop, State.csr_updCore .., State.out_updCore .., hold_posted ..⟩

end Sys2Proof.Safety

/-! Sparse selection (R396, R397): the order of the keys, the three radix passes that find the threshold, and what is taken at it. -/
namespace Sys2Proof.Safety
open Sys2Proof.Machine

/-! The keys. -/

/-- A code is a NaN when its magnitude lies above that of infinity (R122, R124). -/
theorem isNan_f32_iff (x : Nat) : (f32 x).isNan = true ↔ 0x7f800000 < x % 2 ^ 31 := by
  have hdec : f32 x =
      if (x >>> 23) % 256 = 255 then (if x % 2 ^ 23 = 0 then .inf (x.testBit 31) else .nan)
      else if (x >>> 23) % 256 = 0 then .fin (x.testBit 31) (x % 2 ^ 23) (1 - 127 - 23)
      else .fin (x.testBit 31) (x % 2 ^ 23 + 2 ^ 23) (((x >>> 23) % 256 : Nat) - 127 - 23) := by
    simp [f32, Fmt.dec, fp32]
  rw [hdec, Nat.shiftRight_eq_div_pow]
  by_cases hexp : x / 2 ^ 23 % 256 = 255
  · rw [if_pos hexp]
    by_cases hmant : x % 2 ^ 23 = 0
    · rw [if_pos hmant]; simp only [FV.isNan, Bool.false_eq_true, false_iff]; omega
    · rw [if_neg hmant]; simp only [FV.isNan, true_iff]; omega
  · rw [if_neg hexp]
    split <;> simp only [FV.isNan, Bool.false_eq_true, false_iff] <;> omega

/-- The key is the magnitude; every NaN has the key of the canonical NaN. -/
theorem selKey_eq_ite (x : Nat) : selKey x = if 0x7f800000 < x % 2 ^ 31 then 0x7fc00000 else x % 2 ^ 31 :=
  ite_congr (propext (isNan_f32_iff x)) (fun _ => rfl) (fun _ => rfl)

theorem selKey_lt (x : Nat) : selKey x < 2 ^ 31 := by
  rw [selKey_eq_ite]; split <;> omega

theorem selKey_of_le_inf {x : Nat} (h : x ≤ 0x7f800000) : selKey x = x := by
  rw [selKey_eq_ite, Nat.mod_eq_of_lt (by omega), if_neg (by omega)]

theorem selKey_add_signBit (x : Nat) : selKey (2 ^ 31 + x) = selKey x := by
  simp only [selKey_eq_ite, Nat.add_mod_left]

theorem selKey_lt_of_isNan {x y : Nat} (hx : (f32 x).isNan = true) (hy : (f32 y).isNan = false) : selKey y < selKey x := by
  have hy' : ¬ 0x7f800000 < y % 2 ^ 31 := fun h => by simp [(isNan_f32_iff y).2 h] at hy
  rw [selKey_eq_ite, selKey_eq_ite, if_neg hy', if_pos ((isNan_f32_iff x).1 hx)]
  omega

/-! Counting. -/

/-- Elements of one kind, counted as those of two kinds that exclude each other. -/
theorem countP_eq_add {α : Type} {p q r : α → Prop} [DecidablePred p] [DecidablePred q] [DecidablePred r] (l : List α)
    (hor : ∀ x, p x ↔ q x ∨ r x) (hand : ∀ x, q x → ¬ r x) :
    l.countP (fun x => p x) = l.countP (fun x => q x) + l.countP (fun x => r x) := by
  have hq : l.countP (fun x => p x && q x) = l.countP (fun x => q x) := List.countP_congr fun x _ => by
    simpa only [Bool.and_eq_true, decide_eq_true_eq, and_iff_right_iff_imp] using fun h => (hor x).2 (.inl h)
  have hr : l.countP (fun x => p x && !q x) = l.countP (fun x => r x) := List.countP_congr fun x _ => by
    simp only [hor, Bool.and_eq_true, decide_eq_true_eq, Bool.not_eq_true', decide_eq_false_iff_not]
    exact ⟨fun ⟨hqr, hnq⟩ => hqr.resolve_left hnq, fun h => ⟨.inr h, fun hq => hand x hq h⟩⟩
  rw [List.countP_eq_countP_filter_add l _ (fun x => q x), List.countP_filter, List.countP_filter, hq, hr]

theorem count_eq_countP_eq (l : List Nat) (b : Nat) : l.count b = l.countP (· = b) :=
  List.countP_congr fun _ _ => beq_iff_eq.trans decide_eq_true_iff.symm

theorem countP_le_eq_add (l : List Nat) (b : Nat) : l.countP (b ≤ ·) = l.countP (b < ·) + l.count b := by
  rw [count_eq_countP_eq]
  exact countP_eq_add l (fun x => by omega) (fun x => by omega)

theorem getD_lset {β : Type} (l : List β) (i j : Nat) (y z : β) :
    (lset l i y).getD j z = if i = j ∧ i < l.length then y else l.getD j z := by
  induction l generalizing i j with
  | nil => simp [lset]
  | cons x xs ih =>
    cases i with
    | zero => cases j <;> simp [lset]
    | succ i =>
      cases j with
      | zero => simp [lset]
      | succ j => simpa [lset] using ih i j

theorem length_lset {β : Type} (l : List β) (i : Nat) (y : β) : (lset l i y).length = l.length := by
  induction l generalizing i with
  | nil => rfl
  | cons x xs ih => cases i <;> simp [lset, ih]

/-- The histogram holds the exact counts of the digits. -/
theorem getD_histogram (f : Nat → Nat) (l h : List Nat) {d : Nat} (hd : d < h.length) :
    (l.foldl (fun h k => lset h (f k) (h.getD (f k) 0 + 1)) h).getD d 0 = h.getD d 0 + (l.map f).count d := by
  induction l generalizing h with
  | nil => rfl
  | cons x xs ih =>
    rw [List.foldl_cons, ih _ (by rwa [length_lset]), getD_lset, List.map_cons, List.count_cons]
    by_cases hx : f x = d
    · rw [if_pos ⟨hx, hx ▸ hd⟩, hx, if_pos (beq_self_eq_true d)]; omega
    · simp [hx]

theorem getD_replicate_zero (n d : Nat) : (List.replicate n 0).getD d 0 = 0 := by
  rw [List.getD_eq_getElem?_getD, List.getElem?_replicate]
  split <;> rfl

/-! The radix passes. -/

/-- The scan stops at a bin `r.1` with `r.2` digits above it, from which the counts reach what is needed. -/
theorem scanBins_spec {hist ds : List Nat} {need : Nat} (htot : need ≤ ds.length) :
    ∀ b, (∀ d ≤ b, hist.getD d 0 = ds.count d) → ds.countP (b < ·) ≤ need →
      let r := scanBins hist need b (ds.countP (b < ·))
      r.1 ≤ b ∧ r.2 = ds.countP (r.1 < ·) ∧ r.2 ≤ need ∧ need ≤ r.2 + ds.count r.1
  | 0, _, hle => by
    have hall : ds.countP (0 ≤ ·) = ds.length := by simp
    have := countP_le_eq_add ds 0
    exact ⟨Nat.le_refl _, rfl, hle, by simp only [scanBins]; omega⟩
  | b + 1, hh, hle => by
    have hacc : ds.countP (b < ·) = ds.countP (b + 1 < ·) + hist.getD (b + 1) 0 := by
      rw [hh _ (Nat.le_refl _)]; exact countP_le_eq_add ds (b + 1)
    simp only [scanBins]
    split
    next hlt =>
      rw [← hacc] at hlt ⊢
      obtain ⟨hb, hrest⟩ := scanBins_spec htot b (fun d hd => hh d (by omega)) (Nat.le_of_lt hlt)
      exact ⟨by omega, hrest⟩
    next hge =>
      rw [hh _ (Nat.le_refl _)] at hge
      exact ⟨Nat.le_refl _, rfl, hle, by simpa using hge⟩

/-- The bits above `lo`, compared with a prefix and a digit below it. -/
theorem prefix_lt_iff {q p r W : Nat} (hr : r < W) : p * W + r < q ↔ p < q / W ∨ q / W = p ∧ r < q % W := by
  have hq := Nat.div_add_mod' q W
  have hd : q % W < W := Nat.mod_lt _ (by omega)
  have hmono : ∀ {m n : Nat}, m < n → m * W + W ≤ n * W := fun h => by
    rw [← Nat.succ_mul]; exact Nat.mul_le_mul_right W h
  rcases Nat.lt_trichotomy p (q / W) with h | rfl | h
  · have := hmono h; omega
  · omega
  · have := hmono h; omega

theorem eq_prefix_iff {q p r W : Nat} (hr : r < W) : q = p * W + r ↔ q / W = p ∧ q % W = r := by
  rw [Nat.div_mod_unique (by omega), and_iff_left hr, Nat.add_comm, Nat.mul_comm, eq_comm]

/-- What the passes keep: of the `k` largest keys, all but `p.2` have a prefix above `p.1`, and enough keys have the prefix `p.1` to give
the rest. The prefix is what stands above the low `bits` bits. -/
structure Narrowed (keys : List Nat) (k bits : Nat) (p : Nat × Nat) : Prop where
  above : keys.countP (p.1 < · >>> bits) + p.2 = k
  atPrefix : p.2 ≤ keys.countP (· >>> bits = p.1)

/-- Before the first pass the prefix is empty and all of `k` is needed. -/
theorem narrowed_start {keys : List Nat} {k bits : Nat} (hk : k ≤ keys.length) (hlt : ∀ x ∈ keys, x < 2 ^ bits) :
    Narrowed keys k bits (0, k) := by
  have hz : ∀ x ∈ keys, x >>> bits = 0 := fun x hx => by rw [Nat.shiftRight_eq_div_pow, Nat.div_eq_of_lt (hlt x hx)]
  have habove : keys.countP (0 < · >>> bits) = 0 := List.countP_eq_zero.2 fun x hx => by simp [hz x hx]
  have hat : keys.countP (· >>> bits = 0) = keys.length := List.countP_eq_length.2 fun x hx => by simp [hz x hx]
  exact ⟨by simp [habove], by simpa [hat] using hk⟩

/-- The digits at `[hi:lo]` of the keys with prefix `p`: what the histogram of a pass counts. -/
def passDigits (keys : List Nat) (p hi lo : Nat) : List Nat :=
  (keys.filter fun k => k >>> (hi + 1) == p).map (bitsOf · hi lo)

theorem length_passDigits (keys : List Nat) (p hi lo : Nat) :
    (passDigits keys p hi lo).length = keys.countP (· >>> (hi + 1) = p) := by
  rw [passDigits, List.length_map, ← List.countP_eq_length_filter]; rfl

theorem countP_passDigits (keys : List Nat) (p hi lo : Nat) (f : Nat → Prop) [DecidablePred f] :
    (passDigits keys p hi lo).countP (fun d => f d) = keys.countP fun k => k >>> (hi + 1) = p ∧ f (bitsOf k hi lo) := by
  rw [passDigits, List.countP_map, List.countP_filter]
  exact List.countP_congr fun x _ => by simp [and_comm]

theorem lt_of_mem_passDigits {keys : List Nat} {p hi lo d : Nat} (h : d ∈ passDigits keys p hi lo) : d < 2 ^ (hi + 1 - lo) := by
  obtain ⟨k, -, rfl⟩ := List.mem_map.1 h
  exact Nat.mod_lt _ (Nat.two_pow_pos _)

/-- A pass appends to the prefix the digit `b` at which the counts reach what is needed, and takes off what has a larger digit. -/
theorem radixPass_spec {keys : List Nat} {hi lo : Nat} {p : Nat × Nat} (hneed : p.2 ≤ keys.countP (· >>> (hi + 1) = p.1)) :
    ∃ b above, radixPass keys p hi lo = (p.1 * 2 ^ (hi + 1 - lo) + b, p.2 - above) ∧ b < 2 ^ (hi + 1 - lo) ∧
      above = (passDigits keys p.1 hi lo).countP (b < ·) ∧ above ≤ p.2 ∧ p.2 ≤ above + (passDigits keys p.1 hi lo).count b := by
  have hpos : 0 < 2 ^ (hi + 1 - lo) := Nat.two_pow_pos _
  have htop : (passDigits keys p.1 hi lo).countP (2 ^ (hi + 1 - lo) - 1 < ·) = 0 :=
    List.countP_eq_zero.2 fun d hd => by have := lt_of_mem_passDigits hd; rw [decide_eq_true_eq]; omega
  rw [← length_passDigits keys p.1 hi lo] at hneed
  have hscan := scanBins_spec hneed (2 ^ (hi + 1 - lo) - 1)
    (fun d hd => (getD_histogram (bitsOf · hi lo) (keys.filter fun k => k >>> (hi + 1) == p.1) (List.replicate (2 ^ (hi + 1 - lo)) 0)
      (by rw [List.length_replicate]; omega)).trans (by rw [getD_replicate_zero, Nat.zero_add, passDigits])) (by omega)
  rw [htop] at hscan
  obtain ⟨hb, habove, hle, hge⟩ := hscan
  exact ⟨_, _, rfl, Nat.lt_of_le_pred hpos hb, habove, hle, hge⟩

/-- A pass fixes the prefix down to bit `lo`. -/
theorem Narrowed.radixPass {keys : List Nat} {k hi lo : Nat} {p : Nat × Nat} (h : Narrowed keys k (hi + 1) p) (hlo : lo ≤ hi) :
    Narrowed keys k lo (radixPass keys p hi lo) := by
  obtain ⟨b, above, hr, hb, habove, hle, hge⟩ := radixPass_spec (lo := lo) h.atPrefix
  have hshift : ∀ x : Nat, (x >>> lo) / 2 ^ (hi + 1 - lo) = x >>> (hi + 1) := fun x => by
    rw [← Nat.shiftRight_eq_div_pow, ← Nat.shiftRight_add, Nat.add_sub_cancel' (by omega)]
  have hsplit : keys.countP (p.1 * 2 ^ (hi + 1 - lo) + b < · >>> lo) = keys.countP (p.1 < · >>> (hi + 1)) + above := by
    rw [habove, countP_passDigits]
    refine countP_eq_add keys (fun x => ?_) (fun x => by omega)
    rw [prefix_lt_iff hb, hshift, bitsOf]
  have hat : keys.countP (· >>> lo = p.1 * 2 ^ (hi + 1 - lo) + b) = (passDigits keys p.1 hi lo).count b := by
    refine .trans ?_ (countP_passDigits keys p.1 hi lo (· = b)).symm
    exact List.countP_congr fun x _ => by
      rw [decide_eq_true_iff, decide_eq_true_iff, eq_prefix_iff hb, hshift, bitsOf]
  have := h.above
  rw [hr]
  exact ⟨by rw [hsplit]; omega, by rw [hat]; omega⟩

/-- The threshold key and the count to take at it: the larger keys and that many of the threshold key are `k` elements. -/
theorem threshold_spec {keys : List Nat} {k : Nat} (hk : k ≤ keys.length) (hlt : ∀ x ∈ keys, x < 2 ^ 31) :
    keys.countP ((threshold keys k).1 < ·) + (threshold keys k).2 = k ∧ (threshold keys k).2 ≤ keys.count (threshold keys k).1 := by
  obtain ⟨habove, hat⟩ : Narrowed keys k 0 (threshold keys k) :=
    (((narrowed_start hk hlt).radixPass (by decide)).radixPass (by decide)).radixPass (by decide)
  exact ⟨habove, by rw [count_eq_countP_eq]; exact hat⟩

/-! What is taken. -/

/-- The head is taken above the threshold, or at it while some are needed; a head at the threshold uses up one. -/
theorem selectGo_cons (t need x : Nat) (xs : List Nat) :
    selectGo t need (x :: xs) = decide (t < x ∨ x = t ∧ 0 < need) :: selectGo t (need - if x = t then 1 else 0) xs := by
  rcases Nat.lt_trichotomy t x with habove | rfl | hbelow
  · simp [selectGo, habove, Nat.ne_of_gt habove]
  · cases need <;> simp [selectGo]
  · simp [selectGo, Nat.not_lt_of_gt hbelow, Nat.ne_of_lt hbelow]

theorem length_selectGo (t need : Nat) (l : List Nat) : (selectGo t need l).length = l.length := by
  induction l generalizing need with
  | nil => rfl
  | cons x xs ih => rw [selectGo_cons, List.length_cons, List.length_cons, ih]

/-- Every larger key is taken, and of the threshold key as many as are needed. -/
theorem count_selectGo (t need : Nat) (l : List Nat) :
    (selectGo t need l).count true = l.countP (t < ·) + min need (l.count t) := by
  induction l generalizing need with
  | nil => simp [selectGo]
  | cons x xs ih =>
    simp only [selectGo_cons, List.count_cons, List.countP_cons, ih, beq_iff_eq, decide_eq_true_eq]
    by_cases htie : x = t
    · simp only [htie, Nat.lt_irrefl, false_or, true_and, if_true, if_false]
      split <;> omega
    · simp only [htie, false_and, or_false, if_false, Nat.sub_zero, Nat.add_zero]
      omega

/-- An element is taken when its key is larger than the threshold, or is the threshold with fewer than `need` of that key before it. -/
theorem selectGo_getD_iff {t need : Nat} {l : List Nat} {i : Nat} (hi : i < l.length) :
    (selectGo t need l).getD i false = true ↔ t < l.getD i 0 ∨ l.getD i 0 = t ∧ (l.take i).count t < need := by
  induction l generalizing need i with
  | nil => simp at hi
  | cons x xs ih =>
    rw [selectGo_cons]
    cases i with
    | zero => simp
    | succ i =>
      rw [List.getD_cons_succ, List.getD_cons_succ, List.take_succ_cons, List.count_cons, ih (Nat.lt_of_succ_lt_succ hi),
        Nat.lt_sub_iff_add_lt]
      simp only [beq_iff_eq]

/-- None that is left has a larger key than one that is taken, and of equal keys the taken one stands first. -/
theorem selectGo_order {t need : Nat} {l : List Nat} {i j : Nat} (hi : i < l.length) (hj : j < l.length)
    (hti : (selectGo t need l).getD i false = true) (htj : (selectGo t need l).getD j false = false) :
    l.getD j 0 ≤ l.getD i 0 ∧ (l.getD i 0 = l.getD j 0 → i < j) := by
  rw [selectGo_getD_iff hi] at hti
  rw [← Bool.not_eq_true, selectGo_getD_iff hj] at htj
  refine ⟨by omega, fun heq => Nat.lt_of_not_le fun hij => ?_⟩
  have hcount : (l.take j).count t ≤ (l.take i).count t := (List.take_sublist_take_left hij).count_le t
  omega

/-- R396's `k = E >> n` elements are selected. -/
theorem count_select (xs : List Nat) (n : Nat) : (select xs n).count true = xs.length >>> n := by
  have hk : xs.length >>> n ≤ (xs.map selKey).length := by
    rw [List.length_map]; exact Nat.shiftRight_le _ _
  have hlt : ∀ x ∈ xs.map selKey, x < 2 ^ 31 := fun x hx => by
    obtain ⟨y, -, rfl⟩ := List.mem_map.1 hx
    exact selKey_lt y
  obtain ⟨habove, hat⟩ := threshold_spec hk hlt
  rw [select, count_selectGo, Nat.min_eq_left hat, habove]

theorem select_order {xs : List Nat} {n i j : Nat} (hi : i < xs.length) (hj : j < xs.length)
    (hti : (select xs n).getD i false = true) (htj : (select xs n).getD j false = false) :
    selKey (xs.getD j 0) ≤ selKey (xs.getD i 0) ∧ (selKey (xs.getD i 0) = selKey (xs.getD j 0) → i < j) := by
  have hkey : ∀ m < xs.length, (xs.map selKey).getD m 0 = selKey (xs.getD m 0) := fun m hm => by
    simp [List.getD_eq_getElem?_getD, hm]
  rw [← hkey i hi, ← hkey j hj]
  exact selectGo_order (by simpa using hi) (by simpa using hj) hti htj

/-- Settles O34: the passes find the threshold that `k` elements reach, the last walk takes what lies above it and the first ones at it, and
the keys order codes as magnitudes with the NaNs on top. -/
theorem selectionIsExact : Obligations.SelectionIsExact := by
  unfold Obligations.SelectionIsExact
  refine ⟨fun xs n => ⟨?_, count_select xs n, fun i j hi hj hti htj => select_order hi hj hti htj⟩,
    fun x _ => selKey_add_signBit x, fun x y hx hy => ?_, fun x y hx hy => selKey_lt_of_isNan hx hy⟩
  · exact (length_selectGo ..).trans (List.length_map ..)
  · rw [selKey_of_le_inf hx, selKey_of_le_inf hy]

end Sys2Proof.Safety
